-- ==== Sys2Proof/Word.lean ====
section
/-! DEFINITION. The word types of the KX-TH8M and the identifiers that name its parts. -/

namespace Sys2Proof

/-- A 64-bit scalar value (R17, R102). -/
abbrev Word := BitVec 64

/-- A 16-bit code word (R137). -/
abbrev Half := BitVec 16

/-- One byte of tile or far memory (R114). -/
abbrev Byte := BitVec 8

/-- A vector register or one 64-byte line (R102, R103). -/
abbrev Line := BitVec 512

/-- The number of a scalar or vector register (R139). -/
abbrev Reg := BitVec 5

/-- A strand is named by its corridor, its vtile and its strand slot (R17, R21). -/
structure StrandId where
  cor : Nat
  vt : Nat
  slot : Nat
  deriving DecidableEq, Repr

/-- The corridor number that stands for the depot: no launch record can name it, since `corridor_id` has 32 bits
(R308).  A depot strand's `vt` is its physical tile number. -/
abbrev depotCor : Nat := 4294967296

end Sys2Proof
end

