-- ==== Sys2Proof/Config.lean ====
section
/-! DEFINITION. The values that the spec leaves open: constants without a body, so that nothing can be proved of their
values.  The first two are applied to the model's own counter, State.free (assumption 2), the others to what they depend
on. -/

namespace Sys2Proof.Config

/-- A 64-bit free value: what a control register number without a field map reads as for a depot strand (assumption
13), and every other open scalar. -/
opaque freeWord : Nat → BitVec 64

/-- A free byte: a byte that a command reads from a source that a strand has overwritten since (R48; assumption 14). -/
opaque freeByte : Nat → BitVec 8

/-- The PI factor of `qdec` where its product is a NaN, by the two errors and the two exponents: R277 makes the decision a
function of them (assumption 17). -/
opaque factorOfNaN : BitVec 32 → BitVec 32 → BitVec 32 → BitVec 32 → BitVec 32

/-- Byte n of the forward error correction of a flit, by its first 240 bytes: R352 names no code (assumption 62). -/
opaque fecByte : List (BitVec 8) → Nat → BitVec 8

/-- The frame that the host's answer to an ATS translation request names, by PASID and page (R362; assumption 65). -/
opaque hostFrame : Nat → Nat → Nat

end Sys2Proof.Config
end

