-- ==== Sys2Proof/Syntax.lean ====
section
/-! DEFINITION. The steps of the KX-TH8M: one constructor per row of spec/opcode_table.json.  The first 221 are the
instructions of chapters 08 to 14 with their operands as decoded (R137 to R154); the other 106 are the device's own
events, with the operands that say where each one happens. -/

namespace Sys2Proof

/-- The modifiers of a pfx.x word (R141, R145): all zero where the chain has none. -/
structure Mod where
  sat : Bool
  clp : Bool
  neg : Bool
  abs : Bool
  scl : BitVec 5
  deriving DecidableEq, Repr

/-- Two register fields: destination and source. -/
structure R2 where
  d : Reg
  a : Reg
  deriving DecidableEq, Repr

/-- The three register fields of an RRR word (R138, R139). -/
structure R3 where
  d : Reg
  a : Reg
  b : Reg
  deriving DecidableEq, Repr

/-- An RI word: destination, source and extended immediate (R140). -/
structure RI where
  d : Reg
  a : Reg
  imm : Int
  deriving DecidableEq, Repr

/-- An LI word (R140, R190). -/
structure LI where
  d : Reg
  imm : Int
  deriving DecidableEq, Repr

/-- An LD word: destination, base, offset in access units, lookahead and post-increment (R151). -/
structure LdOp where
  d : Reg
  a : Reg
  off : Int
  la : BitVec 4
  inc : Bool
  deriving DecidableEq, Repr

/-- An SM word: source, base, offset in access units (R151, R152). -/
structure StOp where
  s : Reg
  a : Reg
  off : Int
  deriving DecidableEq, Repr

/-- A branch: tested register, condition, nullify bit and offset in words (R153, R201). -/
structure BrOp where
  a : Reg
  cc : BitVec 3
  n : Bool
  off : Int
  deriving DecidableEq, Repr

/-- The fn11 fields of `rep` (R150): n - 1, count register, stride and selected fields. -/
structure RepOp where
  nm1 : BitVec 3
  cnt : BitVec 3
  stride : BitVec 3
  fields : BitVec 2
  deriving DecidableEq, Repr

/-- `fcvt`: rounding in fn, source and destination codes in aux5 (R199). -/
structure CvtOp where
  d : Reg
  a : Reg
  rm : BitVec 2
  src : BitVec 2
  dst : BitVec 2
  deriving DecidableEq, Repr

/-- A two-source vector operation: mask predicate and element type (R207, R154). -/
structure V3 where
  d : Reg
  a : Reg
  b : Reg
  m : BitVec 3
  t : BitVec 5
  deriving DecidableEq, Repr

/-- A one-source vector operation. -/
structure V2 where
  d : Reg
  a : Reg
  m : BitVec 3
  t : BitVec 5
  deriving DecidableEq, Repr

/-- A vector compare into a predicate register (R212). -/
structure VCmp where
  d : BitVec 3
  a : Reg
  b : Reg
  m : BitVec 3
  t : BitVec 5
  deriving DecidableEq, Repr

/-- `vcvt`: the source code stands in rb and fn, the destination code in aux5 (R206, R214). -/
structure VCvt where
  d : Reg
  a : Reg
  m : BitVec 3
  src : BitVec 5
  dst : BitVec 5
  deriving DecidableEq, Repr

/-- `mmma`: handle, the two operand fields, fn (bit 0: A from registers, bit 1: B) and K/16 - 1 (R227, R228). -/
structure MmaOp where
  h : Reg
  a : Reg
  b : Reg
  fn : BitVec 2
  k : BitVec 5
  deriving DecidableEq, Repr

/-- `dld` (R259). -/
structure DLdOp where
  d : BitVec 4
  a : Reg
  off : Int
  la : BitVec 4
  inc : Bool
  m : BitVec 3
  lin : BitVec 5
  deriving DecidableEq, Repr

/-- `dst` (R260). -/
structure DStOp where
  s : BitVec 4
  a : Reg
  off : Int
  m : BitVec 3
  deriving DecidableEq, Repr

/-- A two-source distribution operation (R246). -/
structure D3 where
  d : BitVec 4
  a : BitVec 4
  b : BitVec 4
  m : BitVec 3
  deriving DecidableEq, Repr

/-- Where an ECC error is found (R97, R366): an SRAM structure of a tile, at an offset, read on a vtile of a corridor for a stage (none: read
by no stage) or for the command that the tile's matrix unit runs, a register or TLB or mailbox structure of a strand, or a
far-memory line read for a strand through a device VA. -/
inductive EccSite where
  | sram (tile off : Nat) (reader : Option (Nat × Nat × Nat))
  | command (tile off : Nat)
  | regs (id : StrandId)
  | far (pa va : Nat) (reader : StrandId)
  deriving DecidableEq, Repr

/-- Where a parity error is found (R366); from 4 on the junction is the package's, which serves every die. -/
inductive ParitySite where
  | pcQueue (id : StrandId)
  | engine (id : StrandId)
  | issue (tile : Nat)
  | junction (die : Nat)
  deriving DecidableEq, Repr

/-- What boot meets (R14, R376): per die whether both signatures verified, its fused anti-rollback counter and its fused identity
certificate, the fused hash of the vendor's key, the pairs of dies of which the second did not accept the proof of the first, the
64 bytes of the configuration table, the fused-off sites, and the firmware as each depot tile's memory takes it from offset 0
(assumption 22). -/
structure BootInput where
  verified : List Bool
  counters : List Nat
  identity : List Nat
  keyHash : Nat
  refused : List (Nat × Nat)
  table : List Byte
  fused : List Nat
  firmware : List Byte
  deriving DecidableEq, Repr

/-- What the debugger writes into a halted strand (R344). -/
inductive DebugWrite where
  | s (r : Reg) (w : Word)
  | v (r : Reg) (w : Line)
  | d (r : BitVec 4) (image : List Byte)
  | p (r : BitVec 3) (w : Word)
  | csr (n : BitVec 8) (w : Word)
  | pcs (pc0 pc1 pc2 : Word)
  | annul (a : BitVec 2)
  deriving DecidableEq, Repr

/-- The kinds of a fabric transaction (R354). -/
inductive FabricKind where
  | rd | wr | amo | probe | drain | jct
  deriving DecidableEq, Repr

/-- The status a responder answers with (R356). -/
inductive FabricStatus where
  | ok | stale | busy | cause (c : BitVec 8)
  deriving DecidableEq, Repr

/-- A request as it reaches a responder (R354): its fields, the addressed target and the data it carries. -/
structure FabricReq where
  src : Nat
  kind : FabricKind
  tag : Nat
  inc : Nat
  attempt : Nat
  age : Nat
  epoch : Nat
  pasid : Nat
  va : Nat
  size : Nat
  data : List Byte
  op : BitVec 5
  deriving DecidableEq, Repr

/-- A reply as it reaches the requester, on a port (R355). -/
structure FabricRep where
  pkg : Nat
  tag : Nat
  inc : Nat
  status : FabricStatus
  epoch : Nat
  data : List Byte
  port : Nat
  deriving DecidableEq, Repr

/-- An atomic of the host (R64): its operation, its operand and what a cas compares. -/
structure HostAtomic where
  op : BitVec 5
  operand : Word
  compare : Word
  deriving DecidableEq, Repr

/-- A host access through BAR2 (R361) at the device VA that its place in the window stands for (assumption 90): a write
carries its bytes, a read its size, an atomic its size and operands. -/
structure Bar2 where
  fn : Nat
  va : Nat
  size : Nat
  write : Option (List Byte)
  atomic : Option HostAtomic
  deriving DecidableEq, Repr

/-- The host-visible registers without a row of their own (R107, R304, R347, R349, R350, R359 to R364, R379); `bar0` names a
place of the writing function's BAR0 (R361).  Timeout, retries and the flight time are the depot's (R355). -/
inductive HostReg where
  | bar0 (offset : Nat)
  | notifyPage (i : Nat)
  | queueOwner (q : Nat)
  | functionPasid (f : Nat)
  | packageNumber
  | apertureVa (pasid i : Nat)
  | apertureSize (pasid i : Nat)
  | aperturePkg (pasid i : Nat)
  | aperturePasid (pasid i : Nat)
  | apertureTarget (pasid i : Nat)
  | sendOwner (q : Nat)
  | sendPort (q : Nat)
  | sendOrdered (q : Nat)
  | sendRing (q : Nat)
  | sendHeader (q i : Nat)
  | recvBuffer (q : Nat)
  | frBase
  | frTail
  | frVec
  | oflVec
  | rmpBase
  | rmpTail
  | vectorMask (v : Nat)
  | vectorAddr (v : Nat)
  | rootTable (pasid : Nat)
  | stage2Table (ctx : Nat)
  | retryTimeout
  | retryCount
  | flightTime
  | keepImage (cor : Nat)
  deriving DecidableEq, Repr

/-- One constructor per row of spec/opcode_table.json, in the table's order. -/
inductive Instr where
  /-- `ADD` (R187): Adds two scalar registers into rd, wrapping, or clamping under sat. -/
  | add (o : R3) (x : Mod)
  /-- `SUB` (R187): Subtracts s[rb] from s[ra] into rd. -/
  | sub (o : R3) (x : Mod)
  /-- `MUL` (R187): Multiplies two scalar registers, keeping the low 64 bits. -/
  | mul (o : R3) (x : Mod)
  /-- `MULH` (R187): Writes the signed high half of the 128-bit product. -/
  | mulh (o : R3) (x : Mod)
  /-- `AND` (R188): Bitwise AND of two scalar registers. -/
  | and_ (o : R3)
  /-- `OR` (R188): Bitwise OR of two scalar registers. -/
  | or_ (o : R3)
  /-- `XOR` (R188): Bitwise XOR of two scalar registers. -/
  | xor_ (o : R3)
  /-- `ANDN` (R188): s[ra] AND NOT s[rb]. -/
  | andn (o : R3)
  /-- `SHL` (R188): Shifts left by s[rb][5:0]. -/
  | shl (o : R3)
  /-- `SHR` (R188): Logical right shift by s[rb][5:0]. -/
  | shr (o : R3)
  /-- `SRA` (R188): Arithmetic right shift by s[rb][5:0]. -/
  | sra (o : R3)
  /-- `ROL` (R188): Rotates left by s[rb][5:0]. -/
  | rol (o : R3)
  /-- `SLT` (R189): Writes 1 when s[ra] < s[rb] signed. -/
  | slt (o : R3)
  /-- `SLTU` (R189): Writes 1 when s[ra] < s[rb] unsigned. -/
  | sltu (o : R3)
  /-- `SEQ` (R189): Writes 1 when the registers are equal. -/
  | seq (o : R3)
  /-- `SNE` (R189): Writes 1 when the registers differ. -/
  | sne (o : R3)
  /-- `MIN` (R187): Signed minimum of two scalar registers. -/
  | min (o : R3) (x : Mod)
  /-- `MAX` (R187): Signed maximum of two scalar registers. -/
  | max (o : R3) (x : Mod)
  /-- `MINU` (R187): Unsigned minimum of two scalar registers. -/
  | minu (o : R3) (x : Mod)
  /-- `MAXU` (R187): Unsigned maximum of two scalar registers. -/
  | maxu (o : R3) (x : Mod)
  /-- `ADDI` (R187): Adds a sign-extended immediate to s[ra]. -/
  | addi (o : RI) (x : Mod)
  /-- `ANDI` (R188): AND with a sign-extended immediate. -/
  | andi (o : RI)
  /-- `ORI` (R188): OR with a sign-extended immediate. -/
  | ori (o : RI)
  /-- `XORI` (R188): XOR with a sign-extended immediate. -/
  | xori (o : RI)
  /-- `SHLI` (R188): Shifts left by an immediate. -/
  | shli (o : RI)
  /-- `SHRI` (R188): Logical right shift by an immediate. -/
  | shri (o : RI)
  /-- `SRAI` (R188): Arithmetic right shift by an immediate. -/
  | srai (o : RI)
  /-- `LI` (R190): Loads a sign-extended immediate into s[rd]. -/
  | li (o : LI)
  /-- `LIH` (R190): Writes immediate bits [31:0] to bits [63:32] of s[rd]. -/
  | lih (o : LI)
  /-- `LD_B` (R171): Loads a zero-extended byte from local tile memory under a lookahead window. -/
  | ldB (o : LdOp)
  /-- `LD_H` (R171): Loads a zero-extended halfword from local tile memory. -/
  | ldH (o : LdOp)
  /-- `LD_W` (R171): Loads a zero-extended word from local tile memory. -/
  | ldW (o : LdOp)
  /-- `LD_D` (R171): Loads a doubleword from local tile memory. -/
  | ldD (o : LdOp)
  /-- `LD_BS` (R171): Loads a sign-extended byte from local tile memory. -/
  | ldBs (o : LdOp)
  /-- `LD_HS` (R171): Loads a sign-extended halfword from local tile memory. -/
  | ldHs (o : LdOp)
  /-- `LD_WS` (R171): Loads a sign-extended word from local tile memory. -/
  | ldWs (o : LdOp)
  /-- `ST_B` (R171): Stores a byte to local tile memory as a held local write. -/
  | stB (o : StOp)
  /-- `ST_H` (R171): Stores a halfword to local tile memory. -/
  | stH (o : StOp)
  /-- `ST_W` (R171): Stores a word to local tile memory. -/
  | stW (o : StOp)
  /-- `ST_D` (R171): Stores a doubleword to local tile memory. -/
  | stD (o : StOp)
  /-- `B` (R201): Conditional branch on s[ra] with two delay slots, optionally nullifying. -/
  | b (o : BrOp)
  /-- `J` (R202): Unconditional PC-relative jump with two delay slots. -/
  | j (off : Int)
  /-- `CALL` (R202): PC-relative call writing the link to s31. -/
  | call (off : Int)
  /-- `JR` (R203): Jumps to the address in s[ra]. -/
  | jr (a : Reg)
  /-- `CALLR` (R203): Calls the address in s[ra], writing the link to s31. -/
  | callr (a : Reg)
  /-- `RET` (R203): Jumps to the address in s31. -/
  | ret
  /-- `REP` (R157): Repeats the next n instructions c times, renumbering vector fields by stride. -/
  | rep (o : RepOp)
  /-- `DIV` (R191): Signed division toward zero, raising DIVZ on a zero divisor. -/
  | div (o : R3)
  /-- `DIVU` (R191): Unsigned division. -/
  | divu (o : R3)
  /-- `REM` (R191): Signed remainder with the sign of the dividend. -/
  | rem (o : R3)
  /-- `REMU` (R191): Unsigned remainder. -/
  | remu (o : R3)
  /-- `CLZ` (R192): Counts leading zero bits. -/
  | clz (o : R2)
  /-- `CTZ` (R192): Counts trailing zero bits. -/
  | ctz (o : R2)
  /-- `POP` (R192): Counts one bits. -/
  | pop (o : R2)
  /-- `BREV` (R192): Reverses the bit order. -/
  | brev (o : R2)
  /-- `BFX` (R193): Extracts a zero-extended bit field. -/
  | bfx (o : R3) (w : BitVec 5)
  /-- `BFXS` (R193): Extracts a sign-extended bit field. -/
  | bfxs (o : R3) (w : BitVec 5)
  /-- `BFI` (R193): Inserts a bit field into s[rd]. -/
  | bfi (o : R3) (w : BitVec 5)
  /-- `SEL` (R194): Selects s[ra] when the condition register is non-zero, else s[rb]. -/
  | sel (o : R3) (c : Reg)
  /-- `SELZ` (R194): Selects s[ra] when the condition register is zero, else s[rb]. -/
  | selz (o : R3) (c : Reg)
  /-- `FADD_F32` (R195): FP32 addition rounded under VFC. -/
  | faddF32 (o : R3) (x : Mod)
  /-- `FSUB_F32` (R195): FP32 subtraction. -/
  | fsubF32 (o : R3) (x : Mod)
  /-- `FMUL_F32` (R195): FP32 multiplication. -/
  | fmulF32 (o : R3) (x : Mod)
  /-- `FDIV_F32` (R195): FP32 division. -/
  | fdivF32 (o : R3) (x : Mod)
  /-- `FADD_F64` (R195): FP64 addition. -/
  | faddF64 (o : R3) (x : Mod)
  /-- `FSUB_F64` (R195): FP64 subtraction. -/
  | fsubF64 (o : R3) (x : Mod)
  /-- `FMUL_F64` (R195): FP64 multiplication. -/
  | fmulF64 (o : R3) (x : Mod)
  /-- `FDIV_F64` (R195): FP64 division. -/
  | fdivF64 (o : R3) (x : Mod)
  /-- `FMA_F32` (R196): FP32 fused a·b + c with one rounding. -/
  | fmaF32 (o : R3) (c : Reg) (x : Mod)
  /-- `FMS_F32` (R196): FP32 fused a·b − c. -/
  | fmsF32 (o : R3) (c : Reg) (x : Mod)
  /-- `FNMA_F32` (R196): FP32 fused −(a·b) − c. -/
  | fnmaF32 (o : R3) (c : Reg) (x : Mod)
  /-- `FNMS_F32` (R196): FP32 fused −(a·b) + c. -/
  | fnmsF32 (o : R3) (c : Reg) (x : Mod)
  /-- `FMA_F64` (R196): FP64 fused a·b + c. -/
  | fmaF64 (o : R3) (c : Reg) (x : Mod)
  /-- `FMS_F64` (R196): FP64 fused a·b − c. -/
  | fmsF64 (o : R3) (c : Reg) (x : Mod)
  /-- `FNMA_F64` (R196): FP64 fused −(a·b) − c. -/
  | fnmaF64 (o : R3) (c : Reg) (x : Mod)
  /-- `FNMS_F64` (R196): FP64 fused −(a·b) + c. -/
  | fnmsF64 (o : R3) (c : Reg) (x : Mod)
  /-- `FMIN_F32` (R197): FP32 minimum with −0 below +0 and NaN skipped. -/
  | fminF32 (o : R3) (x : Mod)
  /-- `FMAX_F32` (R197): FP32 maximum. -/
  | fmaxF32 (o : R3) (x : Mod)
  /-- `FMIN_F64` (R197): FP64 minimum. -/
  | fminF64 (o : R3) (x : Mod)
  /-- `FMAX_F64` (R197): FP64 maximum. -/
  | fmaxF64 (o : R3) (x : Mod)
  /-- `FSQRT_F32` (R195): FP32 square root. -/
  | fsqrtF32 (o : R2) (x : Mod)
  /-- `FSQRT_F64` (R195): FP64 square root. -/
  | fsqrtF64 (o : R2) (x : Mod)
  /-- `FEQ_F32` (R198): FP32 equality compare. -/
  | feqF32 (o : R3)
  /-- `FLT_F32` (R198): FP32 less-than compare, invalid on NaN. -/
  | fltF32 (o : R3)
  /-- `FLE_F32` (R198): FP32 less-or-equal compare. -/
  | fleF32 (o : R3)
  /-- `FUNO_F32` (R198): FP32 unordered test. -/
  | funoF32 (o : R3)
  /-- `FEQ_F64` (R198): FP64 equality compare. -/
  | feqF64 (o : R3)
  /-- `FLT_F64` (R198): FP64 less-than compare. -/
  | fltF64 (o : R3)
  /-- `FLE_F64` (R198): FP64 less-or-equal compare. -/
  | fleF64 (o : R3)
  /-- `FUNO_F64` (R198): FP64 unordered test. -/
  | funoF64 (o : R3)
  /-- `FCVT` (R199): Converts between f32, f64, i64 and n64 under the rounding in fn. -/
  | fcvt (o : CvtOp) (x : Mod)
  /-- `LDA_W` (R173): Indivisible local read-modify-write of a word, returning the old value. -/
  | ldaW (o : R3) (op : BitVec 5)
  /-- `LDA_D` (R173): Indivisible local read-modify-write of a doubleword. -/
  | ldaD (o : R3) (op : BitVec 5)
  /-- `VADD` (R210): Lane-wise addition. -/
  | vadd (o : V3) (x : Mod)
  /-- `VSUB` (R210): Lane-wise subtraction. -/
  | vsub (o : V3) (x : Mod)
  /-- `VMUL` (R210): Lane-wise multiplication. -/
  | vmul (o : V3) (x : Mod)
  /-- `VMULH` (R210): Lane-wise high half of an integer product. -/
  | vmulh (o : V3) (x : Mod)
  /-- `VFMA` (R210): Lane-wise fused a·b + c into vd. -/
  | vfma (o : V3) (x : Mod)
  /-- `VFMS` (R210): Lane-wise fused a·b − c. -/
  | vfms (o : V3) (x : Mod)
  /-- `VFNMA` (R210): Lane-wise fused −(a·b) − c. -/
  | vfnma (o : V3) (x : Mod)
  /-- `VFNMS` (R210): Lane-wise fused −(a·b) + c. -/
  | vfnms (o : V3) (x : Mod)
  /-- `VMIN` (R210): Lane-wise minimum. -/
  | vmin (o : V3) (x : Mod)
  /-- `VMAX` (R210): Lane-wise maximum. -/
  | vmax (o : V3) (x : Mod)
  /-- `VABD` (R210): Lane-wise absolute difference. -/
  | vabd (o : V3) (x : Mod)
  /-- `VAVG` (R210): Lane-wise average. -/
  | vavg (o : V3) (x : Mod)
  /-- `VAND` (R211): Lane-wise AND. -/
  | vand (o : V3)
  /-- `VOR` (R211): Lane-wise OR. -/
  | vor (o : V3)
  /-- `VXOR` (R211): Lane-wise XOR. -/
  | vxor (o : V3)
  /-- `VANDN` (R211): Lane-wise AND NOT. -/
  | vandn (o : V3)
  /-- `VSHL` (R211): Lane-wise shift left. -/
  | vshl (o : V3)
  /-- `VSHR` (R211): Lane-wise logical right shift. -/
  | vshr (o : V3)
  /-- `VSRA` (R211): Lane-wise arithmetic right shift. -/
  | vsra (o : V3)
  /-- `VROL` (R211): Lane-wise rotate left. -/
  | vrol (o : V3)
  /-- `VCMP_EQ` (R212): Lane-wise equality compare into a predicate. -/
  | vcmpEq (o : VCmp)
  /-- `VCMP_LT` (R212): Lane-wise less-than compare into a predicate. -/
  | vcmpLt (o : VCmp)
  /-- `VCMP_LE` (R212): Lane-wise less-or-equal compare into a predicate. -/
  | vcmpLe (o : VCmp)
  /-- `VCMP_NE` (R212): Lane-wise not-equal compare into a predicate. -/
  | vcmpNe (o : VCmp)
  /-- `VSEL` (R213): Selects lanes of v[ra] or v[rb] by the selector predicate. -/
  | vsel (o : V3)
  /-- `VCVT` (R214): Converts elements between any two element types. -/
  | vcvt (o : VCvt) (x : Mod)
  /-- `VRED_ADD` (R215): Pairwise-tree sum of enabled lanes into lane 0. -/
  | vredAdd (o : V2) (x : Mod)
  /-- `VRED_MIN` (R215): Tree minimum of enabled lanes. -/
  | vredMin (o : V2) (x : Mod)
  /-- `VRED_MAX` (R215): Tree maximum of enabled lanes. -/
  | vredMax (o : V2) (x : Mod)
  /-- `VRED_ADDO` (R215): Sequential floating sum of enabled lanes onto lane 0 of vd. -/
  | vredAddo (o : V2) (x : Mod)
  /-- `VDOT4` (R216): Accumulates four-term dot products into 32-bit lanes. -/
  | vdot4 (o : V3) (x : Mod)
  /-- `VDOT2` (R216): Accumulates two-term dot products into 32-bit lanes. -/
  | vdot2 (o : V3) (x : Mod)
  /-- `VLD` (R217): Loads 64 bytes of local tile memory into a vector register under a window. -/
  | vld (o : LdOp) (m : BitVec 3)
  /-- `VST` (R217): Stores the enabled bytes of a vector register to local tile memory. -/
  | vst (o : StOp) (m : BitVec 3)
  /-- `VGAT` (R218): Gathers one local element per enabled lane. -/
  | vgat (o : V3)
  /-- `VSCT` (R218): Scatters one element per enabled lane to local memory. -/
  | vsct (o : V3)
  /-- `VBC` (R219): Broadcasts a scalar into every enabled lane. -/
  | vbc (o : V2)
  /-- `VINS` (R219): Inserts a scalar into one lane. -/
  | vins (o : V3)
  /-- `VEXT` (R219): Extracts one lane into a scalar register. -/
  | vext (o : R3) (t : BitVec 5)
  /-- `VIDX` (R219): Writes start + i·step into each enabled lane. -/
  | vidx (o : V3)
  /-- `VPERM` (R220): Permutes lanes by index vector. -/
  | vperm (o : V3)
  /-- `VZIP` (R220): Interleaves the low lanes of two vectors. -/
  | vzip (o : V3)
  /-- `VUZP` (R220): De-interleaves the even lanes of two vectors. -/
  | vuzp (o : V3)
  /-- `VROT` (R220): Rotates lanes by a scalar amount. -/
  | vrot (o : V3)
  /-- `VSF` (R221): Applies a correctly rounded special function to each lane. -/
  | vsf (o : V2) (f : BitVec 3) (x : Mod)
  /-- `VSF_FAST` (R221): Applies the special function with the defined fast rounding. -/
  | vsfFast (o : V2) (f : BitVec 3) (x : Mod)
  /-- `VRNG` (R223): Hashes counters under a key into 32-bit outputs. -/
  | vrng (o : R3) (m : BitVec 3)
  /-- `VRNG_F` (R223): Hashes counters into FP32 values in [0, 1). -/
  | vrngF (o : R3) (m : BitVec 3)
  /-- `GADDR` (R225): Turns logical coordinates into a T-space address through a distribution table. -/
  | gaddr (o : R2) (t : BitVec 5)
  /-- `GOWNER` (R225): Turns logical coordinates into the owning vtile. -/
  | gowner (o : R2) (t : BitVec 5)
  /-- `MLEASE` (R229): Takes or re-counts the matrix lease, waiting in first-come order. -/
  | mlease (n : Int)
  /-- `MTRY` (R229): Takes the lease only if free with nobody waiting, writing 0 or 1. -/
  | mtry (d : Reg) (n : Int)
  /-- `MREL` (R229): Gives up the matrix lease. -/
  | mrel
  /-- `MMMA` (R239): Queues C += A·B on an accumulator slot, allocating one for NONE. -/
  | mmma (o : MmaOp)
  /-- `AST` (R241): Queues a store of slot values to tile memory. -/
  | ast (h a : Reg)
  /-- `AST_ADD` (R241): Queues an add of slot values into tile memory. -/
  | astAdd (h a : Reg)
  /-- `ALD` (R241): Queues a load of tile memory into a slot. -/
  | ald (h a : Reg)
  /-- `AZERO` (R237): Queues a zeroing of a slot, allocating one for NONE. -/
  | azero (h : Reg)
  /-- `AREL` (R237): Waits for a slot's commands, then frees it and writes NONE. -/
  | arel (h : Reg)
  /-- `MWAIT` (R242): Waits until the strand's commands on a slot, or all, have completed. -/
  | mwait (h : Reg)
  /-- `DLD` (R259): Loads a 256-byte distribution image with a lineage option. -/
  | dld (o : DLdOp)
  /-- `DST` (R260): Stores a distribution register's image. -/
  | dst (o : DStOp)
  /-- `DPT` (R248): Builds point-mass elements from vector lanes. -/
  | dpt (d : BitVec 4) (a : Reg) (m : BitVec 3) (lin : BitVec 5)
  /-- `DPTE` (R248): Builds elements from explicit values and weights in a vector group. -/
  | dpte (d : BitVec 4) (g : BitVec 3) (m : BitVec 3) (lin : BitVec 5)
  /-- `DPM` (R248): Builds three-point normal approximations from means and deviations. -/
  | dpm (d : BitVec 4) (a b : Reg) (m : BitVec 3) (lin : BitVec 5)
  /-- `DADD` (R254): Adds two distributions pointwise or by full pairing. -/
  | dadd (o : D3)
  /-- `DSUB` (R254): Subtracts two distributions. -/
  | dsub (o : D3)
  /-- `DMUL` (R254): Multiplies two distributions. -/
  | dmul (o : D3)
  /-- `DDIV` (R254): Divides two distributions. -/
  | ddiv (o : D3)
  /-- `DMIN` (R254): Minimum of two distributions. -/
  | dmin (o : D3)
  /-- `DMAX` (R254): Maximum of two distributions. -/
  | dmax (o : D3)
  /-- `DMIX` (R255): Forms the equal-weight mixture of two distributions. -/
  | dmix (o : D3)
  /-- `DSCL` (R256): Scales every point by a scalar. -/
  | dscl (d a : BitVec 4) (b : Reg) (m : BitVec 3)
  /-- `DSHT` (R256): Shifts every point by a scalar. -/
  | dsht (d a : BitVec 4) (b : Reg) (m : BitVec 3)
  /-- `DMOM` (R257): Extracts moments, support or weight per element. -/
  | dmom (d : Reg) (a : BitVec 4) (f : BitVec 2) (m : BitVec 3)
  /-- `DQNT` (R258): Extracts a quantile per element. -/
  | dqnt (d : Reg) (a : BitVec 4) (b : Reg) (m : BitVec 3)
  /-- `DCDF` (R258): Evaluates the cumulative distribution per element. -/
  | dcdf (d : Reg) (a : BitVec 4) (b : Reg) (m : BitVec 3)
  /-- `DTGR` (R261): Reads a distribution header into a scalar. -/
  | dtgr (d : Reg) (a : BitVec 4)
  /-- `DTGW` (R261): Copies elements with a new lineage tag. -/
  | dtgw (d a : BitVec 4) (m : BitVec 3) (lin : BitVec 5)
  /-- `DMOV` (R261): Copies elements and the whole header. -/
  | dmov (d a : BitVec 4) (m : BitVec 3)
  /-- `QCFG` (R270): Loads and checks a sequencer configuration block, resetting every slot. -/
  | qcfg (a : Reg)
  /-- `QRES` (R270): Resets the sample slots in the mask. -/
  | qres (a : Reg)
  /-- `QSTG` (R272): Forms the input of stage i for each active sample. -/
  | qstg (i : BitVec 3) (a : Reg)
  /-- `QTM` (R273): Writes stage times, t, h or status words into a vector. -/
  | qtm (d a : Reg) (f : BitVec 2)
  /-- `QFIN` (R274): Forms x_new and the error partials of each active sample. -/
  | qfin (g : BitVec 3) (a : Reg) (la : BitVec 4)
  /-- `QDEC` (R276): Accepts, rejects and resizes each active sample's step from reduced lanes. -/
  | qdec (d : Reg) (g : BitVec 3) (b : Reg)
  /-- `QST` (R278): Stores the sample records in the mask. -/
  | qst (a b : Reg)
  /-- `QSET` (R271): Starts a sample with t, t_end and h. -/
  | qset (o : R3)
  /-- `LDF_W` (R174): Loads a word from remote or far memory. -/
  | ldfW (o : LdOp)
  /-- `LDF_D` (R174): Loads a doubleword from remote or far memory. -/
  | ldfD (o : LdOp)
  /-- `VLDF` (R174): Loads a 64-byte line from remote or far memory into a vector. -/
  | vldf (o : LdOp)
  /-- `STF_W` (R175): Stores a word to remote or far memory on the path its target takes. -/
  | stfW (o : StOp)
  /-- `STF_D` (R175): Stores a doubleword to remote or far memory. -/
  | stfD (o : StOp)
  /-- `VSTF` (R175): Stores a 64-byte vector image to remote or far memory. -/
  | vstf (o : StOp)
  /-- `ACC_F32` (R176): Converts an FP32 value to Q64.64 and holds an accumulate into a cell. -/
  | accF32 (a b : Reg)
  /-- `ACC_F64` (R176): Holds an FP64 accumulate into a cell. -/
  | accF64 (a b : Reg)
  /-- `ACC_I64` (R176): Holds an exact i64 accumulate into a cell. -/
  | accI64 (a b : Reg)
  /-- `ACC_V16` (R176): Holds sixteen FP32 accumulates into sixteen cells. -/
  | accV16 (a b : Reg)
  /-- `AMOI_W` (R177): Holds an atomic on an immediate word until commit. -/
  | amoiW (o : R3) (op : BitVec 5)
  /-- `AMOI_D` (R177): Holds an atomic on an immediate doubleword until commit. -/
  | amoiD (o : R3) (op : BitVec 5)
  /-- `CPUSH` (R178): Checks a copy command and appends it to the strand's FIFO, waiting for room. -/
  | cpush (a : Reg)
  /-- `CPUSH_TRY` (R178): Appends a copy command only if the FIFO has room, writing 0 or 1. -/
  | cpushTry (d a : Reg)
  /-- `MBW` (R179): Parks in the lay-by until the mailbox holds an entry. -/
  | mbw (d : Reg)
  /-- `MBW_TO` (R179): Waits for a mailbox entry at most s[rb] cycles. -/
  | mbwTo (d a : Reg)
  /-- `MBP` (R180): Waits for and pops the oldest mailbox entry into a register pair. -/
  | mbp (d : Reg)
  /-- `MBP_TRY` (R180): Pops the oldest mailbox entry or writes status 0xFF. -/
  | mbpTry (d : Reg)
  /-- `PFL` (R182): Appends a fetch-list entry for the next superstep. -/
  | pfl (o : R3) (u : BitVec 5)
  /-- `PFL_CLR` (R182): Removes the strand's fetch entries of this superstep. -/
  | pflClr
  /-- `PFL_N` (R182): Appends a fetch entry that requests a stager notice. -/
  | pflN (o : R3) (u : BitVec 5)
  /-- `XALL` (R183): Queues an all-to-all exchange among the stage's vtiles. -/
  | xall (o : R3)
  /-- `BAR` (R284): Arrives at the stage's barrier. -/
  | bar
  /-- `BAR_RED` (R287): Arrives at the barrier contributing a 32-lane reduction payload. -/
  | barRed (g : BitVec 3) (op : BitVec 5)
  /-- `BAR_END` (R289): Arrives at the barrier and ends the tile task on commit. -/
  | barEnd
  /-- `BAR_ENDR` (R289): Ends the tile task contributing a reduction written to the result area. -/
  | barEndr (g : BitVec 3) (op : BitVec 5)
  /-- `VOTE` (R291): Marks the strand's vote for this superstep as abort with cause VOTE. -/
  | vote
  /-- `BWAIT` (R293): Parks until the tile's delivered mark for a stage reaches m. -/
  | bwait (a b : Reg)
  /-- `FENCE` (R295): Orders a depot strand's direct-mode accesses for the observers in its mask. -/
  | fence (mask : BitVec 5) (kind : BitVec 2)
  /-- `CSRR` (R296): Reads a control register. -/
  | csrr (d : Reg) (n : BitVec 8)
  /-- `CSRW` (R296): Writes a control register's RW fields, returning the old value. -/
  | csrw (d a : Reg) (n : BitVec 8)
  /-- `CSRS` (R296): Sets bits of a control register. -/
  | csrs (d a : Reg) (n : BitVec 8)
  /-- `CSRC` (R296): Clears bits of a control register. -/
  | csrc (d a : Reg) (n : BitVec 8)
  /-- `TRAP` (R292): Raises cause VOTE as a precise trap. -/
  | trap (code : BitVec 11)
  /-- `EBRK` (R298): Halts the corridor for the debugger when debugging is enabled. -/
  | ebrk (code : BitVec 11)
  /-- `YLD` (R299): Yields issue until every other ready strand has issued once. -/
  | yld
  /-- `TLBI` (R300): Depot invalidation of matching translations on every die. -/
  | tlbi (a b : Reg)
  /-- `RFE` (R301): Returns from the depot exception handler. -/
  | rfe
  /-- `WFE` (R301): Parks a depot strand until its event register is non-zero. -/
  | wfe
  /-- `IPOST` (R302): Posts an MSI-X interrupt with a payload to the host. -/
  | ipost (a b : Reg)
  /-- `ILLEGAL_DECODE` (R147): A word sequence failing decode raises ILLEGAL or PRIV at the chain's first word. -/
  | illegalDecode (priv : Bool)
  /-- `WINDOW_DATA_LANDS` (R158): A windowed load's data lands, letting the instruction after its window issue. -/
  | windowDataLands (id : StrandId) (w : Nat)
  /-- `FAR_READ_SERVE` (R60): A home controller serves a far read once earlier commits' entries are written. -/
  | farReadServe (id : StrandId) (w : Nat)
  /-- `REMOTE_DELTA_ACCEPT` (R85): A receiving tile accepts or drops an inbound same-stage delta or BCAST line. -/
  | remoteDeltaAccept (c st n : Nat)
  /-- `LAYBY_WAKE` (R293): A parked bwait or mbw strand wakes when its condition holds. -/
  | laybyWake (id : StrandId)
  /-- `MBW_TIMEOUT` (R179): An mbw.to wait runs out and writes the entry count. -/
  | mbwTimeout (id : StrandId)
  /-- `COPY` (R81): The copy engine starts and runs a COPY command. -/
  | copy (id : StrandId) (n : Nat)
  /-- `BCAST` (R82): The copy engine runs a BCAST command to a tile set. -/
  | bcast (id : StrandId) (n : Nat)
  /-- `SEND` (R83): The copy engine fills the reserved egress lines of a SEND. -/
  | send (id : StrandId) (n : Nat)
  /-- `FILL` (R84): The copy engine writes a pattern into every destination element. -/
  | fill (id : StrandId) (n : Nat)
  /-- `DIGEST` (R84): The copy engine computes a CRC-64 over the source bytes. -/
  | digest (id : StrandId) (n : Nat)
  /-- `EXCHANGE` (R86): The copy engine carries out a queued all-to-all exchange. -/
  | exchange (id : StrandId) (n : Nat)
  /-- `COMMAND_COMPLETE` (R88): A copy command completes and posts its mailbox entry if asked. -/
  | commandComplete (id : StrandId) (n : Nat)
  /-- `MAILBOX_POST` (R88): A held entry is posted when the full mailbox frees a place. -/
  | mailboxPost (id : StrandId)
  /-- `STAGER_UNIT_FETCH` (R73): The stager fetches one unit of a fetch entry, recording it or marking a fault. -/
  | stagerUnitFetch (c vt st n : Nat)
  /-- `STAGED_UNIT_LANDS` (R74): A staged unit's bytes land in tile memory. -/
  | stagedUnitLands (c vt st n : Nat)
  /-- `STAGED_COPY_FORWARD` (R74): A home controller forwards a drained line into a registered staged copy. -/
  | stagedCopyForward (c st n : Nat)
  /-- `LEASE_GRANT` (R230): A released matrix lease is granted to the first waiter. -/
  | leaseGrant (tile : Nat)
  /-- `SLOT_ALLOCATE` (R236): A blocked allocation takes a freed accumulator slot. -/
  | slotAllocate (id : StrandId)
  /-- `MATRIX_COMMAND_RUN` (R231): The matrix unit starts the next queued command, sampling its control registers. -/
  | matrixCommandRun (tile : Nat)
  /-- `MATRIX_COMMAND_DONE` (R233): A matrix command completes, ORing its flags into FLG. -/
  | matrixCommandDone (tile : Nat)
  /-- `ARRIVAL` (R284): A strand completes arrival after its commands finish and reports pending bytes. -/
  | arrival (id : StrandId)
  /-- `QUIESCE` (R24): The stage's reported pending-byte sum reaches zero. -/
  | quiesce (c st : Nat)
  /-- `LINK_TIMEOUT` (R26): After 10 ms in quiesce the stage aborts with LINK. -/
  | linkTimeout (c st : Nat)
  /-- `STRIKE_HORIZON` (R24): 1,024 cycles pass since the stage's last issue and the tiles vote. -/
  | strikeHorizon (c st : Nat)
  /-- `JUNCTION_VOTE` (R24): A junction combines votes, reductions and pending counts and passes them up. -/
  | junctionVote (c st : Nat)
  /-- `JUNCTION_DECISION` (R24): The decision travels down to a tile of the stage. -/
  | junctionDecision (c st vt : Nat)
  /-- `COMMIT_DRAIN` (R54): A tile applies its deltas, cross-stage data, BCAST data and fills at commit. -/
  | commitDrain (c st vt : Nat)
  /-- `FAR_DRAIN_ENTRY` (R55): A home controller writes a far-store-log entry or accumulate update of a commit. -/
  | farDrainEntry (c st : Nat)
  /-- `COMMIT_FAR_COMPLETE` (R60): Commit k becomes complete for far memory on every home controller. -/
  | commitFarComplete (c st : Nat)
  /-- `HELD_OP_RELEASE` (R62): Held immediate stores, atomics and SEND egress are released in program order. -/
  | heldOpRelease (id : StrandId)
  /-- `ATOMIC_EXECUTE` (R64): A home atomic unit performs an atomic. -/
  | atomicExecute (n : Nat)
  /-- `AMOI_RESULT` (R63): An amoi's old value arrives as a source-0x02 mailbox entry. -/
  | amoiResult (id : StrandId)
  /-- `CROSS_STAGE_DELIVERY` (R58): A cross-stage write arrives in the target tile's inbound area. -/
  | crossStageDelivery (n : Nat)
  /-- `RESULT_AREA_WRITE` (R289): The depot writes a stage's reduced bar.endr result to result_va. -/
  | resultAreaWrite (c st : Nat)
  /-- `CORRIDOR_COMPLETION` (R315): The depot writes the completion record, bumps notify and may interrupt. -/
  | corridorCompletion (c : Nat)
  /-- `EARLY_ABORT` (R330): A recorded cause makes the stage's decision abort without waiting. -/
  | earlyAbort (c st : Nat)
  /-- `ROLLBACK` (R335): A tile discards held state and restores registers once in-flight bytes are dropped. -/
  | rollback (c st vt : Nat)
  /-- `CAUSE_SERVICE` (R332): The depot services the recorded causes and refetches marked units before a rerun. -/
  | causeService (c st : Nat)
  /-- `STRIKE_REPORT` (R371): A strike sensor report makes the covered tiles' stages vote abort. -/
  | strikeReport (die block : Nat)
  /-- `SENSOR_SELF_TEST` (R371): Once per second sensors self-test and uncovered blocks are fenced. -/
  | sensorSelfTest (die block good : Nat)
  /-- `ECC_ERROR` (R97): An ECC error found on a read is corrected or makes the stage vote abort. -/
  | eccError (at_ : EccSite) (fatal : Bool)
  /-- `PARITY_ERROR` (R366): A parity mismatch in control state makes the affected stages vote SOFT. -/
  | parityError (site : ParitySite)
  /-- `LINE_RETIRE` (R368): A twice-failing far line's frame is moved to a spare frame. -/
  | lineRetire (pa : Nat)
  /-- `SUSPICION_DECAY` (R369): Each second every suspicion score drops by 1. -/
  | suspicionDecay
  /-- `TILE_WITHDRAW` (R370): A score of 1,024 closes the tile and drains its corridors. -/
  | tileWithdraw (tile : Nat)
  /-- `TARGETED_TEST` (R370): The targeted test ends, reopening or fencing the tile. -/
  | targetedTest (tile : Nat) (pass : Bool)
  /-- `AGEING_MONITOR_READ` (R372): Each second the depot reads cluster ageing monitors. -/
  | ageingMonitorRead (die cluster birth count : Nat)
  /-- `CLOCK_STEP_APPLY` (R373): A new cluster clock step takes effect in a quiet cycle. -/
  | clockStepApply (die cluster : Nat)
  /-- `CLOCK_STEP_TIMEOUT` (R373): No quiet cycle within 10 ms requests a class-3 drain. -/
  | clockStepTimeout (die cluster : Nat)
  /-- `MODULE_POWER_EVENT` (R381): Module power crosses a threshold and steps are applied or released. -/
  | modulePowerEvent (watts : Nat)
  /-- `CORE_CURRENT_EVENT` (R381): Core current crosses a threshold and steps or gating apply. -/
  | coreCurrentEvent (amps die : Nat)
  /-- `THERMAL_EVENT` (R381): A cluster temperature crosses a threshold, stepping, gating or removing power. -/
  | thermalEvent (die cluster celsius : Nat)
  /-- `BOOT` (R376): Reset starts boot: verification, authentication, depot selection and map setup. -/
  | boot (b : BootInput)
  /-- `DEPOT_EXCEPTION` (R374): A depot strand fault saves its position and enters the handler. -/
  | depotException (id : StrandId) (cause : BitVec 8) (addr : Word)
  /-- `DTM_EXPIRE` (R374): The depot timer reaches 0 and sets its event bit. -/
  | dtmExpire (id : StrandId)
  /-- `DOORBELL` (R305): A doorbell write makes a queue pending. -/
  | doorbell (fn q : Nat)
  /-- `QUEUE_MAP` (R306): A pending queue is mapped to a free queue slot and its head record taken. -/
  | queueMap
  /-- `QUEUE_SLOT_TIMEOUT` (R306): A mapped queue gives up its slot after 100 µs. -/
  | queueSlotTimeout (q : Nat)
  /-- `LAUNCH` (R313): A LAUNCH record is taken and checked. -/
  | launch (n : Nat)
  /-- `PREEMPT` (R309): A PREEMPT record requests drain, immediate or kill of a corridor. -/
  | preempt (n : Nat)
  /-- `RESUME` (R309): A RESUME record asks the depot to resume a swapped-out corridor. -/
  | resume (n : Nat)
  /-- `LAUNCH_PLACE` (R314): A waiting launch is placed on free tiles and its strands started. -/
  | launchPlace (c : Nat)
  /-- `SLICE_EXPIRY` (R320): An alternating corridor's slice ends and it receives a class-0 drain. -/
  | sliceExpiry (c : Nat)
  /-- `DRAIN_TIMEOUT` (R323): A drain not finished within drain_timeout becomes immediate. -/
  | drainTimeout (c : Nat)
  /-- `IMMEDIATE_PREEMPT` (R323): Every stage aborts at the next boundary with PREEMPT. -/
  | immediatePreempt (c : Nat)
  /-- `KILL` (R323): The corridor ends at once with status KILLED. -/
  | kill (c : Nat)
  /-- `SWAP_OUT` (R339): Once settled, a stopped corridor is exported or kept resident. -/
  | swapOut (c : Nat)
  /-- `CORRIDOR_RESUME` (R339): A swapped-out corridor is placed, imported and restarted from its records. -/
  | corridorResume (c : Nat) (place : List Nat)
  /-- `MIGRATION` (R340): The depot moves a stopped corridor's vtiles to other tiles. -/
  | migration (c : Nat) (place : List Nat)
  /-- `HOST_HALT_REQUEST` (R343): A host debug halt stops every strand at its next permitted boundary. -/
  | hostHaltRequest (c : Nat)
  /-- `DEBUG_STATE_WRITE` (R344): The debugger writes a halted strand's registers or position. -/
  | debugStateWrite (id : StrandId) (w : DebugWrite)
  /-- `SINGLE_STEP` (R345): One halted strand executes one instruction, then halts again. -/
  | singleStep (id : StrandId)
  /-- `DEBUG_RESUME` (R343): The debugger resumes the halted corridor. -/
  | debugResume (c : Nat)
  /-- `INVALIDATION_SERVICE` (R42): A host-requested invalidation of a PASID's translations is carried out. -/
  | invalidationService (pasid : Nat)
  /-- `WALK_COMPLETE` (R37): A page walk finishes with a translation or a fault. -/
  | walkComplete (die : Nat)
  /-- `CONNECTION_TABLE_WRITE` (R347): A depot write to a connection-table entry, applied at a barrier within 8 µs. -/
  | connectionTableWrite (circuit : Nat) (value : BitVec 32)
  /-- `CIRCUIT_LOCK_LOSS` (R348): A circuit loses lock; traffic is replayed and a spare may take its place. -/
  | circuitLockLoss (circuit : Nat)
  /-- `FLIT_RECEIVE` (R352): A Plosis Link flit arrives and is checked or replayed. -/
  | flitReceive (port : Nat) (flit : List Byte)
  /-- `LANE_FAILURE` (R353): Lane failures change a port's width by retraining or take it down. -/
  | laneFailure (port lane : Nat)
  /-- `RETRAIN_COMPLETE` (R353): A port retrain completes. -/
  | retrainComplete (port : Nat)
  /-- `FABRIC_REQUEST` (R356): A responder executes, answers from cache, or answers STALE or BUSY. -/
  | fabricRequest (r : FabricReq)
  /-- `FABRIC_REPLY` (R355): A reply reaches the requester and is delivered or dropped. -/
  | fabricReply (r : FabricRep)
  /-- `FABRIC_ATTEMPT_TIMEOUT` (R355): An attempt without reply is retried or the transaction ends in TIMEOUT. -/
  | fabricAttemptTimeout (pkg tag : Nat)
  /-- `BUSY_RETRY` (R356): After BUSY the requester resends the same attempt after 1 µs. -/
  | busyRetry (pkg tag : Nat)
  /-- `TAG_QUARANTINE_END` (R355): A timed-out tag's 2F quarantine ends. -/
  | tagQuarantineEnd (pkg tag : Nat)
  /-- `DUPLICATE_ENTRY_EXPIRE` (R356): A duplicate-suppression entry's window D ends. -/
  | duplicateEntryExpire (pkg tag inc : Nat)
  /-- `UE_INBOUND_MESSAGE` (R360): An Ultra Ethernet message is written to a registered receive buffer or dropped. -/
  | ueInboundMessage (q : Nat) (data : List Byte)
  /-- `UE_MESSAGE_DONE` (R360): A SEND message is acknowledged or abandoned and reported. -/
  | ueMessageDone (q : Nat) (acked : Bool)
  /-- `BAR2_ACCESS` (R361): A host BAR2 access is translated and performed at a home controller. -/
  | bar2Access (a : Bar2)
  /-- `FUNCTION_LEVEL_RESET` (R365): A VF reset disables its queues and kills its corridors. -/
  | functionLevelReset (vf : Nat)
  /-- `PF0_LINK_RESET` (R365): A PF0 link reset halts every corridor with LINK. -/
  | pf0LinkReset
  /-- `ATS_INVALIDATION` (R362): An ATS invalidation request clears the device translation cache. -/
  | atsInvalidation (pasid va : Nat)
  /-- `PAGE_REQUEST_RESPONSE` (R362): A page-request response completes or fails a TXF service. -/
  | pageRequestResponse (c : Nat) (ok : Bool)
  /-- `PAGE_REQUEST_TIMEOUT` (R362): No page-request response within 1 s halts the corridor with TXF. -/
  | pageRequestTimeout (c : Nat)
  /-- `FR_RESP` (R363): The host answers a fault record, completing or failing the service. -/
  | frResp (fn seq : Nat) (fail : Bool)
  /-- `FR_TIMEOUT` (R363): No fault answer within 1 s halts the corridor with TXF. -/
  | frTimeout (fn seq : Nat)
  /-- `OFL_REQ` (R379): A write with go = 1 requests orderly or forced offline of a die. -/
  | oflReq (value : Word)
  /-- `DIE_OFFLINE` (R378): A die drains, its pages are evacuated and checked, and it is fenced.
`phase` is 1 to 3 for the course of it, or 4 and a tile's number where that tile's copy of a page fails its digest (assumption 91). -/
  | dieOffline (phase : Nat)
  /-- `RMP_ACK` (R379): The host acknowledges a remap notice and the old frame is freed. -/
  | rmpAck (seq : Nat)
  /-- `RMP_TIMEOUT` (R379): No remap acknowledgement within 1 s ends the offline with EVAC_NOSPACE. -/
  | rmpTimeout (seq : Nat)
  /-- `REGISTER_WRITE` (R107): A write to a register without a row of its own stores its RW fields. -/
  | registerWrite (fn : Nat) (r : HostReg) (value : Word)
  /-- `RETUNING_COMPLETE` (R347): A circuit whose connection-table entry was changed finishes retuning, leaving state 11 and carrying traffic for its new die pair. -/
  | retuningComplete (circuit : Nat)
  /-- `FLASH_LAYER_WRITE` (R380): Once an image's partner-package copy is complete, the depot writes it in the background to module flash as layer 2. -/
  | flashLayerWrite (c serial : Nat)
  /-- `REPLICA_DIGEST_REQUEST` (R380): A replica's depot receives a request for per-vtile digests at a mile marker and answers from its own image, or reports none. -/
  | replicaDigestRequest (c mm : Nat)
  /-- `DIE_CONTROLLER_FAILURE` (R378): A failure of a die's controllers makes the depot request that die's offline, reported through the OFL registers. -/
  | dieControllerFailure (die : Nat)
  deriving DecidableEq, Repr

end Sys2Proof
end

