-- ==== Sys2Proof/Machine/State.lean ====
section
/-! DEFINITION. The state of the KX-TH8M package and its host interface as plain data, and the state after reset. -/

namespace Sys2Proof.Machine

/-- A finite map as a list of pairs with one pair for each key; an absent key stands for the type's reset value. -/
abbrev KMap (κ α : Type) := List (κ × α)

/-- Byte memory: addresses strictly rising, no entry equal to 0, the value an unlisted address reads as
(assumption 3). -/
abbrev Mem := List Host.Cell

/-- Held bytes that lie over a memory: addresses strictly rising, any byte value (R46, R98). -/
abbrev Overlay := List Host.Cell

/-! ### Registers -/

/-- One point of a distribution element: FP32 value and 16-bit weight (R135). -/
structure DPoint where
  val : BitVec 32
  w : BitVec 16
  deriving DecidableEq, Repr

/-- A distribution element has four points. -/
abbrev DElem := Vector DPoint 4

/-- A distribution register (R103, R244). -/
structure Dist where
  elems : Vector DElem 8
  mask : BitVec 16
  align : Bool
  approx : Bool
  deriving DecidableEq, Repr

/-- The void element, as every distribution register holds it at launch (R102, R135). -/
def DElem.void : DElem := Vector.replicate 4 ⟨0, 0⟩

/-- A distribution register at launch (R102). -/
def Dist.reset : Dist := ⟨Vector.replicate 8 DElem.void, 0, false, false⟩

/-- The control block: the arithmetic and format control registers (R109). -/
structure Ctl where
  flg : Word
  vfc : Word
  mfc0 : Word
  mfc1 : Word
  mfc2 : Word
  mfc3 : Word
  dsc : Word
  deriving DecidableEq, Repr

/-- Every control register resets to 0 (R109). -/
def Ctl.reset : Ctl := ⟨0, 0, 0, 0, 0, 0, 0⟩

/-- The depot's exception registers (R374). -/
structure DepotRegs where
  epq : Word
  est : Word
  ead : Word
  evt : Word
  evb : Word
  dtm : Word
  deriving DecidableEq, Repr

/-- R374 gives 0 for all but EVB, which boot sets; EVB is 0 before boot (assumption 5). -/
def DepotRegs.reset : DepotRegs := ⟨0, 0, 0, 0, 0, 0⟩

/-! ### Strands -/

/-- A register that a lookahead window writes when it ends (R158). -/
inductive Dest where
  | s (r : Reg)
  | v (r : Reg)
  | d (r : BitVec 4)
  deriving DecidableEq, Repr

/-- The value a window writes. -/
inductive WinVal where
  | s (w : Word)
  | v (l : Line)
  | d (x : Dist)
  deriving DecidableEq, Repr

/-- A far read not yet served: device VA, physical address, access size, destination and the issuing superstep (R60,
R174). -/
structure FarRead where
  va : Nat
  pa : Nat
  size : Nat
  dest : Dest
  mm : Word
  cls : BitVec 2
  deriving DecidableEq, Repr

/-- An open lookahead window (R158): the instructions left in it, the writes it makes at its end (a cancelled write is
gone from the list), the far read it waits for, and whether its data has landed. -/
structure Window where
  id : Nat
  left : Nat
  writes : List (Dest × WinVal)
  read : Option FarRead
  landed : Bool
  deriving DecidableEq, Repr

/-- An unfinished `rep` (R157, R204): the addresses of the body's instructions, the address after the body, the number
of passes, the pass and the body index of PC0, the stride and the selected fields. -/
structure RepRun where
  body : List Word
  after : Word
  passes : Word
  pass : Word
  idx : Nat
  stride : BitVec 3
  fields : BitVec 2
  deriving DecidableEq, Repr

/-- A recorded cause with what its trap record needs (R331, R334), and the page that its service maps where that is not the
page of its address (R232, R332). -/
structure TrapInfo where
  cause : BitVec 8
  vt : Nat
  slot : Nat
  tileKind : Bool
  pc0 : Word
  pc1 : Word
  pc2 : Word
  annul : BitVec 2
  addr : Word
  chain : Word
  s2 : Bool
  wr : Bool
  page : Option Nat
  deriving DecidableEq, Repr

/-- What a strand waits for (R321): `fenced`: the engine has begun to read for every command it issued (R68); `stored`: its
loads, stores and atomics on far memory have been performed (R67); `walks`: the die's walk queue has room (R41). -/
inductive WaitCond where
  | fifo
  | mailbox
  | matrixQueue
  | slotIdle (handle : Word)
  | matrixIdle
  | matrixStarted
  | staged
  | event
  | probe
  | fenced
  | windows
  | stored
  | walks
  deriving DecidableEq, Repr

/-- How a strand waits: not at all; to issue again once a condition holds; in the lease's waiting order (R230); for an accumulator slot (R236);
in the lay-by (R179, R293); after `yld` for the strands of the set to issue, its own slot standing in the set until the
cycle after has passed (R299). -/
inductive Wait where
  | none
  | again (c : WaitCond)
  | lease (n : Nat)
  | slot
  | mail (d : Reg)
  | mailTimed (d : Reg) (deadline : Nat)
  | stage (st : Nat) (m : Word)
  | yield (others : List Nat)
  deriving DecidableEq, Repr

/-- The four barrier instructions (R284). -/
inductive BarKind where
  | bar | red | fin | finRed
  deriving DecidableEq, Repr

/-- A strand's arrival: its kind, the address of its barrier chain, and for `bar.red` and `bar.endr` the operation, the
payload group and the 32 lanes contributed (R284, R287). -/
structure Arrival where
  kind : BarKind
  pc : Word
  op : BitVec 5
  group : BitVec 3
  lanes : List Word
  chain : Word
  deriving DecidableEq, Repr

/-- What a strand does (R321, R330, R343): `trapped` after a cause that stops it, `stopped` once an abort decision
reached its tile, `halted` by the debugger, `parked` where its corridor does not run. -/
inductive Status where
  | running | arriving | arrived | trapped | stopped | halted | ended | parked
  deriving DecidableEq, Repr

/-- What tells a staged unit from the others of its tile and stage: the clock at which its entry was appended, the strand slot,
the entry's index, and the destination. -/
abbrev UnitKey := Nat × Nat × Nat × Nat

/-- One copy command or exchange (R78, R80, R86): the words, the descriptor's records and the strand's view of its tile
as they stood at issue (R48), its place in program order, whether a strand wrote its source since, and what the engine
has done with it, the replies of peers to its reads included; `owed` names the staged units, with the stage, that
had not landed at issue, whose bytes join the view as they land (R52); `walked` counts the pages of its elements that have
been translated (R41). -/
structure CopyCmd where
  w0 : Word
  w1 : Word
  w2 : Word
  w3 : Word
  dims : List (Nat × Int × Int)
  exchange : Bool
  seq : Nat
  view : Mem
  tainted : Bool
  done : Bool
  payload : Word
  unsent : Nat
  got : List (Nat × List Byte)
  owed : List (Nat × UnitKey)
  walked : Nat
  deriving DecidableEq, Repr

/-- A mailbox entry (R87) with its place in arrival order. -/
structure MailEntry where
  tag : BitVec 16
  status : BitVec 8
  source : BitVec 8
  payload : Word
  order : Nat
  deriving DecidableEq, Repr

/-- An operation held until after the far drain (R62): a store to an immediate page, an immediate atomic, egress; `spoiled`: one
whose verge entry met an uncorrectable error in the drain (R367). -/
inductive HeldOp where
  | store (pa : Nat) (bytes : List Byte)
  | amo (pa size : Nat) (op : BitVec 5) (operand compare : Word) (tag : BitVec 16)
  | send (queue : Nat) (bytes : List Byte)
  | spoiled (op : HeldOp)
  deriving DecidableEq, Repr

/-- One strand (R17, R102); `pushing` is the command of a `cpush` or `xall` that waits for a FIFO place, as it was judged
and as the strand's view stood at issue (R48, R79, R178). -/
structure Strand where
  status : Status
  stage : Nat
  pc0 : Word
  pc1 : Word
  pc2 : Word
  annul : BitVec 2
  slots : Nat
  s : Vector Word 32
  sres : Vector (BitVec 4) 32
  v : Vector Line 32
  d : Vector Dist 16
  p : Vector Word 8
  ctl : Ctl
  windows : List Window
  nextWin : Nat
  rep : Option RepRun
  wait : Wait
  arrival : Option Arrival
  voted : Option TrapInfo
  cause : Option TrapInfo
  haltCode : Option Word
  stepping : Bool
  halting : Bool
  fifo : List CopyCmd
  running : List CopyCmd
  mailbox : List MailEntry
  mailWaiting : List MailEntry
  popped : List MailEntry
  nextMail : Nat
  held : List (Nat × HeldOp)
  released : List HeldOp
  inflight : Nat
  pushing : Option CopyCmd
  seq : Nat
  handles : List (Word × Nat)
  serial : BitVec 8
  depot : DepotRegs
  restored : Bool
  deriving DecidableEq, Repr

/-- A strand before launch gives it arguments and an entry point (R102): p0 is all ones, every element void, all else
0. -/
def Strand.reset : Strand :=
  { status := .parked, stage := 0, pc0 := 0, pc1 := 2, pc2 := 4, annul := 0, slots := 0,
    s := Vector.replicate 32 0, sres := Vector.replicate 32 0, v := Vector.replicate 32 0,
    d := Vector.replicate 16 Dist.reset, p := (Vector.replicate 8 0).set 0 (BitVec.allOnes 64),
    ctl := Ctl.reset, windows := [], nextWin := 0, rep := none, wait := .none, arrival := none, voted := none,
    cause := none, haltCode := none, stepping := false, halting := false, fifo := [], running := [], mailbox := [], mailWaiting := [],
    popped := [], nextMail := 0, held := [], released := [], inflight := 0, pushing := none, seq := 0, handles := [], serial := 0,
    depot := DepotRegs.reset, restored := false }

/-! ### What a tile holds for one stage (R98, R53) -/

/-- Held bytes of one write (R98) with its key: sender vtile, sender slot, program order (R54). -/
structure Delta where
  vt : Nat
  slot : Nat
  seq : Nat
  bytes : Overlay
  deriving DecidableEq, Repr

/-- A remote write on its way to a tile of the same stage, or held for one outside it (R53, R58, R85); `count` is the
number of bytes it adds to the pending count, `mm` and `run` the superstep and the run that sent it. -/
structure Sent where
  target : Nat
  slot : Nat
  seq : Nat
  mm : Word
  run : Nat
  bytes : Overlay
  bcast : Bool
  count : Nat
  deriving DecidableEq, Repr

/-- Cross-stage data that has arrived (R54 step 1); `bad` lists the 8-byte words that carry an uncorrectable error (R367). -/
structure CrossIn where
  stage : Nat
  mm : Word
  vt : Nat
  slot : Nat
  seq : Nat
  bytes : Overlay
  bad : List Nat
  deriving DecidableEq, Repr

/-- One far write of a sender slot, or its accumulates, by physical address, with the superstep that made it and the
lines that leave with an uncorrectable error (R55, R56, R98, R367). -/
structure FarLog where
  mm : Word
  vt : Nat
  slot : Nat
  seq : Nat
  bytes : Overlay
  cells : KMap Nat (BitVec 128)
  bad : List Nat
  deriving DecidableEq, Repr

/-- How far the stager has come with one unit (R73 to R75). -/
inductive UnitState where
  | queued
  | fetched (frame : Nat) (bytes : List Byte)
  | landed (frame : Nat) (bytes : List Byte)
  | marked (cause : BitVec 8)
  deriving DecidableEq, Repr

/-- One 4 KiB unit of a fetch entry (R71 to R75); `covered` lists the tile offsets that a commit after its own, or a unit of a
later entry, has written before it landed; `posted`: its entry's notice has been posted in the run of the superstep that
stands; `order`: the clock at which its entry was appended (R73); `overdue`: the commit of the superstep that it was staged for
has passed, so that it leaves no mark (R75). -/
structure FetchUnit where
  index : Nat
  slot : Nat
  va : Nat
  dest : Nat
  first : Bool
  last : Bool
  notify : Bool
  ea : Word
  st : UnitState
  covered : List Nat
  posted : Bool
  order : Nat
  overdue : Bool
  deriving DecidableEq, Repr

/-- The unit's name. -/
def FetchUnit.key (u : FetchUnit) : UnitKey := (u.order, u.slot, u.index, u.dest)

/-- What one tile holds for one stage of one corridor; `later` is a cause that came after the decision and belongs to the
next run (R26, R335). -/
structure StageTile where
  loc : Overlay
  inbound : List Delta
  bcast : List Delta
  outbound : List Sent
  cross : List Sent
  crossIn : List CrossIn
  crossVoted : Nat
  farlog : List FarLog
  fetch : List FetchUnit
  staged : List FetchUnit
  pending : Int
  reported : Bool
  voteCast : Bool
  tileCause : Option TrapInfo
  later : Option TrapInfo
  decided : Option Bool
  settled : Bool
  deriving DecidableEq, Repr

/-- Nothing held. -/
def StageTile.reset : StageTile :=
  { loc := [], inbound := [], bcast := [], outbound := [], cross := [], crossIn := [], crossVoted := 0,
    farlog := [], fetch := [], staged := [], pending := 0, reported := false, voteCast := false,
    tileCause := none,
    later := none, decided := none, settled := false }

/-- One sample slot of the sequencer (R264). -/
structure SeqSlot where
  t : BitVec 32
  h : BitVec 32
  tEnd : BitVec 32
  errPrev : BitVec 32
  err : BitVec 32
  steps : BitVec 32
  rejects : BitVec 32
  status : BitVec 32
  deriving DecidableEq, Repr

/-- Every field of a slot resets to 0 (R264). -/
def SeqSlot.reset : SeqSlot := ⟨0, 0, 0, 0, 0, 0, 0, 0⟩

/-- A sequencer context (R263): the stage it is bound to, the configured bit, the block's 512 bytes, 32 slots. -/
structure SeqCtx where
  bound : Option Nat
  configured : Bool
  block : List Byte
  slots : Vector SeqSlot 32
  deriving DecidableEq, Repr

/-- Unconfigured, every slot IDLE (R263). -/
def SeqCtx.reset : SeqCtx := ⟨none, false, [], Vector.replicate 32 SeqSlot.reset⟩

/-- One vtile of a corridor: its corridor map entry, its residency index, its sequencer context and the tile's delivered
marks per stage (R20, R95, R263, R293). -/
structure VTile where
  phys : Nat
  resid : Nat
  seq : SeqCtx
  delivered : KMap Nat Word
  deriving DecidableEq, Repr

/-- A vtile before launch. -/
def VTile.reset : VTile := ⟨0, 0, SeqCtx.reset, []⟩

/-! ### Physical tiles -/

/-- A cached translation (R36, R41): page base and size, leaf attributes and the walk's effective permissions; `read1`,
`write1` and `user1` are those of the first stage alone (R40). -/
structure TlbEntry where
  pasid : Nat
  ctx : Option Nat
  va : Nat
  size : Nat
  frame : Nat
  read : Bool
  write : Bool
  user : Bool
  cls : BitVec 2
  home : Nat
  read1 : Bool
  write1 : Bool
  user1 : Bool
  deriving DecidableEq, Repr

/-- A matrix command (R231, R232): its operation (0 `mmma`, 1 `ast`, 2 `ast.add`, 3 `ald`, 4 `azero`), the strand and
slot it belongs to, the registers read at issue, the ranges of tile memory it reads, the position its trap record
carries, whether a strand wrote those ranges since (R239); from its start on the control registers it sampled, its
results by slot value or tile offset, and its flags; `view` is the strand's view of its tile at issue and `owed` names the staged
units that had not landed then, whose bytes join the view as they land (R48, R52). -/
structure MCmd where
  op : Nat
  id : StrandId
  slot : Nat
  d0a : Word
  d1a : Word
  d0b : Word
  d1b : Word
  regA : Option (List Byte)
  regB : Option (List Byte)
  k : Nat
  reads : List (Nat × Nat)
  trap : TrapInfo
  tainted : Bool
  ctl : Ctl
  result : List (Nat × BitVec 32)
  flags : BitVec 7
  view : Mem
  owed : List (Nat × UnitKey)
  deriving DecidableEq, Repr

/-- One accumulator slot: its holder and its 32-bit values by 128·i + j, those not listed being 0 (R101, R236). -/
structure AccSlot where
  owner : StrandId
  vals : List (Nat × BitVec 32)
  deriving DecidableEq, Repr

/-- One physical tile (R16). -/
structure Tile where
  mem : Mem
  poison : List Nat
  dirty : List Nat
  acc : KMap Nat AccSlot
  queue : List MCmd
  cmdRunning : Option MCmd
  lease : Option (StrandId × Nat)
  leaseQueue : List (StrandId × Nat)
  lastIssued : Nat
  engineLast : Nat
  tlb : List TlbEntry
  score : Nat
  closed : Bool
  fenced : Bool
  testing : Bool
  deriving DecidableEq, Repr

/-- A tile before anything has been placed on it (R369: the score starts at 0).  `engineLast` makes the copy engine's first
search begin at slot 0, by the model's choice (R77; assumption 81). -/
def Tile.reset : Tile :=
  { mem := [], poison := [], dirty := [], acc := [], queue := [], cmdRunning := none, lease := none, leaseQueue := [],
    lastIssued := 3, engineLast := 3, tlb := [], score := 0, closed := false, fenced := false, testing := false }

/-! ### Stages and corridors -/

/-- The phases of a superstep (R24): `decided` until the decision has reached every tile of the stage, `apply` while its
tiles drain or drop what they hold, `service` until the causes of an abort have been serviced. -/
inductive Phase where
  | compute | quiesce | horizon | vote | decided | apply | service | stopped | ended
  deriving DecidableEq, Repr

/-- One stage (R22): its mile marker, its phase, what the vote gathered (`cont`: some strand goes on after this barrier), its
reruns (`run` counts them without the limit of AGN; `refetched`: its marked units have been queued again for the next one), the causes of the aborted run, the far-store logs of its commits that
are not written yet, whether every package has handed its part to the one that writes it and whether all is written, the
drain watermark of each home controller (R60), the commits whose cross-stage data has landed on every package, the junction
messages by package and kind (R358), and the tiles charged with a class-2 cause in aborted runs of its superstep (R369). -/
structure Stage where
  mm : Word
  phase : Phase
  decision : Option Bool
  agn : BitVec 4
  counted : Nat
  summary : BitVec 16
  firstCause : Option TrapInfo
  redOp : BitVec 5
  lanes : Option (List Word)
  redOvf : Bool
  resultDue : Option (List Word)
  cont : Bool
  farLeft : List FarLog
  watermarks : KMap Nat Word
  farReady : Bool
  farDone : Bool
  crossDone : Word
  run : Nat
  resumed : Bool
  guarded : Bool
  causes : List TrapInfo
  serviced : Bool
  refetched : Bool
  ended : Bool
  horizonAt : Nat
  children : KMap (Nat × Nat) (List Byte)
  charged : List Nat
  chargedNow : List Nat
  deriving DecidableEq, Repr

/-- A stage at launch: mile marker 0 (R22). -/
def Stage.reset : Stage :=
  { mm := 0, phase := .compute, decision := none, agn := 0, counted := 0, summary := 0, firstCause := none,
    redOp := 0, lanes := none, redOvf := false, resultDue := none, cont := false, farLeft := [], watermarks := [],
    farReady := true, farDone := true, crossDone := 0, run := 0,
    resumed := false, guarded := false, causes := [], serviced := false, refetched := false, ended := false, horizonAt := 0, children := [], charged := [],
    chargedNow := [] }

/-- Where a corridor stands (R314, R323, R333). -/
inductive CorState where
  | waiting | running | stopping | swapped | exported | ended | halted | killed | refused
  deriving DecidableEq, Repr

/-- A record the depot has taken into its launch table (R306), with its place in the order in which records were taken. -/
structure Taken where
  queue : Nat
  words : List Word
  pasid : Nat
  ctx : Option Nat
  qprio : Nat
  fn : Nat
  order : Nat
  deriving DecidableEq, Repr

/-- A pre-emption in progress (R322, R323): immediate or drain, class, the request record that completes with it, the
clock at which a drain escalates, and whether a launch that waits for tiles made it. -/
structure Request where
  immediate : Bool
  kill : Bool
  cls : Nat
  record : Option Taken
  deadline : Nat
  press : Bool
  deriving DecidableEq, Repr

/-- A strand slot's entry in the launch template (R311). -/
structure Entry where
  pc : Nat
  stage : Nat
  valid : Bool
  deriving DecidableEq, Repr

/-- A stage-map record (R312). -/
structure SMapRec where
  first : Nat
  count : Nat
  slot : Nat
  stage : Nat
  present : Bool
  deriving DecidableEq, Repr

/-- A corridor image as read at launch (R311); `size` is the number of its bytes. -/
structure Image where
  x : Nat
  y : Nat
  z : Nat
  order : Nat
  swizzle : Nat
  strands : Nat
  stages : Nat
  entries : List Entry
  code : List Byte
  tile : List (Nat × List Byte)
  live : List Nat
  fetch : List (Word × Nat × Nat)
  dtabs : KMap Nat (List Word)
  smap : List SMapRec
  size : Nat
  deriving DecidableEq, Repr

/-- The empty image. -/
def Image.reset : Image := ⟨1, 1, 1, 0, 1, 1, 1, [], [], [], [], [], [], [], 0⟩

/-- An image of a corridor (R342, R380): its kind, serials, the stages' mile markers, per vtile the digest, the lines, the system
part and the cross-stage part; `raw` is the image as the depot lays it out, `place` the address of its save area in far memory
(R339), and `broken` the vtiles whose bytes had changed there when the image was copied to a further layer. -/
structure Survival where
  cor : Nat
  full : Bool
  serial : Nat
  base : Nat
  marks : List Word
  digests : List (Nat × Word)
  lines : List (Nat × List (Nat × List Byte))
  system : List (Nat × List (Nat × List Byte))
  cross : List (Nat × List CrossIn × KMap Nat Word)
  raw : List Byte
  place : Nat
  broken : List Nat
  deriving DecidableEq, Repr

/-- One corridor (R19, R308, R311); `hostHeld`: stopped at the host's request, so that only a RESUME record brings it back
(R323); `yielded`: its place in the order in which corridors stopped, by which alternating ones take
turns; `sliceFrom`: the clock at which it last began to run (R320); `gone`: its strands that had ended when it was exported,
which no record starts again (R289, R339). -/
structure Corridor where
  state : CorState
  record : List Word
  image : Image
  queue : Nat
  fn : Nat
  pasid : Nat
  ctx : Option Nat
  priority : Nat
  cyc : Word
  trapCount : Nat
  requests : List Request
  guardClass : Option Nat
  completion : Option (List Word)
  haltedBy : Bool
  alternate : Bool
  owed : List (Nat × Nat × FetchUnit)
  serial : Nat
  resumeReqs : List Taken
  hostHeld : Bool
  yielded : Nat
  sliceFrom : Nat
  gone : List StrandId
  deriving DecidableEq, Repr

/-- A corridor before launch. -/
def Corridor.reset : Corridor :=
  { state := .waiting, record := [], image := Image.reset, queue := 0, fn := 0, pasid := 0, ctx := none, priority := 0,
    cyc := 0, trapCount := 0, requests := [], guardClass := none, completion := none, haltedBy := false,
    alternate := false, owed := [], serial := 0, resumeReqs := [], hostHeld := false, yielded := 0, sliceFrom := 0, gone := [] }

/-! ### Dies, far memory, lightway die -/

/-- A page walk in progress or queued (R41). -/
structure Walk where
  tile : Nat
  pasid : Nat
  ctx : Option Nat
  va : Nat
  deriving DecidableEq, Repr

/-- A staging-directory record (R74): frame, tile, stage, the unit with its destination, and the drained lines of the frame that
are still to be forwarded. -/
structure DirRec where
  frame : Nat
  cor : Nat
  vt : Nat
  stage : Nat
  unit : UnitKey
  due : List Nat
  deriving DecidableEq, Repr

/-- One cluster of 4 × 4 tiles (R372, R381): the ageing steps, the management steps for module power and for core current, whether
one is due for heat, and the birth count that is fused for its ageing monitor, known from the monitor's first reading on. -/
structure Cluster where
  age : Nat
  power : Nat
  current : Nat
  step : Nat
  gated : Bool
  fenced : Bool
  hot : Bool
  birth : Option Nat
  deriving DecidableEq, Repr

/-- A cluster after reset. -/
def Cluster.reset : Cluster := ⟨0, 0, 0, 0, false, false, false, none⟩

/-- One compute die (R11); `stagerTurn` is the tile, counted on the die, whose lists its stager looks at next (R73); `deaf` lists the
strike sensors, 4 for each block, that have not passed their last test (R371). -/
structure Die where
  fenced : Bool
  draining : Bool
  counters : Vector Word 16
  l2 : List TlbEntry
  walks : List Walk
  directory : List DirRec
  hbmCorrected : Nat
  uncovered : List Nat
  deaf : List Nat
  clusters : KMap Nat Cluster
  strikes : List Nat
  stagerTurn : Nat
  deriving DecidableEq, Repr

/-- A die after reset: every counter 0 (R110). -/
def Die.reset : Die :=
  { fenced := false, draining := false, counters := Vector.replicate 16 0, l2 := [], walks := [], directory := [],
    hbmCorrected := 0, uncovered := [], deaf := [], clusters := [], strikes := [], stagerTurn := 0 }

/-- How far a line that has failed uncorrectably has come towards its retirement (R368). -/
inductive LineFault where
  | failed | rewritten | again
  deriving DecidableEq, Repr

/-- Far memory by physical address (R31), its poisoned 8-byte words, the runs of lost frames (first frame, number), the retired
frames, and the lines that have failed (R367, R368, R378). -/
structure Far where
  mem : Mem
  poison : List Nat
  lost : List (Nat × Nat)
  retired : List Nat
  faulty : KMap Nat LineFault
  deriving DecidableEq, Repr

/-- One entry of the connection table (R347); an unlisted circuit is as boot set it. -/
structure Circuit where
  src : BitVec 2
  dst : BitVec 2
  valid : Bool
  state : BitVec 2
  deriving DecidableEq, Repr

/-- The lightway die: changed entries, spares standing in, pairs declared failed, entries that retune, writes that wait for a
barrier, the dies between which boot shared the data circuits, and, since a die was fenced, the corridors that have still
to pass a barrier before its circuits change (R12, R346 to R348). -/
structure Lightway where
  circuits : KMap Nat Circuit
  standIn : KMap Nat Nat
  failedPairs : List (Nat × Nat)
  retuning : KMap Nat Circuit
  pending : KMap Nat Circuit
  dies : List Nat
  awaited : Option (List Nat)
  deriving DecidableEq, Repr

/-! ### Host interface -/

/-- A host queue as the depot knows it (R304 to R307); `rung`: a doorbell that the depot has still to look at, its record lying
with a peer. -/
structure Queue where
  pending : Bool
  mapped : Bool
  order : Nat
  tail : Word
  owner : Nat
  disabled : Bool
  rung : Bool
  deriving DecidableEq, Repr

/-- A queue never touched. -/
def Queue.reset : Queue := ⟨false, false, 0, 0, 0, false, false⟩

/-- A page fault record awaiting its answer, written once the ring has room (R363). -/
structure FaultRec where
  seq : Nat
  fn : Nat
  cor : Nat
  st : Nat
  vt : Nat
  va : Nat
  wr : Bool
  answered : Bool
  written : Bool
  deriving DecidableEq, Repr

/-- A page request to the host or, for a page behind an aperture, to the package that holds it (R351, R362): the corridor (or a
queue, as a number above every corridor's), stage, page, the PASID that it carries as prefix, the package asked, and
whether it has been answered with success. -/
structure PageReq where
  cor : Nat
  st : Nat
  page : Nat
  pasid : Nat
  pkg : Nat
  done : Bool
  deriving DecidableEq, Repr

/-- The registers of one function (R363, R364); `posted` lists the messages that were sent, each with the payload that was written for
it. -/
structure Func where
  pasid : Nat
  frBase : Word
  frHead : BitVec 32
  frTail : BitVec 32
  frVec : BitVec 17
  masked : List Nat
  pendingVec : List Nat
  vecAddr : KMap Nat Word
  posted : List (Nat × Option Word)
  deriving DecidableEq, Repr

/-- A function after reset (R363); its PASID is assumption 23. -/
def Func.reset : Func := ⟨0, 0, 0, 0, 0, [], [], [], []⟩

/-- A fabric aperture (R350). -/
structure Aperture where
  va : Nat
  size : Nat
  pkg : Nat
  pasid : Nat
  target : Nat
  deriving DecidableEq, Repr

/-- A packet of a message: the template's 128 bytes with the message number and the byte offset that it is filled with, and at
most 4,096 bytes of payload (R359). -/
structure UePacket where
  header : Vector Word 16
  number : Nat
  offset : Nat
  payload : List Byte
  deriving DecidableEq, Repr

/-- A message on its way: whose it is, its number on the queue and its packets (R359). -/
structure UeMessage where
  id : StrandId
  number : Nat
  packets : List UePacket
  deriving DecidableEq, Repr

/-- A send queue's binding (R359); `header` is the 128-byte template as sixteen words, `number` the number of the next message,
`reports` the entries written to the completion ring (R360). -/
structure SendQueue where
  owner : Nat
  port : Nat
  ordered : Bool
  ring : Nat
  header : Vector Word 16
  inflight : List UeMessage
  number : Nat
  reports : Nat
  deriving DecidableEq, Repr

/-- An unbound send queue. -/
def SendQueue.reset : SendQueue := ⟨0, 0, false, 0, Vector.replicate 16 0, [], 0, 0⟩

/-- A write of the device's to host memory: the PASID that it carries as prefix, the host address, the bytes (R362). -/
structure HostWrite where
  prefix_ : Option Nat
  addr : Nat
  bytes : List Byte
  deriving DecidableEq, Repr

/-- PF0 and the virtual functions (R305, R349, R350, R359 to R365, R379); `waiting` holds host accesses through apertures that
wait for a tag, `notes` the completions that queues have still to be notified of, `inbound` the messages of a receive queue
whose buffer a peer has still to translate, and `writes` what the device has written to host memory. -/
structure HostIf where
  queues : KMap Nat Queue
  mapOrder : Nat
  taken : List Taken
  funcs : KMap Nat Func
  notifyPages : KMap Nat Word
  apertures : KMap (Nat × Nat) Aperture
  apertureNext : KMap (Nat × Nat) Aperture
  sendQueues : KMap Nat SendQueue
  recvBuffers : KMap Nat (List (Nat × Nat))
  faults : List FaultRec
  pageRequests : List PageReq
  droppedDoorbells : Nat
  droppedMessages : Nat
  droppedPosts : Nat
  failedAccesses : Nat
  reported : List (Nat × Nat)
  answers : List (Nat × Option (List Byte))
  waiting : List (Bar2 × Aperture)
  atsCache : List TlbEntry
  notes : List (Nat × List Word)
  inbound : List (Nat × List Byte)
  writes : List HostWrite
  deriving DecidableEq, Repr

/-- The die-offline interface (R378, R379); `moved` names the new frames of pages whose hosts have still to be told or to answer,
`stopped` the corridors that stand still for it. -/
structure Offline where
  active : Option (Nat × Bool)
  queued : List (Nat × Bool)
  phase : Nat
  result : BitVec 8
  die : BitVec 2
  left : Nat
  vec : BitVec 17
  rmpBase : Word
  rmpHead : BitVec 32
  rmpTail : BitVec 32
  notices : List (Nat × Nat × Nat × Nat × Nat × Nat)
  moved : KMap Nat Nat
  stopped : List Nat
  deriving DecidableEq, Repr

/-! ### Fabric -/

/-- What a transaction does when it ends (R357); `forgotten`: a read of a unit that is staged no more; `post`: the oldest of the
depot's writes; `digests`: the digests that a package's depot holds of a replica (R380). -/
inductive TransUse where
  | probe (id : StrandId) (va : Nat)
  | read (id : StrandId) (win va : Nat)
  | element (id : StrandId) (seq n : Nat)
  | staged (cor vt st : Nat) (unit : UnitKey)
  | delta (cor st vt : Nat)
  | drain (cor st : Nat)
  | cross (cor st : Nat)
  | forward (key : Nat × Nat × Nat)
  | ask (pasid va : Nat)
  | fetch (pasid page : Nat)
  | post
  | forgotten
  | bar2 (fn va : Nat) (write : Bool)
  | page (cor st page : Nat)
  | release
  | amo (id : StrandId) (tag : BitVec 16)
  | store (id : StrandId)
  | junction (cor st : Nat)
  | digests (cor pkg : Nat)
  deriving DecidableEq, Repr

/-- An open transaction of this package as requester (R354, R355). -/
structure Trans where
  pkg : Nat
  tag : Nat
  inc : Nat
  port : Nat
  kind : FabricKind
  attempt : Nat
  age : Nat
  epoch : Nat
  pasid : Nat
  va : Nat
  size : Nat
  op : BitVec 5
  data : List Byte
  use : TransUse
  deriving DecidableEq, Repr

/-- A duplicate-suppression entry (R356). -/
structure DupEntry where
  src : Nat
  tag : Nat
  inc : Nat
  reply : FabricRep
  deriving DecidableEq, Repr

/-- One Plosis Link port (R352, R353): the payloads that came in and, waiting to go out, the messages cut into payloads, each
with its virtual channel; `sent` holds the flits that left, for replay. -/
structure Port where
  failed : List Nat
  width : Nat
  down : Bool
  retraining : Bool
  expect : Nat
  replays : Nat
  late : Nat
  received : List (Nat × List Byte)
  next : Nat
  waiting : List (Nat × List Byte)
  sent : List (List Byte)
  deriving DecidableEq, Repr

/-- A port at full width, nothing sent. -/
def Port.reset : Port := ⟨[], 8, false, false, 0, 0, 0, [], 0, [], []⟩

/-- A write of the depot's that goes to a peer: the corridor whose record it is, or the depot's own number, the address space, the
address and the bytes (R350). -/
structure DepotWrite where
  who : Nat
  pasid : Nat
  va : Nat
  bytes : List Byte
  deriving DecidableEq, Repr

/-- The fabric side of the package (R349 to R360); `planes` names the package that holds a plane of the corridor that a fabric
group and a number name (R318), `registered` the
packages with staged copies of frames homed here, `pendingDrains` the drain requests of peers whose forwards are under way
(R74) and `failedDrains` those of them with a forward that came to nothing (R357); `pinned` lists the package and the frame of every answer to a probe that still holds its frame, `holding` the
corridor, the package and the frame of those this package was given (R351); `fetched` holds pages that the depot has read from
peers for a record or an image, each with the cause with which its reading failed, if it did (R350); `writes` holds the depot's
writes for which a peer has still to answer, the oldest on its way; `digests` the answers of packages asked for the digests of a
replica, by corridor and package (R380); `flightUs` is the domain's maximum flight
time (R355). -/
structure Fabric where
  pkg : Nat
  epoch : Nat
  epochs : KMap Nat Nat
  timeoutUs : Nat
  retries : Nat
  flightUs : Nat
  open_ : List Trans
  tags : KMap (Nat × Nat) Nat
  quarantine : List (Nat × Nat)
  probes : KMap (Nat × Nat) (Nat × BitVec 2 × BitVec 8)
  dups : List DupEntry
  sentReplies : List FabricRep
  pinned : List (Nat × Nat)
  holding : List (Nat × Nat × Nat)
  fetched : KMap (Nat × Nat) (BitVec 8 × List Byte)
  writes : List DepotWrite
  digests : KMap (Nat × Nat) (Option (KMap Nat Word))
  planes : KMap (Nat × Nat × Nat) Nat
  ports : KMap Nat Port
  registered : List (Nat × Nat)
  pendingDrains : List (Nat × Nat × Nat)
  failedDrains : KMap (Nat × Nat × Nat) (BitVec 8)
  deriving DecidableEq, Repr

/-! ### Depot, boot and power -/

/-- The signed configuration table's fields as boot took them (R376). -/
structure Table where
  version : Nat
  depotCol : Nat
  depotCols : Nat
  degradedOk : Bool
  minDies : Nat
  poolIl : Nat
  poolFh : Nat
  spareMib : Nat
  deriving DecidableEq, Repr

/-- The shipped table: one depot column, 64 MiB spare pool (R32, R376); the pools' sizes are assumption 6. -/
def Table.reset : Table := ⟨0, 0, 1, false, 2, 32, 32, 64⟩

/-- A firewall register (R375). -/
structure Firewall where
  enable : Bool
  passSystem : Bool
  blockInbound : Bool
  lock : Bool
  dropped : BitVec 16
  deriving DecidableEq, Repr

/-- A firewall register after reset (R375). -/
def Firewall.reset : Firewall := ⟨true, true, true, false, 0⟩

/-- The depot and boot (R14, R374 to R377); `keyHash` and `identity` are what is fused into the dies, the hash of the vendor's key and
each die's certificate (R376); `images` are those of the save area, `flash` and `store` those of layers 2 and 3 (R339, R380). -/
structure Depot where
  booted : Option (BitVec 8)
  table : Table
  columns : List Nat
  fused : List Nat
  counter : List Nat
  keyHash : Nat
  identity : List Nat
  firewall : Firewall
  roots : KMap Nat Nat
  ctxRoots : KMap Nat Nat
  offline : Offline
  images : List Survival
  flash : List Survival
  store : List Survival
  replies : List (Nat × Nat × Option (List (Nat × Word)))
  deriving DecidableEq, Repr

/-- Power management (R381). -/
structure Power where
  gatedAll : Bool
  gatedCluster : List (Nat × Nat)
  moduleStepped : Bool
  coreStepped : Bool
  removed : Bool
  deriving DecidableEq, Repr

/-! ### The package -/

/-- An atomic handed to a home controller's atomic unit and not yet performed (R64), with the strand whose mailbox gets
the old value; `bad`: its verge entry met an uncorrectable error (R367). -/
structure AtomicReq where
  id : StrandId
  pa : Nat
  size : Nat
  op : BitVec 5
  operand : Word
  compare : Word
  tag : BitVec 16
  bad : Bool
  deriving DecidableEq, Repr

/-- A source-0x02 result on its way to its mailbox (R63). -/
structure AmoResult where
  id : StrandId
  tag : BitVec 16
  status : BitVec 8
  value : Word
  deriving DecidableEq, Repr

/-- A cross-stage write travelling after its sender's commit, with the words that carry an uncorrectable error (R58, R367). -/
structure Travelling where
  cor : Nat
  stage : Nat
  mm : Word
  vt : Nat
  slot : Nat
  seq : Nat
  target : Nat
  bytes : Overlay
  bad : List Nat
  deriving DecidableEq, Repr

/-- The whole package.  `agenda` is the list of events the outside world and the model's schedule have in store, taken
before anything else; `cur` is the strand whose instruction is executed; `turn` is the tile whose strand issues next;
`free` is the model's own counter for free values (assumption 2); every other field is the spec's. -/
structure State where
  clock : Nat
  cur : StrandId
  turn : Nat
  agenda : List Instr
  free : Nat
  strands : KMap StrandId Strand
  stageTiles : KMap (Nat × Nat × Nat) StageTile
  vtiles : KMap (Nat × Nat) VTile
  stages : KMap (Nat × Nat) Stage
  corridors : KMap Nat Corridor
  tiles : KMap Nat Tile
  dies : Vector Die 4
  far : Far
  atomics : List AtomicReq
  amoResults : List AmoResult
  travelling : List Travelling
  depot : Depot
  host : HostIf
  fabric : Fabric
  lightway : Lightway
  power : Power
  deriving DecidableEq, Repr

/-- Why the machine stops. -/
inductive Fault where
  /-- Raised by `step` when boot ended with a status that halts the package (R377: 0x02 to 0x06).  Safe: the package
  runs nothing until the host resets it, which is the event `boot` on the agenda. -/
  | bootHalted (status : BitVec 8)
  /-- Raised by `step` when the depot removed core power at 125 °C (R381).  Safe: only a host power cycle ends it. -/
  | powerRemoved
  deriving DecidableEq, Repr

/-- Why an instruction has no meaning here. -/
inductive Refusal where
  /-- An instruction whose arm is not written yet; never answered by a meaning. -/
  | notModelled (mnemonic : String)
  deriving DecidableEq, Repr

/-- The package right after reset: nothing booted, nothing launched, every memory empty. -/
def State.reset : State :=
  { clock := 0, cur := ⟨0, 0, 0⟩, turn := 0, agenda := [], free := 0, strands := [], stageTiles := [], vtiles := [],
    stages := [], corridors := [], tiles := [], dies := Vector.replicate 4 Die.reset,
    far := ⟨[], [], [], [], []⟩, atomics := [], amoResults := [], travelling := [],
    depot := { booted := none, table := Table.reset, columns := [], fused := [], counter := [0, 0, 0, 0],
               keyHash := 0, identity := [0, 0, 0, 0], firewall := Firewall.reset, roots := [], ctxRoots := [],
               offline := ⟨none, [], 0, 0, 0, 0, 0, 0, 0, 0, [], [], []⟩, images := [], flash := [], store := [],
               replies := [] },
    host := { queues := [], mapOrder := 0, taken := [], funcs := [], notifyPages := [], apertures := [],
              apertureNext := [], sendQueues := [], recvBuffers := [], faults := [], pageRequests := [],
              droppedDoorbells := 0, droppedMessages := 0, droppedPosts := 0, failedAccesses := 0, reported := [],
              answers := [], waiting := [], atsCache := [], notes := [], inbound := [], writes := [] },
    fabric := { pkg := 0, epoch := 0, epochs := [], timeoutUs := 64, retries := 3, flightUs := 16, open_ := [], tags := [],
                quarantine := [], probes := [], dups := [], sentReplies := [], pinned := [], holding := [], fetched := [], writes := [], digests := [], planes := [], ports := [],
                registered := [], pendingDrains := [], failedDrains := [] },
    lightway := ⟨[], [], [], [], [], [0, 1, 2, 3], none⟩,
    power := ⟨false, [], false, false, false⟩ }

end Sys2Proof.Machine
end

