-- ==== Sys2Proof/Machine/Maps.lean ====
section
/-! DEFINITION. The named operations on finite maps, byte memories and overlays, and the byte order (R114). -/

namespace Sys2Proof.Machine

/-! ### Finite maps -/

def KMap.get? {κ α : Type} [DecidableEq κ] (m : KMap κ α) (k : κ) : Option α :=
  match m with
  | [] => none
  | (k', v) :: r => if k' = k then some v else KMap.get? r k

/-- The value at a key, or the type's reset value. -/
def KMap.getD {κ α : Type} [DecidableEq κ] (m : KMap κ α) (k : κ) (d : α) : α :=
  match KMap.get? m k with
  | some v => v
  | none => d

/-- Replaces the value at a key, or adds the key at the end. -/
def KMap.set {κ α : Type} [DecidableEq κ] (m : KMap κ α) (k : κ) (v : α) : KMap κ α :=
  match m with
  | [] => [(k, v)]
  | (k', v') :: r => if k' = k then (k, v) :: r else (k', v') :: KMap.set r k v

def KMap.erase {κ α : Type} [DecidableEq κ] (m : KMap κ α) (k : κ) : KMap κ α :=
  match m with
  | [] => []
  | (k', v') :: r => if k' = k then r else (k', v') :: KMap.erase r k

/-! ### Bytes -/

/-- The n low bytes of a value, least significant first (R114). -/
def leBytes : Nat → Nat → List Byte
  | 0, _ => []
  | n + 1, v => BitVec.ofNat 8 v :: leBytes n (v / 256)

/-- The value of little-endian bytes. -/
def ofLE : List Byte → Nat
  | [] => 0
  | b :: r => b.toNat + 256 * ofLE r

/-- The cells of consecutive bytes from an address. -/
def runCells (a : Nat) : List Byte → List Host.Cell
  | [] => []
  | b :: r => (a, b) :: runCells (a + 1) r

/-- The part of a sorted list of cells from `a` up to, not including, `a + n`. -/
def cellsIn (m : List Host.Cell) (a n : Nat) : List Host.Cell :=
  (m.dropWhile fun c => decide (c.1 < a)).takeWhile fun c => decide (c.1 < a + n)

/-- Replaces the cells from `a` up to `a + n` by `cs`. -/
def splice (m : List Host.Cell) (a n : Nat) (cs : List Host.Cell) : List Host.Cell :=
  (m.takeWhile fun c => decide (c.1 < a)) ++ cs ++ (m.dropWhile fun c => decide (c.1 < a + n))

/-- The cell at an address of a sorted list. -/
def cellAt (m : List Host.Cell) (a : Nat) : Option Byte :=
  match m with
  | [] => none
  | (k, b) :: r => if k = a then some b else cellAt r a

/-! ### Memory -/

/-- What an unlisted address reads as (assumption 3). -/
def Mem.unlisted : Byte := 0

/-- Reads one byte. -/
def Mem.read (m : Mem) (a : Nat) : Byte :=
  match cellAt m a with
  | some b => b
  | none => Mem.unlisted

/-- Reads n bytes. -/
def Mem.readN (m : Mem) (a n : Nat) : List Byte :=
  let w : Mem := cellsIn m a n
  (List.range n).map fun i => Mem.read w (a + i)

/-- Reads a little-endian value of n bytes. -/
def Mem.load (m : Mem) (a n : Nat) : Nat := ofLE (Mem.readN m a n)

/-- Writes consecutive bytes. -/
def Mem.write (m : Mem) (a : Nat) (bs : List Byte) : Mem :=
  splice m a bs.length ((runCells a bs).filter fun c => decide (c.2 ≠ Mem.unlisted))

/-- Writes a little-endian value of n bytes. -/
def Mem.store (m : Mem) (a n v : Nat) : Mem := Mem.write m a (leBytes n v)

/-- Makes a range read as unlisted. -/
def Mem.clear (m : Mem) (a n : Nat) : Mem := splice m a n []

/-- Merges two sorted lists of cells, the second winning; `fuel` bounds the cells. -/
def mergeCells : Nat → List Host.Cell → List Host.Cell → List Host.Cell
  | 0, _, _ => []
  | _ + 1, m, [] => m
  | _ + 1, [], o => o
  | f + 1, (a, x) :: m, (b, y) :: o =>
    if a < b then (a, x) :: mergeCells f m ((b, y) :: o)
    else if a = b then (b, y) :: mergeCells f m o
    else (b, y) :: mergeCells f ((a, x) :: m) o

/-- Addresses strictly rising. -/
def rising : List Host.Cell → Bool
  | (a, _) :: (b, y) :: r => decide (a < b) && rising ((b, y) :: r)
  | _ => true

/-- A memory with an overlay's bytes written into it. -/
def Mem.apply (m : Mem) (o : Overlay) : Mem :=
  if rising o then (mergeCells (m.length + o.length + 1) m o).filter fun c => decide (c.2 ≠ Mem.unlisted)
  else o.foldl (fun m c => Mem.write m c.1 [c.2]) m

/-- The canonical form: addresses strictly rising, no entry equal to the unlisted byte. -/
def Mem.wf : Mem → Bool
  | [] => true
  | [(_, b)] => decide (b ≠ Mem.unlisted)
  | (a, b) :: (a', b') :: r => decide (b ≠ Mem.unlisted) && decide (a < a') && Mem.wf ((a', b') :: r)

/-! ### Overlays -/

def Overlay.get? (o : Overlay) (a : Nat) : Option Byte := cellAt o a

/-- Lays consecutive bytes over an overlay. -/
def Overlay.write (o : Overlay) (a : Nat) (bs : List Byte) : Overlay := splice o a bs.length (runCells a bs)

/-- Lays a list of cells over an overlay, in the list's order. -/
def Overlay.puts (o : Overlay) : List Host.Cell → Overlay
  | [] => o
  | (a, b) :: r => Overlay.puts (splice o a 1 [(a, b)]) r

/-- Lays a sorted overlay over another. -/
def Overlay.over (o p : Overlay) : Overlay := mergeCells (o.length + p.length + 1) o p

/-- The 64-byte lines an overlay touches, each once. -/
def Overlay.lines : Overlay → List Nat
  | [] => []
  | (a, _) :: r =>
    match Overlay.lines r with
    | l :: ls => if l = a / 64 then l :: ls else a / 64 :: l :: ls
    | [] => [a / 64]

/-- The lines that a range of n bytes touches. -/
def linesOf (a n : Nat) : List Nat := if n = 0 then [] else (List.range ((a + n - 1) / 64 - a / 64 + 1)).map (a / 64 + ·)

/-- A memory seen through an overlay. -/
def viewRead (m : Mem) (o : Overlay) (a n : Nat) : List Byte :=
  let wm : Mem := cellsIn m a n
  let wo : Overlay := cellsIn o a n
  (List.range n).map fun i =>
    match cellAt wo (a + i) with
    | some b => b
    | none => Mem.read wm (a + i)

/-- The elements of a list that satisfy no earlier equal element. -/
def distinct {α : Type} [DecidableEq α] : List α → List α
  | [] => []
  | x :: r => if r.contains x then distinct r else x :: distinct r

/-- Replaces element n of a list. -/
def listSet {α : Type} (l : List α) (n : Nat) (x : α) : List α :=
  match l, n with
  | [], _ => []
  | _ :: r, 0 => x :: r
  | y :: r, n + 1 => y :: listSet r n x

/-- Removes element n of a list. -/
def listRemove {α : Type} (l : List α) (n : Nat) : List α :=
  match l, n with
  | [], _ => []
  | _ :: r, 0 => r
  | y :: r, n + 1 => y :: listRemove r n

/-- Bits hi to lo of a word as a number. -/
def bits (w : Word) (hi lo : Nat) : Nat := (w.toNat >>> lo) % 2 ^ (hi + 1 - lo)

/-- Bit n of a word. -/
def bit (w : Word) (n : Nat) : Bool := w.getLsbD n

/-- Replaces bits hi to lo of a word. -/
def setBits (w : Word) (hi lo v : Nat) : Word :=
  let m : Word := BitVec.ofNat 64 ((2 ^ (hi + 1 - lo) - 1) <<< lo)
  (w &&& ~~~m) ||| (BitVec.ofNat 64 ((v % 2 ^ (hi + 1 - lo)) <<< lo))

/-! ### CRC-64 (R84) -/

/-- One byte of the reflected CRC. -/
def crcByte (r : Word) (b : Byte) : Word :=
  (List.range 8).foldl (fun r _ => if r.getLsbD 0 then (r >>> 1) ^^^ 0xC96C5795D7870F42 else r >>> 1)
    (r ^^^ b.setWidth 64)

/-- The digest of bytes from a seed. -/
def crc64 (seed : Word) (bs : List Byte) : Word := ~~~(bs.foldl crcByte (~~~seed))

end Sys2Proof.Machine
end

