-- ==== Sys2Proof/Machine/Translate.lean ====
section
/-! DEFINITION. The physical map, home dies, page walks and the translation caches (R31 to R42). -/

namespace Sys2Proof.Machine

/-! ### Cause codes (R328) -/

abbrev cILLEGAL : BitVec 8 := 0x01
abbrev cPRIV : BitVec 8 := 0x02
abbrev cALIGN : BitVec 8 := 0x03
abbrev cTXF : BitVec 8 := 0x04
abbrev cPROT : BitVec 8 := 0x05
abbrev cRESIDUE : BitVec 8 := 0x06
abbrev cECC : BitVec 8 := 0x07
abbrev cSTRIKE : BitVec 8 := 0x08
abbrev cLINK : BitVec 8 := 0x09
abbrev cDELTA_FULL : BitVec 8 := 0x0A
abbrev cACC_LIVE : BitVec 8 := 0x0B
abbrev cACC_DEADLOCK : BitVec 8 := 0x0C
abbrev cDEPX : BitVec 8 := 0x0D
abbrev cSTAGE_FAULT : BitVec 8 := 0x0E
abbrev cSOFT : BitVec 8 := 0x0F
abbrev cVOTE : BitVec 8 := 0x10
abbrev cPREEMPT : BitVec 8 := 0x11
abbrev cDIVZ : BitVec 8 := 0x12
abbrev cHOME_LOST : BitVec 8 := 0x13
abbrev cCMD_FORMAT : BitVec 8 := 0x14
abbrev cMM_CONFIG : BitVec 8 := 0x15
abbrev cSEQ_CONFIG : BitVec 8 := 0x16
abbrev cWRITE_CONFLICT : BitVec 8 := 0x17
abbrev cSTALE : BitVec 8 := 0x18
abbrev cTIMEOUT : BitVec 8 := 0x19
abbrev cPFL_FULL : BitVec 8 := 0x1A
abbrev cMILESTONE : BitVec 8 := 0x1B
abbrev cREPEAT_ABORT : BitVec 8 := 0x1C

/-- The class of a cause (R328). -/
def causeClass (c : BitVec 8) : Nat :=
  match c.toNat with
  | 0x04 | 0x0E | 0x13 => 1
  | 0x06 | 0x07 | 0x08 | 0x0F => 2
  | 0x09 | 0x18 | 0x19 => 3
  | 0x11 => 4
  | 0x1B | 0x1C => 5
  | _ => 0

/-! ### Dies and the physical map -/

/-- Die d, for d below 4. -/
def State.die (s : State) (d : Nat) : Die := s.dies.toList.getD d Die.reset

def State.setDie (s : State) (d : Nat) (x : Die) : State :=
  if h : d < 4 then { s with dies := s.dies.set d x } else s

/-- The surviving dies in ascending order (R33). -/
def survivors (s : State) : List Nat := [0, 1, 2, 3].filter fun d => !(s.die d).fenced

/-- One gibibyte. -/
abbrev gib : Nat := 1073741824

/-- The single-home pool of a die in bytes (R32). -/
def singlePool (t : Table) : Nat := 96 * gib - t.poolIl * gib - t.poolFh * gib - t.spareMib * 1048576

/-- A window of the physical map: base, usable extent, the placement it accepts and, for single home, its die (R31,
R32, R34). -/
structure PWindow where
  base : Nat
  extent : Nat
  place : BitVec 2
  die : Nat
  deriving DecidableEq, Repr

/-- The windows over the surviving dies. -/
def windowsOf (t : Table) (n : Nat) : List PWindow :=
  [⟨0, n * t.poolIl * gib, 1, 0⟩,
   ⟨0x10000000000, if n = 0 then 0 else t.poolFh * gib * 4 / ((4 + n - 1) / n), 2, 0⟩,
   ⟨0x20000000000, singlePool t, 0, 0⟩, ⟨0x30000000000, singlePool t, 0, 1⟩,
   ⟨0x40000000000, singlePool t, 0, 2⟩, ⟨0x50000000000, singlePool t, 0, 3⟩,
   ⟨0x60000000000, n * 256 * gib, 1, 0⟩]

/-- The window of 2^40 bytes that a physical address decodes to (R31). -/
def windowOf (s : State) (pa : Nat) : Option PWindow :=
  (windowsOf s.depot.table (survivors s).length).find? fun w => decide (w.base ≤ pa ∧ pa < w.base + 0x10000000000)

/-- The fine-hash fold (R33). -/
def fineHash (pa : Nat) : Nat :=
  (pa / 2 ^ 8 % 4) ^^^ (pa / 2 ^ 16 % 4) ^^^ (pa / 2 ^ 24 % 4) ^^^ (pa / 2 ^ 32 % 4) ^^^ (pa / 2 ^ 40 % 4)

/-- The home die and the die-local offset of a physical address (R33). -/
def homeOf (s : State) (pa : Nat) : Nat × Nat :=
  let surv := survivors s
  let n := if surv.length = 0 then 1 else surv.length
  match windowOf s pa with
  | none => (0, 0)
  | some w =>
    let o := pa - w.base
    match w.place.toNat with
    | 0 => (w.die, o)
    | 1 => let g := o / 4096; (surv.getD (g % n) 0, g / n * 4096 + o % 4096)
    | _ =>
      let h := fineHash pa
      (surv.getD (h % n) 0, ((o / 256 / 4) * ((4 + n - 1) / n) + h / n) * 256 + o % 256)

/-- The home die of a line. -/
def homeDie (s : State) (pa : Nat) : Nat := (homeOf s pa).1

/-- The home controller of a line: of die d, HBM stack 2d + bit 8 of the die-local address, numbered 0 to 7, or channel bits
9:8 of its four channels of module DRAM, numbered 8 + 4d onward (R35). -/
def controllerOf (s : State) (pa : Nat) : Nat :=
  let h := homeOf s pa
  if 0x60000000000 ≤ pa then 8 + 4 * h.1 + h.2 / 256 % 4 else 2 * h.1 + h.2 / 256 % 2

/-! ### Walks -/

/-- A page whose frame a forced offline or a retirement has poisoned (R368, R378). -/
def frameLost (s : State) (pa : Nat) : Bool := s.far.lost.any fun r => decide (r.1 ≤ pa / 4096 ∧ pa / 4096 < r.1 + r.2)

/-- A failed translation: its cause, and whether stage 2 met it (R40). -/
structure XFault where
  cause : BitVec 8
  s2 : Bool
  deriving DecidableEq, Repr

/-- The access kinds a walk judges (R37). -/
structure XKind where
  read : Bool
  write : Bool
  user : Bool
  deriving DecidableEq, Repr

/-- A leaf as one stage's walk yields it. -/
structure Leaf where
  base : Nat
  size : Nat
  read : Bool
  write : Bool
  user : Bool
  cls : BitVec 2
  place : BitVec 2
  home : Nat
  deriving DecidableEq, Repr

/-- The page size of a leaf (R36). -/
def leafSize (level : Nat) (span : Bool) : Nat := 4096 * 512 ^ (level - 1) * (if span then 16 else 1)

/-- The checks on a leaf's frame, placement and home die (R31, R32, R37), where its frame is a physical address. -/
def leafPlaced (s : State) (l : Leaf) : Except XFault Leaf :=
  match windowOf s l.base with
  | none => .error ⟨cPROT, false⟩
  | some w =>
    if w.place ≠ l.place ∨ l.base + l.size > w.base + w.extent then .error ⟨cPROT, false⟩
    else if w.place = 0 ∧ l.home ≠ w.die then .error ⟨cPROT, false⟩
    else if w.place = 0 ∧ (s.die w.die).fenced then .error ⟨cHOME_LOST, false⟩
    else .ok l

/-- One stage's walk from `level` downward (R37).  `tr` gives the physical address of a table entry; `final` says that
the leaf's frame is a physical address, whose placement is judged; a first stage of two ignores placement and home_die in
every entry (R40).  A table in a poisoned frame raises HOME_LOST, as every access to one does (R368, R378).  R37 has no row for a
non-leaf entry whose next-table frame lies in no window or outside a usable extent: the model reads it as ordinary far memory
(assumption 94). -/
def walkFrom (s : State) (tr : Nat → Except XFault Nat) (final : Bool) (k : XKind) (va : Nat) :
    Nat → Nat → Bool → Bool → Bool → Except XFault Leaf
  | 0, _, _, _, _ => .error ⟨cPROT, false⟩
  | level + 1, table, r, w, u =>
    let lv := level + 1
    match tr (table + 8 * (va / 2 ^ (12 + 9 * level) % 512)) with
    | .error f => .error f
    | .ok pa =>
      if frameLost s pa then .error ⟨cHOME_LOST, false⟩
      else
      let e := BitVec.ofNat 64 (Mem.load s.far.mem pa 8)
      let leaf := bit e 1
      let span := bit e 2
      let r' := r && bit e 3
      let w' := w && bit e 4
      let u' := u && bit e 5
      let cls : BitVec 2 := BitVec.ofNat 2 (bits e 7 6)
      let place : BitVec 2 := BitVec.ofNat 2 (bits e 9 8)
      let frame := bits e 51 12 * 4096
      if !bit e 0 then .error ⟨cTXF, false⟩
      else if !leaf && (span || bits e 7 6 != 0 || (final && bits e 11 8 != 0)) then .error ⟨cPROT, false⟩
      else if (leaf && lv == 4) || (!leaf && lv == 1) then .error ⟨cPROT, false⟩
      else if bits e 63 52 != 0 || cls == 3 || (final && place == 3) then .error ⟨cPROT, false⟩
      else if (k.read && !bit e 3) || (k.write && !bit e 4) || (k.user && !bit e 5) then .error ⟨cPROT, false⟩
      else if leaf then
        let size := leafSize lv span
        if frame % size ≠ 0 then .error ⟨cPROT, false⟩
        else
          let l : Leaf := ⟨frame, size, r', w', u', cls, place, bits e 11 10⟩
          if final then leafPlaced s l else .ok l
      else walkFrom s tr final k va level frame r' w' u'

/-- A walk of a host's stage-2 tables (R40); a context without a root has no page present (assumption 76). -/
def walkStage2 (s : State) (ctx : Nat) (k : XKind) (ipa : Nat) : Except XFault Leaf :=
  match KMap.get? s.depot.ctxRoots ctx with
  | none => .error ⟨cTXF, true⟩
  | some root =>
    match walkFrom s .ok true k ipa 4 root true true true with
    | .ok l => .ok l
    | .error f => .error ⟨f.cause, true⟩

/-- The walk of a device VA under a PASID and, with two stages, a context (R36 to R40): the entry the caches keep.  A PASID
without a root has no page present, and a table of the first stage needs to be readable in the second, its user bit not
judged, since the walker reads it (assumption 76). -/
def walk (s : State) (pasid : Nat) (ctx : Option Nat) (k : XKind) (va : Nat) : Except XFault TlbEntry :=
  match KMap.get? s.depot.roots pasid with
  | none => .error ⟨cTXF, false⟩
  | some root =>
    match ctx with
    | none =>
      match walkFrom s .ok true k va 4 root true true true with
      | .error f => .error f
      | .ok l => .ok ⟨pasid, none, va / l.size * l.size, l.size, l.base, l.read, l.write, l.user, l.cls, l.home, l.read, l.write, l.user⟩
    | some c =>
      let tr (a : Nat) : Except XFault Nat :=
        match walkStage2 s c ⟨true, false, false⟩ a with
        | .error f => .error f
        | .ok l => .ok (l.base + a % l.size)
      match walkFrom s tr false k va 4 root true true true with
      | .error f => .error f
      | .ok l1 =>
        let ipa := l1.base + va % l1.size
        match walkStage2 s c k ipa with
        | .error f => .error f
        | .ok l2 =>
          let size := if l1.size ≤ l2.size then l1.size else l2.size
          let pa := l2.base + ipa % l2.size
          .ok ⟨pasid, some c, va / size * size, size, pa / size * size, l1.read && l2.read, l1.write && l2.write,
            l1.user && l2.user, l1.cls, l2.home, l1.read, l1.write, l1.user⟩

/-- A cached entry for a VA (R41). -/
def findEntry (l : List TlbEntry) (pasid : Nat) (ctx : Option Nat) (va : Nat) : Option TlbEntry :=
  l.find? fun e => decide (e.pasid = pasid ∧ e.ctx = ctx ∧ e.va ≤ va ∧ va < e.va + e.size)

/-- Adds an entry to a cache of `cap` places, the oldest leaving (R41). -/
def cacheAdd (cap : Nat) (l : List TlbEntry) (e : TlbEntry) : List TlbEntry :=
  if l.contains e then l else (l ++ [e]).drop (l.length + 1 - cap)

/-- The permissions of a cached entry against an access (R37). -/
def entryAdmits (e : TlbEntry) (k : XKind) : Bool := (!k.read || e.read) && (!k.write || e.write) && (!k.user || e.user)

/-- The first stage of a cached entry admits an access: where the entry does not, stage 2 denies it (R40). -/
def firstAdmits (e : TlbEntry) (k : XKind) : Bool := (!k.read || e.read1) && (!k.write || e.write1) && (!k.user || e.user1)

/-- The translation of a VA as an access on tile `tile` makes it: from the tile's cache, the die's cache, or a walk
(R41). -/
def translate (s : State) (tile pasid : Nat) (ctx : Option Nat) (k : XKind) (va : Nat) : Except XFault TlbEntry :=
  let found :=
    match findEntry (KMap.getD s.tiles tile Tile.reset).tlb pasid ctx va with
    | some e => some e
    | none => findEntry (s.die (tile / 144)).l2 pasid ctx va
  match found with
  | some e => if entryAdmits e k then .ok e else .error ⟨cPROT, firstAdmits e k⟩
  | none => walk s pasid ctx k va

/-- The physical address of a translated VA. -/
def TlbEntry.pa (e : TlbEntry) (va : Nat) : Nat := e.frame + (va - e.va)

/-- Adds to one counter of a die (R110). -/
def bumpCounter (s : State) (die n : Nat) (by_ : Nat) : State :=
  if h : n < 16 then
    let d := s.die die
    s.setDie die { d with counters := d.counters.set n (d.counters[n] + BitVec.ofNat 64 by_) }
  else s

/-- The walk of a request covers an address: the page that it finds holds it, or, where it finds none, its 4 KiB (R41). -/
def walkCovers (s : State) (w : Walk) (pasid : Nat) (ctx : Option Nat) (va : Nat) : Bool :=
  decide (w.pasid = pasid ∧ w.ctx = ctx) &&
    (decide (w.va / 4096 = va / 4096) ||
      match walk s pasid ctx ⟨false, false, false⟩ w.va with
      | .ok e => decide (e.va ≤ va ∧ va < e.va + e.size)
      | .error _ => false)

/-- The walks of a die that run: at most 16 (R41). -/
def Die.running (d : Die) : List Walk := d.walks.take 16

/-- The walk requests of a die that wait, in arrival order (R41). -/
def Die.queued (d : Die) : List Walk := d.walks.drop 16

/-- Neither cache of a tile holds a page, and no walk of it is under way. -/
def mustWalk (s : State) (tile pasid : Nat) (ctx : Option Nat) (va : Nat) : Bool :=
  let d := s.die (tile / 144)
  (findEntry (KMap.getD s.tiles tile Tile.reset).tlb pasid ctx va).isNone && (findEntry d.l2 pasid ctx va).isNone &&
    !(d.walks.any fun w => walkCovers s w pasid ctx va)

/-- The physical addresses of the entries that one stage's walk of an address reads; `tr` as in `walkFrom`, `via` the entries
that this translation reads itself (R37, R40). -/
def walkPath (s : State) (tr : Nat → Except XFault Nat) (via : Nat → List Nat) (va : Nat) : Nat → Nat → List Nat
  | 0, _ => []
  | level + 1, table =>
    let a := table + 8 * (va / 2 ^ (12 + 9 * level) % 512)
    via a ++
      match tr a with
      | .error _ => []
      | .ok pa =>
        let e := BitVec.ofNat 64 (Mem.load s.far.mem pa 8)
        let frame := bits e 51 12 * 4096
        pa :: (if !bit e 0 then [] else if bit e 1 then via (frame + va % leafSize (level + 1) (bit e 2))
          else walkPath s tr via va level frame)

/-- The physical addresses of the table entries that a walk reads, in both stages where there are two (R36 to R40). -/
def walkReads (s : State) (pasid : Nat) (ctx : Option Nat) (va : Nat) : List Nat :=
  match KMap.get? s.depot.roots pasid, ctx with
  | none, _ => []
  | some root, none => walkPath s .ok (fun _ => []) va 4 root
  | some root, some c =>
    let second (a : Nat) : List Nat :=
      match KMap.get? s.depot.ctxRoots c with | some r => walkPath s .ok (fun _ => []) a 4 r | none => []
    let tr (a : Nat) : Except XFault Nat :=
      match walkStage2 s c ⟨true, false, false⟩ a with
      | .error f => .error f
      | .ok l => .ok (l.base + a % l.size)
    walkPath s tr second va 4 root

/-- What a translation leaves behind: a miss is counted and, where neither cache holds the page and no walk of it is
under way, a walk is queued (R41, R110). -/
def noteTranslation (s : State) (tile pasid : Nat) (ctx : Option Nat) (va : Nat) : State :=
  let t := KMap.getD s.tiles tile Tile.reset
  let die := tile / 144
  match findEntry t.tlb pasid ctx va with
  | some _ => s
  | none =>
    let u := bumpCounter s die 3 1
    match findEntry (s.die die).l2 pasid ctx va with
    | some e => { u with tiles := KMap.set u.tiles tile { t with tlb := cacheAdd 64 t.tlb e } }
    | none =>
      if !mustWalk s tile pasid ctx va then u
      else
        let u := bumpCounter u die 4 1
        let d := u.die die
        u.setDie die { d with walks := d.walks ++ [⟨tile, pasid, ctx, va⟩] }

/-- Counts line requests of a tile at home controllers (R44). -/
def countLines (s : State) (tile pa lines : Nat) : State :=
  bumpCounter s (tile / 144) (if homeDie s pa = tile / 144 then 0 else 1) lines

end Sys2Proof.Machine
end

