-- ==== Sys2Proof/Machine/Lightway.lean ====
section
/-! DEFINITION. The lightway die: the connection table and the paths between dies (R12, R346 to R348). -/

namespace Sys2Proof.Machine

/-- The ordered pairs of some dies, ascending. -/
def orderedPairs (ds : List Nat) : List (Nat × Nat) := ds.flatMap fun a => (ds.filter (· != a)).map fun b => (a, b)

/-- An assigned circuit of a pair, lit. -/
def Circuit.ofPair (p : Nat × Nat) : Circuit := ⟨BitVec.ofNat 2 p.1, BitVec.ofNat 2 p.2, true, 1⟩

/-- An entry of the connection table as boot sets it: circuits 0 to 11 one for each ordered pair of dies, the spares, and
equal shares of the data circuits for the pairs of the dies that survived boot; the order of the pairs is assumption 24. -/
def bootCircuit (s : State) (n : Nat) : Circuit :=
  if n < 16 then Circuit.ofPair ((orderedPairs [0, 1, 2, 3]).getD n (0, 0))
  else
    let ps := orderedPairs s.lightway.dies
    Circuit.ofPair (ps.getD ((n - 16) * ps.length / 1008) (0, 0))

/-- The entry of a circuit as it reads. -/
def State.circuit (s : State) (n : Nat) : Circuit :=
  match KMap.get? s.lightway.retuning n with
  | some c => { c with state := 3 }
  | none => KMap.getD s.lightway.circuits n (bootCircuit s n)

/-- The 32 bits of an entry (R347). -/
def State.circuitWord (s : State) (n : Nat) : BitVec 32 :=
  let c := s.circuit n
  BitVec.ofNat 32 (c.src.toNat + 4 * c.dst.toNat + (if c.valid then 16 else 0) + 32 * c.state.toNat + if n < 16 then 128 else 0)

/-- An entry with the fields of a word that may be written: those of the dies only from circuit 16 on (R347). -/
def Circuit.written (c : Circuit) (n : Nat) (v : BitVec 32) : Circuit :=
  { c with
    src := if n < 16 then c.src else v.extractLsb' 0 2, dst := if n < 16 then c.dst else v.extractLsb' 2 2
    valid := v.getLsbD 4 }

def State.onLightway (s : State) (f : Lightway → Lightway) : State := { s with lightway := f s.lightway }

/-- An ordered pair of dies has a lit data circuit. -/
def State.pairLit (s : State) (a b : Nat) : Bool :=
  (s.lightway.circuits.isEmpty && s.lightway.retuning.isEmpty) ||
    (List.range 1008).any fun i =>
      let c := s.circuit (16 + i)
      c.valid && c.state == 1 && c.src.toNat == a && c.dst.toNat == b

/-- Traffic of two dies passes both ways; otherwise an access over the path waits (R348). -/
def State.joined (s : State) (a b : Nat) : Bool := a == b || (s.pairLit a b && s.pairLit b a)

/-- An access of a tile to far memory of this package finds its path (R35, R348). -/
def State.reaches (s : State) (tile pa : Nat) : Bool := s.joined (tile / 144) (homeDie s pa)

/-- The pairs of surviving dies without a lit data circuit. -/
def State.darkPairs (s : State) : List (Nat × Nat) := (orderedPairs (survivors s)).filter fun p => !s.pairLit p.1 p.2

/-- Some pair of surviving dies has no lit data circuit. -/
def State.dark (s : State) : Bool := !s.darkPairs.isEmpty

/-- A walk of a die's would read a table that no lit circuit leads to (R9, R12, R348). -/
def State.walkCut (s : State) (tile pasid : Nat) (ctx : Option Nat) (va : Nat) : Bool :=
  s.dark && (walkReads s pasid ctx va).any fun pa => !s.reaches tile pa

/-- A miss finds the die's walk queue full, or its walk no path to a table, and its tile stalls (R41, R348). -/
def walkStalls (s : State) (tile pasid : Nat) (ctx : Option Nat) (va : Nat) : Bool :=
  (decide (256 ≤ (s.die (tile / 144)).queued.length) || s.walkCut tile pasid ctx va) && mustWalk s tile pasid ctx va

/-! ### Changes at a barrier (R12, R347, R348) -/

/-- A circuit's change begins: its entry reads 11 until it has retuned. -/
def Lightway.retune (l : Lightway) (n : Nat) (c : Circuit) : Lightway := { l with retuning := KMap.set l.retuning n c }

/-- The writes that waited for a barrier take effect (R12, R347); the spec's barrier of every corridor at once is taken as the
instant at which every stage of every running corridor stands at one (assumption 86). -/
def State.changeCircuits (s : State) : State :=
  s.onLightway fun l => l.pending.foldl (fun l p => l.retune p.1 p.2) { l with pending := [] }

/-- The circuits of dies that are fenced go to the surviving pairs in turn, beginning at the barrier (R348). -/
def State.reassign (s : State) : State :=
  let up := survivors s
  let ps := orderedPairs up
  let gone (c : Circuit) : Bool := !(up.contains c.src.toNat && up.contains c.dst.toNat)
  let s' := (List.range 1008).foldl (fun t i =>
    let n := 16 + i
    let c := s.circuit n
    if gone c && c.state != 2 && !ps.isEmpty then t.onLightway fun l => l.retune n (Circuit.ofPair (ps.getD (n % ps.length) (0, 0)))
    else t) s
  s'.onLightway fun l => { l with awaited := none }

/-- A corridor has passed a barrier: the fenced dies' circuits change once every corridor that was there has (R348). -/
def State.passBarrier (s : State) (c : Nat) (running : Nat → Bool) : State :=
  match s.lightway.awaited with
  | none => s
  | some l =>
    let l := l.filter fun d => d != c && running d
    if l.isEmpty then s.reassign else s.onLightway fun w => { w with awaited := some l }

/-- A die has been fenced: its circuits change once each of some corridors has passed a barrier (R348). -/
def State.awaitBarriers (s : State) (cs : List Nat) : State :=
  if cs.isEmpty then s.reassign else s.onLightway fun w => { w with awaited := some (cs ++ (w.awaited.getD []).filter fun c => !cs.contains c) }

/-- A lit data circuit that its pair can spare, since another one of the pair is lit too.  Which circuit the depot takes for a pair
in the dark the spec leaves to it: the model takes the lowest (assumption 94). -/
def State.spareable (s : State) : Option Nat :=
  let lit := ((List.range 1008).map (16 + ·)).filter fun n =>
    (s.circuit n).valid && (s.circuit n).state == 1 && (KMap.get? s.lightway.pending n).isNone
  lit.find? fun n => lit.any fun m => m != n && (s.circuit m).src == (s.circuit n).src && (s.circuit m).dst == (s.circuit n).dst

/-- A circuit retunes for a pair, or waits for a barrier to do so. -/
def Lightway.promised (l : Lightway) (p : Nat × Nat) : Bool :=
  (l.retuning ++ l.pending).any fun r => r.2.valid && decide (r.2.src.toNat = p.1 ∧ r.2.dst.toNat = p.2)

/-- Every pair in the dark gets a lit circuit of a pair that keeps others, a change that waits for a barrier; none where there is no
such circuit (R12, R332, R348). -/
def State.reroute (s : State) : Option State :=
  s.darkPairs.foldl (fun acc p => acc.bind fun t =>
    if t.lightway.promised p then some t
    else t.spareable.map fun n => t.onLightway fun l => { l with pending := KMap.set l.pending n (Circuit.ofPair p) }) (some s)

/-- A circuit is requested for each dark pair of some dies; the change waits for a barrier (R12, R340). -/
def State.requestCircuits (s : State) (dies : List Nat) : State :=
  (s.darkPairs.filter fun p => dies.contains p.1 && dies.contains p.2).foldl (fun t p =>
    match t.spareable with
    | some n => t.onLightway fun l => { l with pending := KMap.set l.pending n (Circuit.ofPair p) }
    | none => t) s

/-- A path is being retrained or retuned. -/
def State.retraining (s : State) : Bool :=
  !s.lightway.retuning.isEmpty || s.fabric.ports.any fun p => p.2.retraining

end Sys2Proof.Machine
end

