-- ==== Sys2Proof/WellFormed.lean ====
section
/-! DEFINITION. The checks on an instruction's operands that its encoding must pass (order 5 of R147): type codes,
register numbers, immediate ranges, operation codes.  An event of the device has no encoding and is never well-formed as
an instruction word. -/

namespace Sys2Proof

/-- What makes an instruction ill-formed. -/
inductive IllFormed where
  /-- A type code the instruction does not accept (R154, R199, R208). -/
  | elementType
  /-- An immediate outside the range of its format, or of its instruction (R140, R228). -/
  | immediate
  /-- A register number outside its file or its group rule (R139, R167, R228). -/
  | register
  /-- A lineage operand of 17 to 31 (R245). -/
  | lineage
  /-- An operation code that names no operation (R166, R281). -/
  | operation
  /-- `b.al` with a register or with n = 1 (R153). -/
  | branchForm
  /-- Kind 11 of `fence` (R150). -/
  | fenceKind
  /-- A post-increment whose base is also the destination (R151). -/
  | postIncrement
  /-- An event of the device, which no word encodes. -/
  | event
  deriving DecidableEq, Repr

namespace WellFormed

/-- `none` when the condition holds, else the named breach. -/
def need (c : Bool) (e : IllFormed) : Option IllFormed := if c then none else some e

/-- A type code that R154 lists for aux5. -/
def anyType (t : BitVec 5) : Bool := t.toNat ≤ 11 || (16 ≤ t.toNat && t.toNat ≤ 22) || (24 ≤ t.toNat && t.toNat ≤ 30)

/-- Codes 0 to 11: the integers and bf16, f16, f32, f64. -/
def laneType (t : BitVec 5) : Bool := t.toNat ≤ 11

/-- Codes 0 to 7: the integers. -/
def intType (t : BitVec 5) : Bool := t.toNat ≤ 7

/-- Codes 8 to 11: bf16, f16, f32, f64. -/
def floatType (t : BitVec 5) : Bool := 8 ≤ t.toNat && t.toNat ≤ 11

/-- The 8-bit types of `vdot4`. -/
def dot4Type (t : BitVec 5) : Bool :=
  t.toNat ≤ 1 || (16 ≤ t.toNat && t.toNat ≤ 22) || (24 ≤ t.toNat && t.toNat ≤ 30)

/-- The 16-bit types of `vdot2`. -/
def dot2Type (t : BitVec 5) : Bool := t.toNat = 2 || t.toNat = 3 || t.toNat = 8 || t.toNat = 9

/-- The types of `vsf` and `vsf.fast`. -/
def sfType (t : BitVec 5) : Bool := 8 ≤ t.toNat && t.toNat ≤ 10

/-- A signed value of n bits. -/
def signed (n : Nat) (v : Int) : Bool := decide (-(2 ^ (n - 1) : Int) ≤ v ∧ v < (2 ^ (n - 1) : Int))

/-- An RI immediate: up to 9·3 + 5 bits (R140). -/
def riImm (v : Int) : Option IllFormed := need (signed 32 v) .immediate

/-- A shift amount (R140). -/
def shiftImm (v : Int) : Option IllFormed := need (decide (0 ≤ v ∧ v ≤ 63)) .immediate

/-- An LI immediate: up to 9·3 + 8 bits. -/
def liImm (v : Int) : Option IllFormed := need (signed 35 v) .immediate

/-- An LD offset: up to 27 bits. -/
def ldImm (v : Int) : Option IllFormed := need (signed 27 v) .immediate

/-- An SM offset: up to 32 bits, 0 to 31 without pfx.i. -/
def smImm (v : Int) : Option IllFormed := need (signed 32 v) .immediate

/-- A lease count (R228). -/
def leaseImm (v : Int) : Option IllFormed := need (decide (1 ≤ v ∧ v ≤ 64)) .immediate

/-- The first breach of two checks. -/
def both (a b : Option IllFormed) : Option IllFormed :=
  match a with
  | some e => some e
  | none => b

/-- A load into a scalar register whose base is post-incremented may not name its base (R151). -/
def ldScalar (o : LdOp) : Option IllFormed := both (ldImm o.off) (need (!(o.inc && o.d == o.a)) .postIncrement)

/-- A lineage operand (R245). -/
def lin (l : BitVec 5) : Option IllFormed := need (decide (l.toNat ≤ 16)) .lineage

/-- An atomic operation code (R166). -/
def atomicOp (op : BitVec 5) : Option IllFormed := need (decide (op.toNat ≤ 9)) .operation

/-- `amoi`: the operation, and the even register pair of a cas (R167). -/
def amoi (o : R3) (op : BitVec 5) : Option IllFormed :=
  both (atomicOp op) (need (!(op == 9 && o.b.toNat % 2 == 1)) .register)

/-- A reduction operation of the barrier (R281). -/
def barOp (op : BitVec 5) : Option IllFormed := need (decide (op.toNat ≤ 4)) .operation

/-- A slot handle register: not s0 (R228). -/
def handle (h : Reg) : Option IllFormed := need (decide (h ≠ 0)) .register

/-- A descriptor pair s[n], s[n+1] (R228). -/
def pair (n : Reg) : Option IllFormed := need (decide (n.toNat ≤ 30)) .register

/-- An operand of `mmma`: a group number below 8 or a descriptor pair (R228). -/
def mmOperand (group : Bool) (n : Reg) : Option IllFormed :=
  if group then need (decide (n.toNat ≤ 7)) .register else pair n

/-- `fcvt` codes: unequal, and at most one of them an integer type (R199). -/
def fcvtCodes (o : CvtOp) : Bool := o.src ≠ o.dst && (decide (o.src.toNat < 2) || decide (o.dst.toNat < 2))

/-- The first check an instruction's operands fail. -/
def check : Instr → Option IllFormed
  | .add _ _ | .sub _ _ | .mul _ _ | .mulh _ _ | .and_ _ | .or_ _ | .xor_ _ | .andn _ | .shl _ | .shr _ | .sra _ | .rol _
  | .slt _ | .sltu _ | .seq _ | .sne _ | .min _ _ | .max _ _ | .minu _ _ | .maxu _ _ => none
  | .addi o _ => riImm o.imm
  | .andi o | .ori o | .xori o => riImm o.imm
  | .shli o | .shri o | .srai o => shiftImm o.imm
  | .li o | .lih o => liImm o.imm
  | .ldB o | .ldH o | .ldW o | .ldD o | .ldBs o | .ldHs o | .ldWs o => ldScalar o
  | .stB o | .stH o | .stW o | .stD o => smImm o.off
  | .b o => both (need (signed 31 o.off) .immediate) (need (!(o.cc == 6 && (o.a != 0 || o.n))) .branchForm)
  | .j off | .call off => need (signed 37 off) .immediate
  | .jr _ | .callr _ | .ret | .rep _ => none
  | .div _ | .divu _ | .rem _ | .remu _ | .clz _ | .ctz _ | .pop _ | .brev _ | .bfx _ _ | .bfxs _ _ | .bfi _ _
  | .sel _ _ | .selz _ _ => none
  | .faddF32 _ _ | .fsubF32 _ _ | .fmulF32 _ _ | .fdivF32 _ _ | .faddF64 _ _ | .fsubF64 _ _ | .fmulF64 _ _
  | .fdivF64 _ _ | .fmaF32 _ _ _ | .fmsF32 _ _ _ | .fnmaF32 _ _ _ | .fnmsF32 _ _ _ | .fmaF64 _ _ _ | .fmsF64 _ _ _
  | .fnmaF64 _ _ _ | .fnmsF64 _ _ _ | .fminF32 _ _ | .fmaxF32 _ _ | .fminF64 _ _ | .fmaxF64 _ _ | .fsqrtF32 _ _
  | .fsqrtF64 _ _ | .feqF32 _ | .fltF32 _ | .fleF32 _ | .funoF32 _ | .feqF64 _ | .fltF64 _ | .fleF64 _ | .funoF64 _ =>
    none
  | .fcvt o _ => need (fcvtCodes o) .elementType
  | .ldaW _ op | .ldaD _ op => atomicOp op
  | .vadd o _ | .vsub o _ | .vmul o _ | .vfma o _ | .vfms o _ | .vfnma o _ | .vfnms o _ | .vmin o _ | .vmax o _
  | .vabd o _ | .vavg o _ => need (laneType o.t) .elementType
  | .vmulh o _ | .vand o | .vor o | .vxor o | .vandn o | .vshl o | .vshr o | .vsra o | .vrol o | .vidx o =>
    need (intType o.t) .elementType
  | .vcmpEq o | .vcmpLt o | .vcmpLe o | .vcmpNe o => need (laneType o.t) .elementType
  | .vsel o | .vgat o | .vsct o | .vins o | .vperm o | .vzip o | .vuzp o | .vrot o => need (anyType o.t) .elementType
  | .vcvt o _ => need (anyType o.src && anyType o.dst && o.src ≠ o.dst) .elementType
  | .vredAdd o _ | .vredMin o _ | .vredMax o _ => need (laneType o.t) .elementType
  | .vredAddo o _ => need (floatType o.t) .elementType
  | .vdot4 o _ => need (dot4Type o.t) .elementType
  | .vdot2 o _ => need (dot2Type o.t) .elementType
  | .vld o _ => ldImm o.off
  | .vst o _ => smImm o.off
  | .vbc o => need (anyType o.t) .elementType
  | .vext _ t => need (anyType t) .elementType
  | .vsf o _ _ | .vsfFast o _ _ => need (sfType o.t) .elementType
  | .vrng _ _ | .vrngF _ _ | .gaddr _ _ | .gowner _ _ => none
  | .mlease n | .mtry _ n => leaseImm n
  | .mrel => none
  | .mmma o => both (handle o.h) (both (mmOperand (o.fn.getLsbD 0) o.a) (mmOperand (o.fn.getLsbD 1) o.b))
  | .ast h a | .astAdd h a | .ald h a => both (handle h) (pair a)
  | .azero h | .arel h => handle h
  | .mwait _ => none
  | .dld o => both (ldImm o.off) (lin o.lin)
  | .dst o => smImm o.off
  | .dpt _ _ _ l | .dpte _ _ _ l | .dpm _ _ _ _ l | .dtgw _ _ _ l => lin l
  | .dadd _ | .dsub _ | .dmul _ | .ddiv _ | .dmin _ | .dmax _ | .dmix _ | .dscl _ _ _ _ | .dsht _ _ _ _
  | .dmom _ _ _ _ | .dqnt _ _ _ _ | .dcdf _ _ _ _ | .dtgr _ _ | .dmov _ _ _ => none
  | .qcfg _ | .qres _ | .qstg _ _ | .qtm _ _ _ | .qfin _ _ _ | .qdec _ _ _ | .qst _ _ | .qset _ => none
  | .ldfW o | .ldfD o => ldScalar o
  | .vldf o => ldImm o.off
  | .stfW o | .stfD o | .vstf o => smImm o.off
  | .accF32 _ _ | .accF64 _ _ | .accI64 _ _ | .accV16 _ _ => none
  | .amoiW o op | .amoiD o op => amoi o op
  | .cpush a | .cpushTry _ a => need (decide (a.toNat % 4 = 0)) .register
  | .mbw _ | .mbwTo _ _ => none
  | .mbp d | .mbpTry d => need (decide (d.toNat % 2 = 0)) .register
  | .pfl _ _ | .pflClr | .pflN _ _ | .xall _ | .bar => none
  | .barRed _ op | .barEndr _ op => barOp op
  | .barEnd | .vote | .bwait _ _ => none
  | .fence _ k => need (decide (k ≠ 3)) .fenceKind
  | .csrr _ _ | .csrw _ _ _ | .csrs _ _ _ | .csrc _ _ _ | .trap _ | .ebrk _ | .yld | .tlbi _ _ | .rfe | .wfe | .ipost _ _ =>
    none
  | .illegalDecode _ | .windowDataLands _ _ | .farReadServe _ _ | .remoteDeltaAccept _ _ _ | .laybyWake _
  | .mbwTimeout _ | .copy _ _ | .bcast _ _ | .send _ _ | .fill _ _ | .digest _ _ | .exchange _ _
  | .commandComplete _ _ | .mailboxPost _ | .stagerUnitFetch _ _ _ _ | .stagedUnitLands _ _ _ _
  | .stagedCopyForward _ _ _ | .leaseGrant _ | .slotAllocate _ | .matrixCommandRun _ | .matrixCommandDone _
  | .arrival _ | .quiesce _ _ | .linkTimeout _ _ | .strikeHorizon _ _ | .junctionVote _ _ | .junctionDecision _ _ _
  | .commitDrain _ _ _ | .farDrainEntry _ _ | .commitFarComplete _ _ | .heldOpRelease _ | .atomicExecute _
  | .amoiResult _ | .crossStageDelivery _ | .resultAreaWrite _ _ | .corridorCompletion _ | .earlyAbort _ _
  | .rollback _ _ _ | .causeService _ _ | .strikeReport _ _ | .sensorSelfTest _ _ _ | .eccError _ _ | .parityError _
  | .lineRetire _ | .suspicionDecay | .tileWithdraw _ | .targetedTest _ _ | .ageingMonitorRead _ _ _ _
  | .clockStepApply _ _ | .clockStepTimeout _ _ | .modulePowerEvent _ | .coreCurrentEvent _ _ | .thermalEvent _ _ _
  | .boot _ | .depotException _ _ _ | .dtmExpire _ | .doorbell _ _ | .queueMap | .queueSlotTimeout _ | .launch _
  | .preempt _ | .resume _ | .launchPlace _ | .sliceExpiry _ | .drainTimeout _ | .immediatePreempt _ | .kill _
  | .swapOut _ | .corridorResume _ _ | .migration _ _ | .hostHaltRequest _ | .debugStateWrite _ _ | .singleStep _
  | .debugResume _ | .invalidationService _ | .walkComplete _ | .connectionTableWrite _ _ | .circuitLockLoss _
  | .flitReceive _ _ | .laneFailure _ _ | .retrainComplete _ | .fabricRequest _ | .fabricReply _
  | .fabricAttemptTimeout _ _ | .busyRetry _ _ | .tagQuarantineEnd _ _ | .duplicateEntryExpire _ _ _
  | .ueInboundMessage _ _ | .ueMessageDone _ _ | .bar2Access _ | .functionLevelReset _ | .pf0LinkReset
  | .atsInvalidation _ _ | .pageRequestResponse _ _ | .pageRequestTimeout _ | .frResp _ _ _ | .frTimeout _ _
  | .oflReq _ | .dieOffline _ | .rmpAck _ | .rmpTimeout _ | .registerWrite _ _ _ | .retuningComplete _
  | .flashLayerWrite _ _ | .replicaDigestRequest _ _ | .dieControllerFailure _ => some .event

/-- An instruction that a chain of words can encode. -/
def wf (i : Instr) : Bool := (check i).isNone

end WellFormed

end Sys2Proof
end

