-- ==== Sys2Proof/Decode.lean ====
section
/-! DEFINITION. Chains of 16-bit words (R137 to R154): the decoder, which rejects by name, and the encoder written from
the same tables. -/

namespace Sys2Proof

/-- Why a word sequence is no instruction (R147 orders 1 to 5), or that the words end before a base word (R137). -/
inductive Reject where
  | truncated | prefixRun | page | op | prefixRefused | reserved | operand (e : IllFormed)
  deriving DecidableEq, Repr

/-- A chain taken apart (R137, R141): the page and aux5 of pfx.p, the payload of pfx.r and of pfx.x, the number and the
joined payloads of the pfx.i words, and the base word. -/
structure Chain where
  page : BitVec 4
  aux : BitVec 5
  hasP : Bool
  hasR : Bool
  hi : BitVec 9
  hasX : Bool
  mod : BitVec 9
  ik : Nat
  iv : Nat
  twice : Bool
  base : Half
  deriving DecidableEq, Repr

namespace Chain

/-- No prefix seen yet. -/
def empty : Chain := ⟨0, 0, false, false, 0, false, 0, 0, 0, false, 0⟩

/-- Takes in one prefix word (R141, R142). -/
def takePrefix (c : Chain) (w : Half) : Chain :=
  let pay := w.extractLsb' 0 9
  match (w.extractLsb' 9 2).toNat with
  | 0 => { c with hasR := true, hi := pay, twice := c.twice || c.hasR }
  | 1 => { c with ik := c.ik + 1, iv := c.iv * 512 + pay.toNat, twice := c.twice || c.ik ≥ 3 }
  | 2 => { c with hasP := true, page := pay.extractLsb' 5 4, aux := pay.extractLsb' 0 5, twice := c.twice || c.hasP }
  | _ => { c with hasX := true, mod := pay, twice := c.twice || c.hasX }

/-- A word with bits [15:11] = 0b11111 is a prefix word (R137). -/
def isPrefix (w : Half) : Bool := w.extractLsb' 11 5 == 31

/-- Gathers the words up to the base word; `n` prefix words have been taken (R142). -/
def gather (n : Nat) (c : Chain) : List Half → Except Reject (Chain × Nat)
  | [] => .error .truncated
  | w :: ws =>
    if isPrefix w then
      if n = 4 then .error .prefixRun else gather (n + 1) (c.takePrefix w) ws
    else if c.twice then .error .prefixRun
    else .ok ({ c with base := w }, n + 1)

/-- The op field. -/
def op (c : Chain) : Nat := (c.base.extractLsb' 11 5).toNat

/-- The fn field of an RRR word. -/
def fn (c : Chain) : BitVec 2 := c.base.extractLsb' 0 2

/-- The register field at [10:8] with its high bits (R139). -/
def r1 (c : Chain) : Reg := c.hi.extractLsb' 7 2 ++ c.base.extractLsb' 8 3

/-- The register field at [7:5] with its high bits. -/
def r2 (c : Chain) : Reg := c.hi.extractLsb' 5 2 ++ c.base.extractLsb' 5 3

/-- The register field at [4:2] with its high bits. -/
def r3 (c : Chain) : Reg := c.hi.extractLsb' 3 2 ++ c.base.extractLsb' 2 3

/-- The mask predicate (R146). -/
def mask (c : Chain) : BitVec 3 := c.hi.extractLsb' 0 3

/-- The modifiers (R141). -/
def mods (c : Chain) : Mod :=
  ⟨c.mod.getLsbD 8, c.mod.getLsbD 7, c.mod.getLsbD 6, c.mod.getLsbD 5, c.mod.extractLsb' 0 5⟩

/-- The three registers of an RRR word. -/
def regs (c : Chain) : R3 := ⟨c.r1, c.r2, c.r3⟩

end Chain

/-- Sign-extends the n low bits of u. -/
def sextNat (n u : Nat) : Int := if u < 2 ^ (n - 1) then u else (u : Int) - 2 ^ n

/-- The immediate of a base field of w bits (R140); `z`: without pfx.i the field is zero-extended. -/
def Chain.imm (c : Chain) (w : Nat) (z : Bool) : Int :=
  let u := c.iv * 2 ^ w + c.base.toNat % 2 ^ w
  if c.ik = 0 && z then u else sextNat (9 * c.ik + w) u

/-- What a page's table makes of a chain. -/
abbrev Built := Except Reject Instr

/-- Goes on when the condition holds. -/
def ensure (b : Bool) (e : Reject) (k : Built) : Built := if b then k else .error e

/-- The prefix words and fields an op accepts (R143, R144, R146): pfx.r, pfx.i, pfx.x, a mask, aux5. -/
structure Takes where
  r : Bool := true
  i : Bool := false
  x : Bool := false
  m : Bool := false
  aux : Bool := false

/-- Refuses what the op does not accept, in the order of R147. -/
def Chain.gate (c : Chain) (t : Takes) (k : Built) : Built :=
  ensure ((t.r || !c.hasR) && (t.i || c.ik == 0) && (t.x || !c.hasX)) .prefixRefused
    (ensure ((t.m || c.mask == 0) && (t.aux || c.aux == 0)) .reserved k)

/-- A field marked 0: the full register number is 0. -/
def zero (r : Reg) (k : Built) : Built := ensure (r == 0) .reserved k

/-- The high bits of a position without a register field must be zero (R139). -/
def noHigh (r : BitVec 2) (k : Built) : Built := ensure (r == 0) .reserved k

/-- The high bits of the three positions. -/
def Chain.h1 (c : Chain) : BitVec 2 := c.hi.extractLsb' 7 2
def Chain.h2 (c : Chain) : BitVec 2 := c.hi.extractLsb' 5 2
def Chain.h3 (c : Chain) : BitVec 2 := c.hi.extractLsb' 3 2

/-- A distribution register number. -/
def dreg (r : Reg) (k : BitVec 4 → Built) : Built :=
  ensure (r.toNat < 16) (.operand .register) (k (r.extractLsb' 0 4))

/-- A predicate register, stage index, function or group number: 0 to 7. -/
def low8 (r : Reg) (k : BitVec 3 → Built) : Built :=
  ensure (r.toNat < 8) (.operand .register) (k (r.extractLsb' 0 3))

/-- An fn value that the map marks with a dot (R149). -/
def dot : Built := .error .op

/-- Selects by the fn field. -/
def Chain.pick (c : Chain) (a b d e : Built) : Built :=
  match c.fn.toNat with
  | 0 => a
  | 1 => b
  | 2 => d
  | _ => e

/-- The CSR number aux5 ∥ rb (R107). -/
def Chain.csr (c : Chain) : BitVec 8 := c.aux ++ c.base.extractLsb' 2 3

/-- The fn11 field of an S word. -/
def Chain.fn11 (c : Chain) : BitVec 11 := c.base.extractLsb' 0 11

/-- An RI word. -/
def Chain.ri (c : Chain) (z : Bool) (k : RI → Built) : Built := noHigh c.h3 (k ⟨c.r1, c.r2, c.imm 5 z⟩)

/-- An LD word (R151). -/
def Chain.ld (c : Chain) (k : LdOp → Built) : Built :=
  noHigh c.h3 (k ⟨c.r1, c.r2, c.imm 0 false, c.base.extractLsb' 1 4, c.base.getLsbD 0⟩)

/-- An SM word (R152). -/
def Chain.sm (c : Chain) (k : StOp → Built) : Built := noHigh c.h3 (k ⟨c.r1, c.r2, c.imm 5 true⟩)

/-- A two-source vector word. -/
def Chain.v3 (c : Chain) : V3 := ⟨c.r1, c.r2, c.r3, c.mask, c.aux⟩

/-- A one-source vector word. -/
def Chain.v2 (c : Chain) : V2 := ⟨c.r1, c.r2, c.mask, c.aux⟩

/-- A vector compare (R212). -/
def Chain.vcmp (c : Chain) (k : VCmp → Instr) : Built :=
  low8 c.r1 fun d => .ok (k ⟨d, c.r2, c.r3, c.mask, c.aux⟩)

/-- A two-source distribution word (R246). -/
def Chain.d3 (c : Chain) (k : D3 → Instr) : Built :=
  dreg c.r1 fun d => dreg c.r2 fun a => dreg c.r3 fun b => .ok (k ⟨d, a, b, c.mask⟩)

/-- Page 0 (R149). -/
def Chain.page0 (c : Chain) : Built :=
  match c.op with
  | 0 => c.gate { x := true } (c.pick (.ok (.add c.regs c.mods)) (.ok (.sub c.regs c.mods)) (.ok (.mul c.regs c.mods))
      (.ok (.mulh c.regs c.mods)))
  | 1 => c.gate {} (c.pick (.ok (.and_ c.regs)) (.ok (.or_ c.regs)) (.ok (.xor_ c.regs)) (.ok (.andn c.regs)))
  | 2 => c.gate {} (c.pick (.ok (.shl c.regs)) (.ok (.shr c.regs)) (.ok (.sra c.regs)) (.ok (.rol c.regs)))
  | 3 => c.gate {} (c.pick (.ok (.slt c.regs)) (.ok (.sltu c.regs)) (.ok (.seq c.regs)) (.ok (.sne c.regs)))
  | 4 => c.gate { x := true } (c.pick (.ok (.min c.regs c.mods)) (.ok (.max c.regs c.mods))
      (.ok (.minu c.regs c.mods)) (.ok (.maxu c.regs c.mods)))
  | 5 => c.gate { i := true, x := true } (c.ri false fun o => .ok (.addi o c.mods))
  | 6 => c.gate { i := true } (c.ri false fun o => .ok (.andi o))
  | 7 => c.gate { i := true } (c.ri false fun o => .ok (.ori o))
  | 8 => c.gate { i := true } (c.ri false fun o => .ok (.xori o))
  | 9 => c.gate { i := true } (c.ri true fun o => .ok (.shli o))
  | 10 => c.gate { i := true } (c.ri true fun o => .ok (.shri o))
  | 11 => c.gate { i := true } (c.ri true fun o => .ok (.srai o))
  | 12 => c.gate { i := true } (noHigh c.h2 (noHigh c.h3 (.ok (.li ⟨c.r1, c.imm 8 false⟩))))
  | 13 => c.gate { i := true } (noHigh c.h2 (noHigh c.h3 (.ok (.lih ⟨c.r1, c.imm 8 false⟩))))
  | 14 => c.gate { i := true } (c.ld fun o => .ok (.ldB o))
  | 15 => c.gate { i := true } (c.ld fun o => .ok (.ldH o))
  | 16 => c.gate { i := true } (c.ld fun o => .ok (.ldW o))
  | 17 => c.gate { i := true } (c.ld fun o => .ok (.ldD o))
  | 18 => c.gate { i := true } (c.ld fun o => .ok (.ldBs o))
  | 19 => c.gate { i := true } (c.ld fun o => .ok (.ldHs o))
  | 20 => c.gate { i := true } (c.ld fun o => .ok (.ldWs o))
  | 21 => c.gate { i := true } (c.sm fun o => .ok (.stB o))
  | 22 => c.gate { i := true } (c.sm fun o => .ok (.stH o))
  | 23 => c.gate { i := true } (c.sm fun o => .ok (.stW o))
  | 24 => c.gate { i := true } (c.sm fun o => .ok (.stD o))
  | 25 => c.gate { i := true } (noHigh c.h2 (noHigh c.h3 (.ok (.b ⟨c.r1, c.base.extractLsb' 5 3, c.base.getLsbD 4,
      c.imm 4 false⟩))))
  | 26 => c.gate { r := false, i := true }
      (if c.base.getLsbD 10 then .ok (.call (c.imm 10 false)) else .ok (.j (c.imm 10 false)))
  | 27 => c.gate {} (c.pick (zero c.r1 (zero c.r3 (.ok (.jr c.r2)))) (zero c.r1 (zero c.r3 (.ok (.callr c.r2))))
      (zero c.r1 (zero c.r2 (zero c.r3 (.ok .ret)))) dot)
  | 28 => c.gate { r := false } (.ok (.rep ⟨c.base.extractLsb' 8 3, c.base.extractLsb' 5 3, c.base.extractLsb' 2 3,
      c.base.extractLsb' 0 2⟩))
  | _ => .error .op

/-- Page 1 (R149). -/
def Chain.page1 (c : Chain) : Built :=
  match c.op with
  | 0 => c.gate {} (c.pick (.ok (.div c.regs)) (.ok (.divu c.regs)) (.ok (.rem c.regs)) (.ok (.remu c.regs)))
  | 1 => c.gate {} (zero c.r3 (c.pick (.ok (.clz ⟨c.r1, c.r2⟩)) (.ok (.ctz ⟨c.r1, c.r2⟩)) (.ok (.pop ⟨c.r1, c.r2⟩))
      (.ok (.brev ⟨c.r1, c.r2⟩))))
  | 2 => c.gate { aux := true } (c.pick (.ok (.bfx c.regs c.aux)) (.ok (.bfxs c.regs c.aux)) (.ok (.bfi c.regs c.aux))
      dot)
  | 3 => c.gate { aux := true } (c.pick (.ok (.sel c.regs c.aux)) (.ok (.selz c.regs c.aux)) dot dot)
  | 4 => c.gate { x := true } (c.pick (.ok (.faddF32 c.regs c.mods)) (.ok (.fsubF32 c.regs c.mods))
      (.ok (.fmulF32 c.regs c.mods)) (.ok (.fdivF32 c.regs c.mods)))
  | 5 => c.gate { x := true } (c.pick (.ok (.faddF64 c.regs c.mods)) (.ok (.fsubF64 c.regs c.mods))
      (.ok (.fmulF64 c.regs c.mods)) (.ok (.fdivF64 c.regs c.mods)))
  | 6 => c.gate { x := true, aux := true } (c.pick (.ok (.fmaF32 c.regs c.aux c.mods))
      (.ok (.fmsF32 c.regs c.aux c.mods)) (.ok (.fnmaF32 c.regs c.aux c.mods)) (.ok (.fnmsF32 c.regs c.aux c.mods)))
  | 7 => c.gate { x := true, aux := true } (c.pick (.ok (.fmaF64 c.regs c.aux c.mods))
      (.ok (.fmsF64 c.regs c.aux c.mods)) (.ok (.fnmaF64 c.regs c.aux c.mods)) (.ok (.fnmsF64 c.regs c.aux c.mods)))
  | 8 => c.gate { x := true } (c.pick (.ok (.fminF32 c.regs c.mods)) (.ok (.fmaxF32 c.regs c.mods))
      (.ok (.fminF64 c.regs c.mods)) (.ok (.fmaxF64 c.regs c.mods)))
  | 9 => c.gate { x := true } (zero c.r3 (c.pick (.ok (.fsqrtF32 ⟨c.r1, c.r2⟩ c.mods))
      (.ok (.fsqrtF64 ⟨c.r1, c.r2⟩ c.mods)) dot dot))
  | 10 => c.gate {} (c.pick (.ok (.feqF32 c.regs)) (.ok (.fltF32 c.regs)) (.ok (.fleF32 c.regs)) (.ok (.funoF32 c.regs)))
  | 11 => c.gate {} (c.pick (.ok (.feqF64 c.regs)) (.ok (.fltF64 c.regs)) (.ok (.fleF64 c.regs)) (.ok (.funoF64 c.regs)))
  | 12 => c.gate { x := true, aux := true } (zero c.r3 (ensure (!c.aux.getLsbD 0) .reserved
      (.ok (.fcvt ⟨c.r1, c.r2, c.fn, c.aux.extractLsb' 3 2, c.aux.extractLsb' 1 2⟩ c.mods))))
  | 13 => c.gate { aux := true } (c.pick (.ok (.ldaW c.regs c.aux)) (.ok (.ldaD c.regs c.aux)) dot dot)
  | _ => .error .op

/-- Page 2 (R149). -/
def Chain.page2 (c : Chain) : Built :=
  let plain : Takes := { m := true, aux := true }
  let mod : Takes := { x := true, m := true, aux := true }
  match c.op with
  | 0 => c.gate mod (c.pick (.ok (.vadd c.v3 c.mods)) (.ok (.vsub c.v3 c.mods)) (.ok (.vmul c.v3 c.mods))
      (.ok (.vmulh c.v3 c.mods)))
  | 1 => c.gate mod (c.pick (.ok (.vfma c.v3 c.mods)) (.ok (.vfms c.v3 c.mods)) (.ok (.vfnma c.v3 c.mods))
      (.ok (.vfnms c.v3 c.mods)))
  | 2 => c.gate mod (c.pick (.ok (.vmin c.v3 c.mods)) (.ok (.vmax c.v3 c.mods)) (.ok (.vabd c.v3 c.mods))
      (.ok (.vavg c.v3 c.mods)))
  | 3 => c.gate plain (c.pick (.ok (.vand c.v3)) (.ok (.vor c.v3)) (.ok (.vxor c.v3)) (.ok (.vandn c.v3)))
  | 4 => c.gate plain (c.pick (.ok (.vshl c.v3)) (.ok (.vshr c.v3)) (.ok (.vsra c.v3)) (.ok (.vrol c.v3)))
  | 5 => c.gate plain (c.pick (c.vcmp .vcmpEq) (c.vcmp .vcmpLt) (c.vcmp .vcmpLe) (c.vcmp .vcmpNe))
  | 6 => c.gate plain (c.pick (.ok (.vsel c.v3)) dot dot dot)
  | 7 => c.gate mod (noHigh c.h3 (.ok (.vcvt ⟨c.r1, c.r2, c.mask, c.base.extractLsb' 0 5, c.aux⟩ c.mods)))
  | 8 => c.gate mod (zero c.r3 (c.pick (.ok (.vredAdd c.v2 c.mods)) (.ok (.vredMin c.v2 c.mods))
      (.ok (.vredMax c.v2 c.mods)) (.ok (.vredAddo c.v2 c.mods))))
  | 9 => c.gate mod (c.pick (.ok (.vdot4 c.v3 c.mods)) (.ok (.vdot2 c.v3 c.mods)) dot dot)
  | _ => .error .op

/-- Page 3 (R149). -/
def Chain.page3 (c : Chain) : Built :=
  let plain : Takes := { m := true, aux := true }
  match c.op with
  | 0 => c.gate { i := true, m := true } (c.ld fun o => .ok (.vld o c.mask))
  | 1 => c.gate { i := true, m := true } (c.sm fun o => .ok (.vst o c.mask))
  | 2 => c.gate plain (c.pick (.ok (.vgat c.v3)) dot dot dot)
  | 3 => c.gate plain (c.pick (.ok (.vsct c.v3)) dot dot dot)
  | 4 => c.gate plain (c.pick (zero c.r3 (.ok (.vbc c.v2))) (.ok (.vins c.v3))
      (ensure (c.mask == 0) .reserved (.ok (.vext c.regs c.aux))) (.ok (.vidx c.v3)))
  | 5 => c.gate plain (c.pick (.ok (.vperm c.v3)) (.ok (.vzip c.v3)) (.ok (.vuzp c.v3)) (.ok (.vrot c.v3)))
  | 6 => c.gate { x := true, m := true, aux := true } (noHigh c.h3 (c.pick
      (.ok (.vsf c.v2 (c.base.extractLsb' 2 3) c.mods)) (.ok (.vsfFast c.v2 (c.base.extractLsb' 2 3) c.mods)) dot dot))
  | 7 => c.gate { m := true } (c.pick (.ok (.vrng c.regs c.mask)) (.ok (.vrngF c.regs c.mask)) dot dot)
  | 8 => c.gate { aux := true } (zero c.r3 (c.pick (.ok (.gaddr ⟨c.r1, c.r2⟩ c.aux)) (.ok (.gowner ⟨c.r1, c.r2⟩ c.aux))
      dot dot))
  | _ => .error .op

/-- Page 4 (R149, R228). -/
def Chain.page4 (c : Chain) : Built :=
  match c.op with
  | 0 => c.gate { i := true } (c.ri false fun o => zero o.d (zero o.a (.ok (.mlease o.imm))))
  | 1 => c.gate { i := true } (c.ri false fun o => zero o.a (.ok (.mtry o.d o.imm)))
  | 2 => c.gate { r := false } (ensure (c.fn11 == 0) .reserved (.ok .mrel))
  | 3 => c.gate { aux := true } (.ok (.mmma ⟨c.r1, c.r2, c.r3, c.fn, c.aux⟩))
  | 4 => c.gate {} (zero c.r3 (c.pick (.ok (.ast c.r1 c.r2)) (.ok (.astAdd c.r1 c.r2)) dot dot))
  | 5 => c.gate {} (zero c.r3 (c.pick (.ok (.ald c.r1 c.r2)) dot dot dot))
  | 6 => c.gate {} (zero c.r2 (zero c.r3 (c.pick (.ok (.azero c.r1)) (.ok (.arel c.r1)) dot dot)))
  | 7 => c.gate { r := false } (ensure (c.base.extractLsb' 5 6 == 0) .reserved (.ok (.mwait (c.base.extractLsb' 0 5))))
  | _ => .error .op

/-- Page 5 (R149, R246). -/
def Chain.page5 (c : Chain) : Built :=
  match c.op with
  | 0 => c.gate { i := true, m := true, aux := true } (c.ld fun o => dreg c.r1 fun d =>
      .ok (.dld ⟨d, o.a, o.off, o.la, o.inc, c.mask, c.aux⟩))
  | 1 => c.gate { i := true, m := true } (c.sm fun o => dreg c.r1 fun d => .ok (.dst ⟨d, o.a, o.off, c.mask⟩))
  | 2 => c.gate { m := true, aux := true } (dreg c.r1 fun d => c.pick (zero c.r3 (.ok (.dpt d c.r2 c.mask c.aux)))
      (zero c.r3 (low8 c.r2 fun g => .ok (.dpte d g c.mask c.aux))) (.ok (.dpm d c.r2 c.r3 c.mask c.aux)) dot)
  | 3 => c.gate { m := true } (c.pick (c.d3 .dadd) (c.d3 .dsub) (c.d3 .dmul) (c.d3 .ddiv))
  | 4 => c.gate { m := true } (c.pick (c.d3 .dmin) (c.d3 .dmax) (c.d3 .dmix) dot)
  | 5 => c.gate { m := true } (dreg c.r1 fun d => dreg c.r2 fun a => c.pick (.ok (.dscl d a c.r3 c.mask))
      (.ok (.dsht d a c.r3 c.mask)) dot dot)
  | 6 => c.gate { m := true } (zero c.r3 (dreg c.r2 fun a => .ok (.dmom c.r1 a c.fn c.mask)))
  | 7 => c.gate { m := true } (dreg c.r2 fun a => c.pick (.ok (.dqnt c.r1 a c.r3 c.mask))
      (.ok (.dcdf c.r1 a c.r3 c.mask)) dot dot)
  | 8 => c.gate { m := true, aux := true } (zero c.r3 (dreg c.r2 fun a => c.pick
      (ensure (c.mask == 0 && c.aux == 0) .reserved (.ok (.dtgr c.r1 a)))
      (dreg c.r1 fun d => .ok (.dtgw d a c.mask c.aux))
      (ensure (c.aux == 0) .reserved (dreg c.r1 fun d => .ok (.dmov d a c.mask))) dot))
  | _ => .error .op

/-- Page 6 (R149, R268). -/
def Chain.page6 (c : Chain) : Built :=
  match c.op with
  | 0 => c.gate {} (zero c.r1 (zero c.r3 (c.pick (.ok (.qcfg c.r2)) (.ok (.qres c.r2)) dot dot)))
  | 1 => c.gate {} (c.ld fun o => ensure (o.la == 0 && !o.inc) .reserved (low8 c.r1 fun i => .ok (.qstg i o.a)))
  | 2 => c.gate {} (zero c.r3 (.ok (.qtm c.r1 c.r2 c.fn)))
  | 3 => c.gate {} (c.ld fun o => ensure (!o.inc) .reserved (low8 c.r1 fun g => .ok (.qfin g o.a o.la)))
  | 4 => c.gate {} (c.pick (low8 c.r2 fun g => .ok (.qdec c.r1 g c.r3)) dot dot dot)
  | 5 => c.gate {} (zero c.r1 (c.pick (.ok (.qst c.r2 c.r3)) dot dot dot))
  | 6 => c.gate {} (c.pick (.ok (.qset c.regs)) dot dot dot)
  | _ => .error .op

/-- Page 7 (R149, R167). -/
def Chain.page7 (c : Chain) : Built :=
  match c.op with
  | 0 => c.gate { i := true } (c.ld fun o => .ok (.ldfW o))
  | 1 => c.gate { i := true } (c.ld fun o => .ok (.ldfD o))
  | 2 => c.gate { i := true } (c.ld fun o => .ok (.vldf o))
  | 3 => c.gate { i := true } (c.sm fun o => .ok (.stfW o))
  | 4 => c.gate { i := true } (c.sm fun o => .ok (.stfD o))
  | 5 => c.gate { i := true } (c.sm fun o => .ok (.vstf o))
  | 6 => c.gate {} (zero c.r1 (c.pick (.ok (.accF32 c.r2 c.r3)) (.ok (.accF64 c.r2 c.r3)) (.ok (.accI64 c.r2 c.r3))
      (.ok (.accV16 c.r2 c.r3))))
  | 7 => c.gate { aux := true } (c.pick (.ok (.amoiW c.regs c.aux)) (.ok (.amoiD c.regs c.aux)) dot dot)
  | 8 => c.gate {} (zero c.r3 (c.pick (zero c.r1 (.ok (.cpush c.r2))) (.ok (.cpushTry c.r1 c.r2)) dot dot))
  | 9 => c.gate {} (zero c.r2 (c.pick (zero c.r3 (.ok (.mbw c.r1))) (.ok (.mbwTo c.r1 c.r3)) dot dot))
  | 10 => c.gate {} (zero c.r2 (zero c.r3 (c.pick (.ok (.mbp c.r1)) (.ok (.mbpTry c.r1)) dot dot)))
  | 11 => c.gate { aux := true } (c.pick (.ok (.pfl c.regs c.aux))
      (ensure (c.aux == 0) .reserved (zero c.r1 (zero c.r2 (zero c.r3 (.ok .pflClr))))) (.ok (.pflN c.regs c.aux)) dot)
  | 12 => c.gate {} (c.pick (.ok (.xall c.regs)) dot dot dot)
  | _ => .error .op

/-- Page 8 (R149, R282). -/
def Chain.page8 (c : Chain) : Built :=
  let bare (k : Built) : Built := c.gate { r := false } (ensure (c.fn11 == 0) .reserved k)
  match c.op with
  | 0 => c.gate { aux := true } (zero c.r1 (zero c.r3 (c.pick
      (ensure (c.aux == 0) .reserved (zero c.r2 (.ok .bar))) (low8 c.r2 fun g => .ok (.barRed g c.aux))
      (ensure (c.aux == 0) .reserved (zero c.r2 (.ok .barEnd))) (low8 c.r2 fun g => .ok (.barEndr g c.aux)))))
  | 1 => bare (.ok .vote)
  | 2 => c.gate {} (zero c.r1 (c.pick (.ok (.bwait c.r2 c.r3)) dot dot dot))
  | 3 => c.gate { r := false } (ensure (c.base.extractLsb' 7 4 == 0) .reserved
      (.ok (.fence (c.base.extractLsb' 0 5) (c.base.extractLsb' 5 2))))
  | 4 => c.gate { aux := true } (noHigh c.h3 (c.pick (zero c.r2 (.ok (.csrr c.r1 c.csr)))
      (.ok (.csrw c.r1 c.r2 c.csr)) (.ok (.csrs c.r1 c.r2 c.csr)) (.ok (.csrc c.r1 c.r2 c.csr))))
  | 5 => c.gate { r := false } (.ok (.trap c.fn11))
  | 6 => c.gate { r := false } (.ok (.ebrk c.fn11))
  | 7 => bare (.ok .yld)
  | 8 => c.gate {} (zero c.r1 (c.pick (.ok (.tlbi c.r2 c.r3)) dot dot dot))
  | 9 => bare (.ok .rfe)
  | 10 => bare (.ok .wfe)
  | 11 => c.gate {} (zero c.r1 (c.pick (.ok (.ipost c.r2 c.r3)) dot dot dot))
  | _ => .error .op

/-- The page's table (R143): pfx.p may not name page 0 or a page above 8. -/
def Chain.build (c : Chain) : Built :=
  if c.hasP then
    match c.page.toNat with
    | 1 => c.page1
    | 2 => c.page2
    | 3 => c.page3
    | 4 => c.page4
    | 5 => c.page5
    | 6 => c.page6
    | 7 => c.page7
    | 8 => c.page8
    | _ => .error .page
  else c.page0

/-- The operands' checks (order 5 of R147). -/
def checked (i : Instr) : Built :=
  match WellFormed.check i with
  | none => .ok i
  | some e => .error (.operand e)

/-- The instruction that the words begin with and its length in words, or why there is none. -/
def decode (ws : List Half) : Except Reject (Instr × Nat) :=
  match Chain.gather 0 Chain.empty ws with
  | .error e => .error e
  | .ok (c, n) =>
    match c.build with
    | .error e => .error e
    | .ok i =>
      match checked i with
      | .error e => .error e
      | .ok j => .ok (j, n)

/-! ### The encoder -/

namespace Encode

/-- The bits of the modifiers (R141). -/
def modBits (x : Mod) : BitVec 9 :=
  BitVec.ofBool x.sat ++ (BitVec.ofBool x.clp ++ (BitVec.ofBool x.neg ++ (BitVec.ofBool x.abs ++ x.scl)))

/-- The payload of pfx.r (R139). -/
def highBits (a b c : Reg) (m : BitVec 3) : BitVec 9 :=
  a.extractLsb' 3 2 ++ (b.extractLsb' 3 2 ++ (c.extractLsb' 3 2 ++ m))

/-- No modifier. -/
def plain : Mod := ⟨false, false, false, false, 0⟩

/-- A chain from its page, aux5, registers and base word, with the prefix words that R162 inserts. -/
def make (page : BitVec 4) (aux : BitVec 5) (hi : BitVec 9) (x : Mod) (k iv : Nat) (base : Half) : Chain :=
  { page, aux, hasP := page != 0, hasR := hi != 0, hi, hasX := modBits x != 0, mod := modBits x, ik := k, iv,
    twice := false, base }

/-- A base word of three register fields and fn. -/
def baseRRR (op : BitVec 5) (a b c : Reg) (fn : BitVec 2) : Half :=
  op ++ (a.extractLsb' 0 3 ++ (b.extractLsb' 0 3 ++ (c.extractLsb' 0 3 ++ fn)))

/-- An RRR chain (R138). -/
def rrr (page : BitVec 4) (op : BitVec 5) (fn : BitVec 2) (a b c : Reg) (aux : BitVec 5 := 0) (m : BitVec 3 := 0)
    (x : Mod := plain) : Chain :=
  make page aux (highBits a b c m) x 0 0 (baseRRR op a b c fn)

/-- The fewest pfx.i words for an immediate over a base field of w bits (R140, R162). -/
def immWords (w : Nat) (z : Bool) (v : Int) : Nat :=
  if (if z then decide (0 ≤ v ∧ v < 2 ^ w) else if w = 0 then v == 0 else WellFormed.signed w v) then 0
  else if WellFormed.signed (9 + w) v then 1
  else if WellFormed.signed (18 + w) v then 2
  else 3

/-- The immediate's bits. -/
def immBits (w k : Nat) (v : Int) : Nat := (v % 2 ^ (9 * k + w)).toNat

/-- A chain with an immediate over a base field of w bits; `head` holds the base word's other bits. -/
def withImm (page : BitVec 4) (aux : BitVec 5) (hi : BitVec 9) (x : Mod) (w : Nat) (z : Bool) (v : Int) (head : Half) :
    Chain :=
  let k := immWords w z v
  let u := immBits w k v
  make page aux hi x k (u / 2 ^ w) (head ||| BitVec.ofNat 16 (u % 2 ^ w))

/-- A base word's op and two register fields. -/
def head2 (op : BitVec 5) (a b : Reg) : Half := op ++ (a.extractLsb' 0 3 ++ (b.extractLsb' 0 3 ++ (0 : BitVec 5)))

/-- An RI chain. -/
def ri (page : BitVec 4) (op : BitVec 5) (o : RI) (z : Bool := false) (x : Mod := plain) : Chain :=
  withImm page 0 (highBits o.d o.a 0 0) x 5 z o.imm (head2 op o.d o.a)

/-- An LI chain. -/
def li (op : BitVec 5) (o : LI) : Chain := withImm 0 0 (highBits o.d 0 0 0) plain 8 false o.imm (head2 op o.d 0)

/-- An LD chain (R151). -/
def ld (page : BitVec 4) (op : BitVec 5) (o : LdOp) (aux : BitVec 5 := 0) (m : BitVec 3 := 0) : Chain :=
  withImm page aux (highBits o.d o.a 0 m) plain 0 false o.off
    (op ++ (o.d.extractLsb' 0 3 ++ (o.a.extractLsb' 0 3 ++ (o.la ++ BitVec.ofBool o.inc))))

/-- An SM chain (R152). -/
def sm (page : BitVec 4) (op : BitVec 5) (o : StOp) (m : BitVec 3 := 0) : Chain :=
  withImm page 0 (highBits o.s o.a 0 m) plain 5 true o.off (head2 op o.s o.a)

/-- An S chain (R150). -/
def s (page : BitVec 4) (op : BitVec 5) (fn11 : BitVec 11) : Chain := make page 0 0 plain 0 0 (op ++ fn11)

/-- A J chain. -/
def j (k : Bool) (off : Int) : Chain := withImm 0 0 0 plain 10 false off (26#5 ++ (BitVec.ofBool k ++ 0#10))

/-- A 3-bit or 4-bit number as a register number. -/
def reg3 (n : BitVec 3) : Reg := n.setWidth 5
def reg4 (n : BitVec 4) : Reg := n.setWidth 5

/-- A vector chain with three fields. -/
def v3 (page : BitVec 4) (op : BitVec 5) (fn : BitVec 2) (o : V3) (x : Mod := plain) : Chain :=
  rrr page op fn o.d o.a o.b o.t o.m x

/-- A vector chain with two fields. -/
def v2 (page : BitVec 4) (op : BitVec 5) (fn : BitVec 2) (o : V2) (x : Mod := plain) : Chain :=
  rrr page op fn o.d o.a 0 o.t o.m x

/-- A vector compare. -/
def vcmp (fn : BitVec 2) (o : VCmp) : Chain := rrr 2 5 fn (reg3 o.d) o.a o.b o.t o.m

/-- A distribution chain with three fields. -/
def d3 (op : BitVec 5) (fn : BitVec 2) (o : D3) : Chain := rrr 5 op fn (reg4 o.d) (reg4 o.a) (reg4 o.b) 0 o.m

/-- A control-register chain (R282). -/
def csr (fn : BitVec 2) (d a : Reg) (n : BitVec 8) : Chain :=
  rrr 8 4 fn d a (reg3 (n.extractLsb' 0 3)) (n.extractLsb' 3 5)

/-- The chain of an instruction; an event has none. -/
def chain : Instr → Option Chain
  | .add o x => some (rrr 0 0 0 o.d o.a o.b 0 0 x)
  | .sub o x => some (rrr 0 0 1 o.d o.a o.b 0 0 x)
  | .mul o x => some (rrr 0 0 2 o.d o.a o.b 0 0 x)
  | .mulh o x => some (rrr 0 0 3 o.d o.a o.b 0 0 x)
  | .and_ o => some (rrr 0 1 0 o.d o.a o.b)
  | .or_ o => some (rrr 0 1 1 o.d o.a o.b)
  | .xor_ o => some (rrr 0 1 2 o.d o.a o.b)
  | .andn o => some (rrr 0 1 3 o.d o.a o.b)
  | .shl o => some (rrr 0 2 0 o.d o.a o.b)
  | .shr o => some (rrr 0 2 1 o.d o.a o.b)
  | .sra o => some (rrr 0 2 2 o.d o.a o.b)
  | .rol o => some (rrr 0 2 3 o.d o.a o.b)
  | .slt o => some (rrr 0 3 0 o.d o.a o.b)
  | .sltu o => some (rrr 0 3 1 o.d o.a o.b)
  | .seq o => some (rrr 0 3 2 o.d o.a o.b)
  | .sne o => some (rrr 0 3 3 o.d o.a o.b)
  | .min o x => some (rrr 0 4 0 o.d o.a o.b 0 0 x)
  | .max o x => some (rrr 0 4 1 o.d o.a o.b 0 0 x)
  | .minu o x => some (rrr 0 4 2 o.d o.a o.b 0 0 x)
  | .maxu o x => some (rrr 0 4 3 o.d o.a o.b 0 0 x)
  | .addi o x => some (ri 0 5 o false x)
  | .andi o => some (ri 0 6 o)
  | .ori o => some (ri 0 7 o)
  | .xori o => some (ri 0 8 o)
  | .shli o => some (ri 0 9 o true)
  | .shri o => some (ri 0 10 o true)
  | .srai o => some (ri 0 11 o true)
  | .li o => some (li 12 o)
  | .lih o => some (li 13 o)
  | .ldB o => some (ld 0 14 o)
  | .ldH o => some (ld 0 15 o)
  | .ldW o => some (ld 0 16 o)
  | .ldD o => some (ld 0 17 o)
  | .ldBs o => some (ld 0 18 o)
  | .ldHs o => some (ld 0 19 o)
  | .ldWs o => some (ld 0 20 o)
  | .stB o => some (sm 0 21 o)
  | .stH o => some (sm 0 22 o)
  | .stW o => some (sm 0 23 o)
  | .stD o => some (sm 0 24 o)
  | .b o => some (withImm 0 0 (highBits o.a 0 0 0) plain 4 false o.off
      (25#5 ++ (o.a.extractLsb' 0 3 ++ (o.cc ++ (BitVec.ofBool o.n ++ 0#4)))))
  | .j off => some (j false off)
  | .call off => some (j true off)
  | .jr a => some (rrr 0 27 0 0 a 0)
  | .callr a => some (rrr 0 27 1 0 a 0)
  | .ret => some (rrr 0 27 2 0 0 0)
  | .rep o => some (s 0 28 (o.nm1 ++ (o.cnt ++ (o.stride ++ o.fields))))
  | .div o => some (rrr 1 0 0 o.d o.a o.b)
  | .divu o => some (rrr 1 0 1 o.d o.a o.b)
  | .rem o => some (rrr 1 0 2 o.d o.a o.b)
  | .remu o => some (rrr 1 0 3 o.d o.a o.b)
  | .clz o => some (rrr 1 1 0 o.d o.a 0)
  | .ctz o => some (rrr 1 1 1 o.d o.a 0)
  | .pop o => some (rrr 1 1 2 o.d o.a 0)
  | .brev o => some (rrr 1 1 3 o.d o.a 0)
  | .bfx o w => some (rrr 1 2 0 o.d o.a o.b w)
  | .bfxs o w => some (rrr 1 2 1 o.d o.a o.b w)
  | .bfi o w => some (rrr 1 2 2 o.d o.a o.b w)
  | .sel o c => some (rrr 1 3 0 o.d o.a o.b c)
  | .selz o c => some (rrr 1 3 1 o.d o.a o.b c)
  | .faddF32 o x => some (rrr 1 4 0 o.d o.a o.b 0 0 x)
  | .fsubF32 o x => some (rrr 1 4 1 o.d o.a o.b 0 0 x)
  | .fmulF32 o x => some (rrr 1 4 2 o.d o.a o.b 0 0 x)
  | .fdivF32 o x => some (rrr 1 4 3 o.d o.a o.b 0 0 x)
  | .faddF64 o x => some (rrr 1 5 0 o.d o.a o.b 0 0 x)
  | .fsubF64 o x => some (rrr 1 5 1 o.d o.a o.b 0 0 x)
  | .fmulF64 o x => some (rrr 1 5 2 o.d o.a o.b 0 0 x)
  | .fdivF64 o x => some (rrr 1 5 3 o.d o.a o.b 0 0 x)
  | .fmaF32 o c x => some (rrr 1 6 0 o.d o.a o.b c 0 x)
  | .fmsF32 o c x => some (rrr 1 6 1 o.d o.a o.b c 0 x)
  | .fnmaF32 o c x => some (rrr 1 6 2 o.d o.a o.b c 0 x)
  | .fnmsF32 o c x => some (rrr 1 6 3 o.d o.a o.b c 0 x)
  | .fmaF64 o c x => some (rrr 1 7 0 o.d o.a o.b c 0 x)
  | .fmsF64 o c x => some (rrr 1 7 1 o.d o.a o.b c 0 x)
  | .fnmaF64 o c x => some (rrr 1 7 2 o.d o.a o.b c 0 x)
  | .fnmsF64 o c x => some (rrr 1 7 3 o.d o.a o.b c 0 x)
  | .fminF32 o x => some (rrr 1 8 0 o.d o.a o.b 0 0 x)
  | .fmaxF32 o x => some (rrr 1 8 1 o.d o.a o.b 0 0 x)
  | .fminF64 o x => some (rrr 1 8 2 o.d o.a o.b 0 0 x)
  | .fmaxF64 o x => some (rrr 1 8 3 o.d o.a o.b 0 0 x)
  | .fsqrtF32 o x => some (rrr 1 9 0 o.d o.a 0 0 0 x)
  | .fsqrtF64 o x => some (rrr 1 9 1 o.d o.a 0 0 0 x)
  | .feqF32 o => some (rrr 1 10 0 o.d o.a o.b)
  | .fltF32 o => some (rrr 1 10 1 o.d o.a o.b)
  | .fleF32 o => some (rrr 1 10 2 o.d o.a o.b)
  | .funoF32 o => some (rrr 1 10 3 o.d o.a o.b)
  | .feqF64 o => some (rrr 1 11 0 o.d o.a o.b)
  | .fltF64 o => some (rrr 1 11 1 o.d o.a o.b)
  | .fleF64 o => some (rrr 1 11 2 o.d o.a o.b)
  | .funoF64 o => some (rrr 1 11 3 o.d o.a o.b)
  | .fcvt o x => some (rrr 1 12 o.rm o.d o.a 0 (o.src ++ (o.dst ++ 0#1)) 0 x)
  | .ldaW o op => some (rrr 1 13 0 o.d o.a o.b op)
  | .ldaD o op => some (rrr 1 13 1 o.d o.a o.b op)
  | .vadd o x => some (v3 2 0 0 o x)
  | .vsub o x => some (v3 2 0 1 o x)
  | .vmul o x => some (v3 2 0 2 o x)
  | .vmulh o x => some (v3 2 0 3 o x)
  | .vfma o x => some (v3 2 1 0 o x)
  | .vfms o x => some (v3 2 1 1 o x)
  | .vfnma o x => some (v3 2 1 2 o x)
  | .vfnms o x => some (v3 2 1 3 o x)
  | .vmin o x => some (v3 2 2 0 o x)
  | .vmax o x => some (v3 2 2 1 o x)
  | .vabd o x => some (v3 2 2 2 o x)
  | .vavg o x => some (v3 2 2 3 o x)
  | .vand o => some (v3 2 3 0 o)
  | .vor o => some (v3 2 3 1 o)
  | .vxor o => some (v3 2 3 2 o)
  | .vandn o => some (v3 2 3 3 o)
  | .vshl o => some (v3 2 4 0 o)
  | .vshr o => some (v3 2 4 1 o)
  | .vsra o => some (v3 2 4 2 o)
  | .vrol o => some (v3 2 4 3 o)
  | .vcmpEq o => some (vcmp 0 o)
  | .vcmpLt o => some (vcmp 1 o)
  | .vcmpLe o => some (vcmp 2 o)
  | .vcmpNe o => some (vcmp 3 o)
  | .vsel o => some (v3 2 6 0 o)
  | .vcvt o x => some (rrr 2 7 (o.src.extractLsb' 0 2) o.d o.a (reg3 (o.src.extractLsb' 2 3)) o.dst o.m x)
  | .vredAdd o x => some (v2 2 8 0 o x)
  | .vredMin o x => some (v2 2 8 1 o x)
  | .vredMax o x => some (v2 2 8 2 o x)
  | .vredAddo o x => some (v2 2 8 3 o x)
  | .vdot4 o x => some (v3 2 9 0 o x)
  | .vdot2 o x => some (v3 2 9 1 o x)
  | .vld o m => some (ld 3 0 o 0 m)
  | .vst o m => some (sm 3 1 o m)
  | .vgat o => some (v3 3 2 0 o)
  | .vsct o => some (v3 3 3 0 o)
  | .vbc o => some (v2 3 4 0 o)
  | .vins o => some (v3 3 4 1 o)
  | .vext o t => some (rrr 3 4 2 o.d o.a o.b t)
  | .vidx o => some (v3 3 4 3 o)
  | .vperm o => some (v3 3 5 0 o)
  | .vzip o => some (v3 3 5 1 o)
  | .vuzp o => some (v3 3 5 2 o)
  | .vrot o => some (v3 3 5 3 o)
  | .vsf o f x => some (rrr 3 6 0 o.d o.a (reg3 f) o.t o.m x)
  | .vsfFast o f x => some (rrr 3 6 1 o.d o.a (reg3 f) o.t o.m x)
  | .vrng o m => some (rrr 3 7 0 o.d o.a o.b 0 m)
  | .vrngF o m => some (rrr 3 7 1 o.d o.a o.b 0 m)
  | .gaddr o t => some (rrr 3 8 0 o.d o.a 0 t)
  | .gowner o t => some (rrr 3 8 1 o.d o.a 0 t)
  | .mlease n => some (ri 4 0 ⟨0, 0, n⟩)
  | .mtry d n => some (ri 4 1 ⟨d, 0, n⟩)
  | .mrel => some (s 4 2 0)
  | .mmma o => some (rrr 4 3 o.fn o.h o.a o.b o.k)
  | .ast h a => some (rrr 4 4 0 h a 0)
  | .astAdd h a => some (rrr 4 4 1 h a 0)
  | .ald h a => some (rrr 4 5 0 h a 0)
  | .azero h => some (rrr 4 6 0 h 0 0)
  | .arel h => some (rrr 4 6 1 h 0 0)
  | .mwait h => some (s 4 7 (0#6 ++ h))
  | .dld o => some (ld 5 0 ⟨reg4 o.d, o.a, o.off, o.la, o.inc⟩ o.lin o.m)
  | .dst o => some (sm 5 1 ⟨reg4 o.s, o.a, o.off⟩ o.m)
  | .dpt d a m l => some (rrr 5 2 0 (reg4 d) a 0 l m)
  | .dpte d g m l => some (rrr 5 2 1 (reg4 d) (reg3 g) 0 l m)
  | .dpm d a b m l => some (rrr 5 2 2 (reg4 d) a b l m)
  | .dadd o => some (d3 3 0 o)
  | .dsub o => some (d3 3 1 o)
  | .dmul o => some (d3 3 2 o)
  | .ddiv o => some (d3 3 3 o)
  | .dmin o => some (d3 4 0 o)
  | .dmax o => some (d3 4 1 o)
  | .dmix o => some (d3 4 2 o)
  | .dscl d a b m => some (rrr 5 5 0 (reg4 d) (reg4 a) b 0 m)
  | .dsht d a b m => some (rrr 5 5 1 (reg4 d) (reg4 a) b 0 m)
  | .dmom d a f m => some (rrr 5 6 f d (reg4 a) 0 0 m)
  | .dqnt d a b m => some (rrr 5 7 0 d (reg4 a) b 0 m)
  | .dcdf d a b m => some (rrr 5 7 1 d (reg4 a) b 0 m)
  | .dtgr d a => some (rrr 5 8 0 d (reg4 a) 0)
  | .dtgw d a m l => some (rrr 5 8 1 (reg4 d) (reg4 a) 0 l m)
  | .dmov d a m => some (rrr 5 8 2 (reg4 d) (reg4 a) 0 0 m)
  | .qcfg a => some (rrr 6 0 0 0 a 0)
  | .qres a => some (rrr 6 0 1 0 a 0)
  | .qstg i a => some (ld 6 1 ⟨reg3 i, a, 0, 0, false⟩)
  | .qtm d a f => some (rrr 6 2 f d a 0)
  | .qfin g a la => some (ld 6 3 ⟨reg3 g, a, 0, la, false⟩)
  | .qdec d g b => some (rrr 6 4 0 d (reg3 g) b)
  | .qst a b => some (rrr 6 5 0 0 a b)
  | .qset o => some (rrr 6 6 0 o.d o.a o.b)
  | .ldfW o => some (ld 7 0 o)
  | .ldfD o => some (ld 7 1 o)
  | .vldf o => some (ld 7 2 o)
  | .stfW o => some (sm 7 3 o)
  | .stfD o => some (sm 7 4 o)
  | .vstf o => some (sm 7 5 o)
  | .accF32 a b => some (rrr 7 6 0 0 a b)
  | .accF64 a b => some (rrr 7 6 1 0 a b)
  | .accI64 a b => some (rrr 7 6 2 0 a b)
  | .accV16 a b => some (rrr 7 6 3 0 a b)
  | .amoiW o op => some (rrr 7 7 0 o.d o.a o.b op)
  | .amoiD o op => some (rrr 7 7 1 o.d o.a o.b op)
  | .cpush a => some (rrr 7 8 0 0 a 0)
  | .cpushTry d a => some (rrr 7 8 1 d a 0)
  | .mbw d => some (rrr 7 9 0 d 0 0)
  | .mbwTo d a => some (rrr 7 9 1 d 0 a)
  | .mbp d => some (rrr 7 10 0 d 0 0)
  | .mbpTry d => some (rrr 7 10 1 d 0 0)
  | .pfl o u => some (rrr 7 11 0 o.d o.a o.b u)
  | .pflClr => some (rrr 7 11 1 0 0 0)
  | .pflN o u => some (rrr 7 11 2 o.d o.a o.b u)
  | .xall o => some (rrr 7 12 0 o.d o.a o.b)
  | .bar => some (rrr 8 0 0 0 0 0)
  | .barRed g op => some (rrr 8 0 1 0 (reg3 g) 0 op)
  | .barEnd => some (rrr 8 0 2 0 0 0)
  | .barEndr g op => some (rrr 8 0 3 0 (reg3 g) 0 op)
  | .vote => some (s 8 1 0)
  | .bwait a b => some (rrr 8 2 0 0 a b)
  | .fence m k => some (s 8 3 (0#4 ++ (k ++ m)))
  | .csrr d n => some (csr 0 d 0 n)
  | .csrw d a n => some (csr 1 d a n)
  | .csrs d a n => some (csr 2 d a n)
  | .csrc d a n => some (csr 3 d a n)
  | .trap c => some (s 8 5 c)
  | .ebrk c => some (s 8 6 c)
  | .yld => some (s 8 7 0)
  | .tlbi a b => some (rrr 8 8 0 0 a b)
  | .rfe => some (s 8 9 0)
  | .wfe => some (s 8 10 0)
  | .ipost a b => some (rrr 8 11 0 0 a b)
  | .illegalDecode _ | .windowDataLands _ _ | .farReadServe _ _ | .remoteDeltaAccept _ _ _ | .laybyWake _
  | .mbwTimeout _ | .copy _ _ | .bcast _ _ | .send _ _ | .fill _ _ | .digest _ _ | .exchange _ _
  | .commandComplete _ _ | .mailboxPost _ | .stagerUnitFetch _ _ _ _ | .stagedUnitLands _ _ _ _
  | .stagedCopyForward _ _ _ | .leaseGrant _ | .slotAllocate _ | .matrixCommandRun _ | .matrixCommandDone _
  | .arrival _ | .quiesce _ _ | .linkTimeout _ _ | .strikeHorizon _ _ | .junctionVote _ _ | .junctionDecision _ _ _
  | .commitDrain _ _ _ | .farDrainEntry _ _ | .commitFarComplete _ _ | .heldOpRelease _ | .atomicExecute _
  | .amoiResult _ | .crossStageDelivery _ | .resultAreaWrite _ _ | .corridorCompletion _ | .earlyAbort _ _
  | .rollback _ _ _ | .causeService _ _ | .strikeReport _ _ | .sensorSelfTest _ _ _ | .eccError _ _ | .parityError _
  | .lineRetire _ | .suspicionDecay | .tileWithdraw _ | .targetedTest _ _ | .ageingMonitorRead _ _ _ _
  | .clockStepApply _ _ | .clockStepTimeout _ _ | .modulePowerEvent _ | .coreCurrentEvent _ _ | .thermalEvent _ _ _
  | .boot _ | .depotException _ _ _ | .dtmExpire _ | .doorbell _ _ | .queueMap | .queueSlotTimeout _ | .launch _
  | .preempt _ | .resume _ | .launchPlace _ | .sliceExpiry _ | .drainTimeout _ | .immediatePreempt _ | .kill _
  | .swapOut _ | .corridorResume _ _ | .migration _ _ | .hostHaltRequest _ | .debugStateWrite _ _ | .singleStep _
  | .debugResume _ | .invalidationService _ | .walkComplete _ | .connectionTableWrite _ _ | .circuitLockLoss _
  | .flitReceive _ _ | .laneFailure _ _ | .retrainComplete _ | .fabricRequest _ | .fabricReply _
  | .fabricAttemptTimeout _ _ | .busyRetry _ _ | .tagQuarantineEnd _ _ | .duplicateEntryExpire _ _ _
  | .ueInboundMessage _ _ | .ueMessageDone _ _ | .bar2Access _ | .functionLevelReset _ | .pf0LinkReset
  | .atsInvalidation _ _ | .pageRequestResponse _ _ | .pageRequestTimeout _ | .frResp _ _ _ | .frTimeout _ _
  | .oflReq _ | .dieOffline _ | .rmpAck _ | .rmpTimeout _ | .registerWrite _ _ _ | .retuningComplete _
  | .flashLayerWrite _ _ | .replicaDigestRequest _ _ | .dieControllerFailure _ => none

/-- The pfx.i words of k payloads, most significant first (R140). -/
def immHalves : Nat → Nat → List Half
  | 0, _ => []
  | k + 1, v => immHalves k (v / 512) ++ [BitVec.ofNat 16 (0xFA00 + v % 512)]

/-- The words of a chain, in the order of R162. -/
def halves (c : Chain) : List Half :=
  (if c.hasP then [0x7E#7 ++ (c.page ++ c.aux)] else []) ++ (if c.hasR then [0x7C#7 ++ c.hi] else []) ++
    (if c.hasX then [0x7F#7 ++ c.mod] else []) ++ immHalves c.ik c.iv ++ [c.base]

end Encode

/-- The words of a well-formed instruction; an event has none. -/
def encode (i : Instr) : List Half :=
  match Encode.chain i with
  | some c => Encode.halves c
  | none => []

/-! ### The table's numbering -/

/-- Cuts the low 16·n bits of w into n words, the highest first: the table writes pfx.p in bits [31:16] and the base
word in [15:0], and pfx.p is the first word of the chain (R141, R162; assumption 1). -/
def tableHalves : Nat → Nat → List Half
  | 0, _ => []
  | n + 1, w => BitVec.ofNat 16 (w >>> (16 * n)) :: tableHalves n w

/-- The instruction the decoder reads from the opcode table's bits; the words after them are zero. -/
def decodeTableWord (nbits w : Nat) : Option Instr :=
  match decode (tableHalves ((nbits + 15) / 16) w ++ [0, 0, 0, 0]) with
  | .ok (i, _) => some i
  | .error _ => none

end Sys2Proof
end

