-- ==== Sys2Proof/Machine/Num.lean ====
section
/-! DEFINITION. Exact numbers and the arithmetic every unit shares (R116, R125, R128, R145, R195 to R198, R412). -/

namespace Sys2Proof.Machine

/-- The sticky flags of FLG [6:0] (R109, R128). -/
abbrev Flags := BitVec 7

def flInvalid : Flags := 1
def flDivz : Flags := 2
def flOverflow : Flags := 4
def flUnderflow : Flags := 8
def flInexact : Flags := 16
def flSaturate : Flags := 32
def flDepx : Flags := 64

/-- The rounding modes (R125). -/
abbrev rmRNE : BitVec 2 := 0
abbrev rmRTZ : BitVec 2 := 1
abbrev rmRDN : BitVec 2 := 2
abbrev rmRUP : BitVec 2 := 3

/-- An exact value before rounding: NaN, an infinity, or (-1)^neg · m · 2^e, where m = 0 is a signed zero.  A quotient or
root that is not dyadic is stood for by a dyadic value with more bits than any format has, in the same open interval
between two values that rounding can tell apart. -/
inductive XR where
  | nan
  | inf (neg : Bool)
  | fin (neg : Bool) (m : Nat) (e : Int)
  deriving DecidableEq, Repr

namespace XR

def zero (neg : Bool) : XR := fin neg 0 0

def ofInt (i : Int) : XR := fin (decide (i < 0)) i.natAbs 0

def one : XR := fin false 1 0

def isNan : XR → Bool
  | nan => true
  | _ => false

def isInf : XR → Bool
  | inf _ => true
  | _ => false

def isZero : XR → Bool
  | fin _ m _ => m == 0
  | _ => false

def sign : XR → Bool
  | nan => false
  | inf s => s
  | fin s _ _ => s

def neg : XR → XR
  | nan => nan
  | inf s => inf (!s)
  | fin s m e => fin (!s) m e

def abs : XR → XR
  | nan => nan
  | inf _ => inf false
  | fin _ m e => fin false m e

/-- Multiplies by 2^k. -/
def scale (x : XR) (k : Int) : XR :=
  match x with
  | fin s m e => fin s m (if m = 0 then 0 else e + k)
  | y => y

/-- The signed integer m · 2^(e - lo), for lo ≤ e. -/
def aligned (s : Bool) (m : Nat) (e lo : Int) : Int :=
  let v : Int := (m <<< (e - lo).toNat : Nat)
  if s then -v else v

/-- The exact sum of finite terms at the least exponent `lo`. -/
def sumAt (lo : Int) : List XR → Int
  | [] => 0
  | fin s m e :: r => (if m = 0 then 0 else aligned s m e lo) + sumAt lo r
  | _ :: r => sumAt lo r

/-- The least exponent of the non-zero terms. -/
def leastExp : List XR → Option Int
  | [] => none
  | fin _ m e :: r =>
    if m = 0 then leastExp r
    else match leastExp r with
      | none => some e
      | some k => some (if e ≤ k then e else k)
  | _ :: r => leastExp r

/-- An exact sum (R412 for a zero's sign): NaN if a term is NaN; opposed infinities give NaN and invalid.  With a NaN term
beside them the model sets no invalid (R132; assumption 70). -/
def sum (rm : BitVec 2) (ts : List XR) : XR × Flags :=
  if ts.any isNan then (nan, 0)
  else
    let infs := ts.filter isInf
    match infs with
    | t :: _ => if infs.all (fun u => u.sign == t.sign) then (inf t.sign, 0) else (nan, flInvalid)
    | [] =>
      match leastExp ts with
      | none =>
        match ts with
        | [] => (zero false, 0)
        | t :: _ => if ts.all (fun u => u.sign == t.sign) then (zero t.sign, 0) else (zero (rm == rmRDN), 0)
      | some lo =>
        let n := sumAt lo ts
        if n = 0 then (zero (rm == rmRDN), 0) else (fin (decide (n < 0)) n.natAbs lo, 0)

def add (rm : BitVec 2) (a b : XR) : XR × Flags := sum rm [a, b]

def sub (rm : BitVec 2) (a b : XR) : XR × Flags := sum rm [a, b.neg]

/-- An exact product: 0 · ∞ gives NaN and invalid (R195). -/
def mul (a b : XR) : XR × Flags :=
  match a, b with
  | nan, _ => (nan, 0)
  | _, nan => (nan, 0)
  | inf s, y => if y.isZero then (nan, flInvalid) else (inf (s ^^ y.sign), 0)
  | x, inf t => if x.isZero then (nan, flInvalid) else (inf (x.sign ^^ t), 0)
  | fin s m e, fin t n f => (if m = 0 ∨ n = 0 then zero (s ^^ t) else fin (s ^^ t) (m * n) (e + f), 0)

/-- The quotient of two naturals with at least 70 significant bits and a sticky low bit: (q, e) for q · 2^e. -/
def divNat (m n : Nat) : Nat × Int :=
  let k := 70 + Nat.log2 n - Nat.log2 m
  let x := m <<< k
  let q := x / n
  (2 * q + (if x % n = 0 then 0 else 1), -(k : Int) - 1)

/-- A quotient with the special cases of R195. -/
def div (a b : XR) : XR × Flags :=
  match a, b with
  | nan, _ => (nan, 0)
  | _, nan => (nan, 0)
  | inf _, inf _ => (nan, flInvalid)
  | inf s, y => (inf (s ^^ y.sign), 0)
  | x, inf t => (zero (x.sign ^^ t), 0)
  | fin s m e, fin t n f =>
    if n = 0 then (if m = 0 then (nan, flInvalid) else (inf (s ^^ t), flDivz))
    else if m = 0 then (zero (s ^^ t), 0)
    else (fin (s ^^ t) (divNat m n).1 ((divNat m n).2 + e - f), 0)

/-- The integer square root, bit by bit from 2^k down. -/
def isqrtFrom : Nat → Nat → Nat → Nat
  | 0, _, r => r
  | k + 1, n, r => isqrtFrom k n (if (r + 2 ^ k) * (r + 2 ^ k) ≤ n then r + 2 ^ k else r)

/-- The integer square root. -/
def isqrt (n : Nat) : Nat := isqrtFrom (Nat.log2 n / 2 + 1) n 0

/-- The root of m · 2^e with at least 70 significant bits and a sticky low bit. -/
def sqrtPos (m : Nat) (e : Int) : XR :=
  let odd := e % 2 = 1
  let m' := if odd then 2 * m else m
  let e' := if odd then e - 1 else e
  let k := 72 - Nat.log2 m' / 2
  let x := m' <<< (2 * k)
  let r := isqrt x
  fin false (2 * r + (if r * r = x then 0 else 1)) (e' / 2 - (k : Int) - 1)

/-- A square root (R195). -/
def sqrt (a : XR) : XR × Flags :=
  match a with
  | nan => (nan, 0)
  | inf s => if s then (nan, flInvalid) else (inf false, 0)
  | fin s m e => if m = 0 then (zero s, 0) else if s then (nan, flInvalid) else (sqrtPos m e, 0)

/-- a · b + c with the invalid of 0 · ∞ whatever c is (R196). -/
def fma (rm : BitVec 2) (a b c : XR) : XR × Flags :=
  let p := mul a b
  match p.1 with
  | nan => p
  | x => (add rm x c)

/-- -1, 0 or 1, -0 equal to +0; none when unordered. -/
def cmp (a b : XR) : Option Int :=
  match a, b with
  | nan, _ => none
  | _, nan => none
  | inf s, inf t => some (if s = t then 0 else if s then -1 else 1)
  | inf s, _ => some (if s then -1 else 1)
  | _, inf t => some (if t then 1 else -1)
  | x, y =>
    match leastExp [x, y] with
    | none => some 0
    | some lo =>
      let d := sumAt lo [x] - sumAt lo [y]
      some (if d < 0 then -1 else if d = 0 then 0 else 1)

def lt (a b : XR) : Bool := cmp a b == some (-1)

def le (a b : XR) : Bool := cmp a b == some (-1) || cmp a b == some 0

def eq (a b : XR) : Bool := cmp a b == some 0

/-- The lesser operand (or, with `high`, the greater): -0 below +0, one NaN skipped (R197). -/
def pickMinMax (high : Bool) (a b : XR) : XR :=
  match cmp a b with
  | none => if a.isNan then (if b.isNan then nan else b) else a
  | some c =>
    let c' : Int := if c = 0 ∧ a.isZero ∧ b.isZero ∧ a.sign ≠ b.sign then (if a.sign then -1 else 1) else c
    if high then (if c' < 0 then b else a) else (if c' ≤ 0 then a else b)

/-- The modifiers of R145 on an exact value with a floating result, before rounding. -/
def modify (x : Mod) (y : XR) : XR :=
  let y := if x.abs then y.abs else y
  let y := if x.neg then y.neg else y
  let y := y.scale x.scl.toInt
  if x.clp then
    match y with
    | nan => zero false
    | y => if y.sign then zero false else if le y one then y else one
  else y

/-- A value with the negative ones, -∞ among them, made 0. -/
def clampLow : XR → XR
  | inf true => zero false
  | fin true _ _ => zero false
  | y => y

/-- The modifiers of R145 on an exact floating value with an integer result, before its rounding; NaN passes clp
(assumption 70). -/
def modifyToInt (x : Mod) (y : XR) : XR :=
  let z := modify { x with clp := false } y
  if x.clp then clampLow z else z

end XR

/-- floor(y · 2^k). -/
def floorScale (y : Int) (k : Int) : Int := if 0 ≤ k then y * (2 ^ k.toNat : Nat) else y / ((2 ^ (-k).toNat : Nat) : Int)

/-- The modifiers of R145 on an exact integer with an integer result. -/
def modifyInt (x : Mod) (y : Int) : Int :=
  let y := if x.abs then (y.natAbs : Int) else y
  let y := if x.neg then -y else y
  let y := floorScale y x.scl.toInt
  if x.clp then max y 0 else y

/-- An integer type: width and signedness (R115). -/
structure IFmt where
  width : Nat
  signed : Bool
  deriving DecidableEq, Repr

def IFmt.lo (f : IFmt) : Int := if f.signed then -(2 ^ (f.width - 1) : Nat) else 0

def IFmt.hi (f : IFmt) : Int := if f.signed then (2 ^ (f.width - 1) : Nat) - 1 else (2 ^ f.width : Nat) - 1

/-- The low bits of an integer. -/
def lowBits (w : Nat) (y : Int) : Nat := (y % (2 ^ w : Nat)).toNat

/-- Wraps, or with sat clamps and sets saturate (R116). -/
def wrapInt (f : IFmt) (sat : Bool) (y : Int) : Nat × Flags :=
  if sat && decide (y < f.lo) then (lowBits f.width f.lo, flSaturate)
  else if sat && decide (f.hi < y) then (lowBits f.width f.hi, flSaturate)
  else (lowBits f.width y, 0)

/-- The value of a raw integer (R115). -/
def IFmt.read (f : IFmt) (raw : Nat) : Int :=
  let r := raw % 2 ^ f.width
  if f.signed && decide (2 ^ (f.width - 1) ≤ r) then (r : Int) - (2 ^ f.width : Nat) else r

/-- m · 2^sh rounded to an integer in the given mode: the integer and whether rounding changed the value.  A tie under RNE goes
to the even integer; between two normal values of precision 1, neither of which has a significand bit of 0, that is the one
of larger magnitude, by the model's choice (R125; assumption 85). -/
def roundNat (rm : BitVec 2) (neg : Bool) (m : Nat) (sh : Int) : Nat × Bool :=
  if 0 ≤ sh then (m <<< sh.toNat, false)
  else
    let k := (-sh).toNat
    if k > Nat.log2 m + 2 then
      let up := (rm == rmRDN && neg) || (rm == rmRUP && !neg)
      (if up && m != 0 then 1 else 0, m != 0)
    else
      let q := m >>> k
      let r := m % 2 ^ k
      let half := 2 ^ (k - 1)
      let up :=
        match rm.toNat with
        | 0 => decide (half < r) || (r == half && q % 2 == 1)
        | 1 => false
        | 2 => neg && r != 0
        | _ => !neg && r != 0
      (if up then q + 1 else q, r != 0)

/-- Conversion to an integer type (R117). -/
def XR.toInt (f : IFmt) (rm : BitVec 2) (x : XR) : Nat × Flags :=
  match x with
  | .nan => (0, flInvalid)
  | .inf s => (lowBits f.width (if s then f.lo else f.hi), flInvalid)
  | .fin s m e =>
    let r := roundNat rm s m e
    let v : Int := if s then -(r.1 : Int) else r.1
    if v < f.lo then (lowBits f.width f.lo, flInvalid)
    else if f.hi < v then (lowBits f.width f.hi, flInvalid)
    else (lowBits f.width v, if r.2 then flInexact else 0)

/-- Conversion to fixed point with `fb` fraction bits in `width` bits under RNE, saturating (R56, R133, R134): the value
and whether it saturated and whether it was rounded; NaN is the caller's. -/
def XR.toFixed (fb width : Nat) (x : XR) : Int × Bool × Bool :=
  let hi : Int := (2 ^ (width - 1) : Nat) - 1
  let lo : Int := -(2 ^ (width - 1) : Nat)
  match x with
  | .nan => (0, false, false)
  | .inf s => (if s then lo else hi, true, false)
  | .fin s m e =>
    let r := roundNat rmRNE s m (e + fb)
    let v : Int := if s then -(r.1 : Int) else r.1
    if v < lo then (lo, true, true) else if hi < v then (hi, true, true) else (v, false, r.2)

end Sys2Proof.Machine
end

