-- ==== Sys2Proof/Machine/Formats.lean ====
section
/-! DEFINITION. The floating formats: reading a code as an exact value and rounding an exact value to a code
(R118 to R127), and the element types by code (R154). -/

namespace Sys2Proof.Machine

/-- A floating format: total width, sign bit, exponent bias, trailing bits, exponent bits, and whether it is IEEE (else
the binary8 and 4-bit family) (R118, R120, R124). -/
structure Fmt where
  width : Nat
  signed : Bool
  ebits : Nat
  tbits : Nat
  bias : Nat
  ieee : Bool
  deriving DecidableEq, Repr

def fmtF64 : Fmt := ⟨64, true, 11, 52, 1023, true⟩
def fmtF32 : Fmt := ⟨32, true, 8, 23, 127, true⟩
def fmtF16 : Fmt := ⟨16, true, 5, 10, 15, true⟩
def fmtBf16 : Fmt := ⟨16, true, 8, 7, 127, true⟩

/-- f8pK: precision K, exponent width 8 - K, bias 2^(w-1) (R120). -/
def fmtF8p (k : Nat) : Fmt := ⟨8, true, 8 - k, k - 1, 2 ^ (7 - k), false⟩

/-- f8nK: precision K, exponent width 9 - K. -/
def fmtF8n (k : Nat) : Fmt := ⟨8, false, 9 - k, k - 1, 2 ^ (8 - k), false⟩

/-- f4pK (R124). -/
def fmtF4p (k : Nat) : Fmt := ⟨4, true, 4 - k, k - 1, 2 ^ (3 - k), false⟩

/-- Rounding control (R109, R125 to R127). -/
structure FCtl where
  rm : BitVec 2
  b8inf : Bool
  ftz : Bool
  deriving DecidableEq, Repr

/-- RNE, no flush, as the units of R125 with their own mode round. -/
def FCtl.rne : FCtl := ⟨0, false, false⟩

/-- The magnitude code of the largest finite value (R118, R121). -/
def Fmt.maxCode (f : Fmt) (b8inf : Bool) : Nat :=
  if f.ieee then (2 ^ f.ebits - 1) * 2 ^ f.tbits - 1
  else if f.signed then 2 ^ (f.width - 1) - (if b8inf then 2 else 1)
  else 2 ^ f.width - (if b8inf then 3 else 2)

/-- The canonical NaN (R118, R121). -/
def Fmt.nanCode (f : Fmt) : Nat :=
  if f.ieee then (2 ^ f.ebits - 1) * 2 ^ f.tbits + 2 ^ (f.tbits - 1)
  else if f.signed then 2 ^ (f.width - 1)
  else 2 ^ f.width - 1

/-- A magnitude code with its sign; the binary8 and 4-bit formats have one zero. -/
def Fmt.withSign (f : Fmt) (neg : Bool) (code : Nat) : Nat :=
  if neg && f.signed && (f.ieee || code != 0) then 2 ^ (f.width - 1) + code else code

/-- The code of an infinity, in a format that has one. -/
def Fmt.infCode (f : Fmt) (neg : Bool) : Nat := f.withSign neg (f.maxCode true + 1)

/-- The value of a magnitude code (R120). -/
def Fmt.magnitude (f : Fmt) (neg : Bool) (code : Nat) : XR :=
  let ex := code / 2 ^ f.tbits
  let t := code % 2 ^ f.tbits
  if ex = 0 then (if t = 0 then .zero neg else .fin neg t (1 - (f.bias : Int) - f.tbits))
  else .fin neg (2 ^ f.tbits + t) ((ex : Int) - f.bias - f.tbits)

/-- Reads a code as encoded (R118 to R121, R124). -/
def Fmt.read (f : Fmt) (b8inf : Bool) (raw : Nat) : XR :=
  let r := raw % 2 ^ f.width
  let neg := f.signed && decide (2 ^ (f.width - 1) ≤ r)
  let code := if neg then r - 2 ^ (f.width - 1) else r
  if f.ieee then
    let top := (2 ^ f.ebits - 1) * 2 ^ f.tbits
    if code < top then f.magnitude neg code else if code = top then .inf neg else .nan
  else if r = f.nanCode then .nan
  else if b8inf && code == f.maxCode true + 1 then .inf neg
  else f.magnitude neg code

/-- Reads a code under ftz: a code that is subnormal in its own format is a zero of its sign (R127). -/
def Fmt.input (f : Fmt) (c : FCtl) (raw : Nat) : XR :=
  match f.read c.b8inf raw with
  | .fin s m e =>
    if c.ftz && m != 0 && decide (m < 2 ^ f.tbits) then .zero (s && f.ieee) else .fin s m e
  | x => x

/-- A negative value into an unsigned format (R123). -/
def Fmt.negUnsigned (f : Fmt) (sat : Bool) : Nat × Flags :=
  if sat then (0, flSaturate) else (f.nanCode, flInvalid)

/-- Overflow (R126): what the mode alone gives, and what sat makes of it. -/
def Fmt.overflowed (f : Fmt) (c : FCtl) (sat neg : Bool) : Nat × Flags :=
  let top := f.withSign neg (f.maxCode c.b8inf)
  let big := if f.ieee || c.b8inf then f.infCode neg else f.nanCode
  let alone :=
    match c.rm.toNat with
    | 0 => big
    | 1 => top
    | 2 => if neg then big else top
    | _ => if neg then top else big
  if sat && alone != top then (top, flOverflow ||| flInexact ||| flSaturate) else (alone, flOverflow ||| flInexact)

/-- The magnitude code of m · 2^q, for m ≤ 2^(t+1) and q at or above the lowest quantum. -/
def Fmt.code (f : Fmt) (m : Nat) (q : Int) : Nat :=
  if m < 2 ^ f.tbits then m else (q + f.tbits + f.bias).toNat * 2 ^ f.tbits + (m - 2 ^ f.tbits)

/-- Rounds a finite non-zero value (R125 to R127, R123). -/
def Fmt.roundFinite (f : Fmt) (c : FCtl) (sat neg : Bool) (m : Nat) (e : Int) : Nat × Flags :=
  let emin : Int := 1 - f.bias
  let lg : Int := e + Nat.log2 m
  let q : Int := (if lg < emin then emin else lg) - f.tbits
  let r := roundNat c.rm neg m (e - q)
  let unb := roundNat c.rm neg m (e - (lg - f.tbits))
  -- tininess is judged on the rounding with an unbounded exponent range (R127)
  let tiny := decide (lg < emin) && !(decide (lg + 1 = emin) && decide (2 ^ (f.tbits + 1) ≤ unb.1))
  let fl : Flags := (if r.2 then flInexact else 0) ||| (if tiny && r.2 then flUnderflow else 0)
  if neg && !f.signed then (if r.1 = 0 then (0, fl) else f.negUnsigned sat)
  else if c.ftz && r.1 != 0 && decide (r.1 < 2 ^ f.tbits) then
    (f.withSign neg 0, fl ||| flUnderflow ||| flInexact)
  else
    let code := f.code r.1 q
    if f.maxCode c.b8inf < code then f.overflowed c sat neg else (f.withSign neg code, fl)

/-- Rounds an exact value to a code, with its flags (R119, R123, R125 to R127). -/
def Fmt.round (f : Fmt) (c : FCtl) (sat : Bool) (x : XR) : Nat × Flags :=
  match x with
  | .nan => (f.nanCode, 0)
  | .inf neg =>
    if neg && !f.signed then f.negUnsigned sat
    else if f.ieee || c.b8inf then (f.infCode neg, 0)
    else if sat then (f.withSign neg (f.maxCode c.b8inf), flSaturate)
    else (f.nanCode, flInvalid)
  | .fin neg m e => if m = 0 then (f.withSign (neg && f.signed) 0, 0) else f.roundFinite c sat neg m e

/-- The element types of aux5 (R154): an integer or a floating format. -/
inductive Elem where
  | int (f : IFmt)
  | flt (f : Fmt)
  deriving DecidableEq, Repr

/-- The type a code names; codes 12 to 15 as MFC0 reads them (R114); every other code stands for i8, and no decoded
instruction carries one. -/
def elemOf (t : BitVec 5) : Elem :=
  match t.toNat with
  | 0 => .int ⟨8, true⟩
  | 1 => .int ⟨8, false⟩
  | 2 => .int ⟨16, true⟩
  | 3 => .int ⟨16, false⟩
  | 4 => .int ⟨32, true⟩
  | 5 => .int ⟨32, false⟩
  | 6 => .int ⟨64, true⟩
  | 7 => .int ⟨64, false⟩
  | 8 => .flt fmtBf16
  | 9 => .flt fmtF16
  | 10 => .flt fmtF32
  | 11 => .flt fmtF64
  | 12 => .int ⟨4, true⟩
  | 13 => .flt (fmtF4p 1)
  | 14 => .flt (fmtF4p 2)
  | 15 => .flt (fmtF4p 3)
  | n => if 16 ≤ n ∧ n ≤ 22 then .flt (fmtF8p (n - 15)) else if 24 ≤ n ∧ n ≤ 30 then .flt (fmtF8n (n - 23))
    else .int ⟨8, true⟩

def Elem.width : Elem → Nat
  | .int f => f.width
  | .flt f => f.width

/-- The lane width in bits (R208). -/
def laneWidth (t : BitVec 5) : Nat := (elemOf t).width

/-- FP32 and FP64 values rounded under RNE, with their flags. -/
def fl32 (x : XR) : BitVec 32 × Flags := ((BitVec.ofNat 32 (fmtF32.round .rne false x).1), (fmtF32.round .rne false x).2)
def fl64 (x : XR) : BitVec 64 × Flags := ((BitVec.ofNat 64 (fmtF64.round .rne false x).1), (fmtF64.round .rne false x).2)

/-- The exact value of an FP32 or FP64 code. -/
def f32 (w : BitVec 32) : XR := fmtF32.read false w.toNat
def f64 (w : BitVec 64) : XR := fmtF64.read false w.toNat

/-- Conversion into an accumulation cell (R56, R133): NaN adds nothing and sets invalid. -/
def toQ6464 (x : XR) : BitVec 128 × Flags :=
  match x with
  | .nan => (0, flInvalid)
  | x =>
    let r := x.toFixed 64 128
    (BitVec.ofInt 128 r.1, (if r.2.1 then flSaturate else 0) ||| (if r.2.2 then flInexact else 0))

/-- Conversion into a barrier lane (R134). -/
def toQ3232 (x : XR) : Word × Flags :=
  match x with
  | .nan => (0x7FFFFFFFFFFFFFFF, flInvalid)
  | x =>
    let r := x.toFixed 32 64
    (BitVec.ofInt 64 r.1, if r.2.1 then flSaturate else 0)

/-- A lane read back to an exact value (R134). -/
def ofQ3232 (w : Word) : XR := (XR.ofInt w.toInt).scale (-32)

end Sys2Proof.Machine
end

