-- ==== Sys2Proof/Machine/Ops.lean ====
section
/-! DEFINITION. The named operations over the state that every meaning is written from: strands, registers, windows,
positions, taking an exception, and a tile's memory as a strand sees and writes it. -/

namespace Sys2Proof.Machine

/-- What a meaning answers. -/
abbrev Out := Host.Outcome State Fault Refusal

/-! ### Parts of the state -/

def State.strand (s : State) (id : StrandId) : Strand := KMap.getD s.strands id Strand.reset
def State.setStrand (s : State) (id : StrandId) (x : Strand) : State := { s with strands := KMap.set s.strands id x }
def State.onStrand (s : State) (id : StrandId) (f : Strand → Strand) : State := s.setStrand id (f (s.strand id))

/-- Changes every strand. -/
def State.mapStrands (s : State) (f : StrandId → Strand → Strand) : State :=
  { s with strands := s.strands.map fun p => (p.1, f p.1 p.2) }

/-- The strand whose instruction is executed. -/
def State.me (s : State) : Strand := s.strand s.cur
def State.setMe (s : State) (x : Strand) : State := s.setStrand s.cur x
def State.onMe (s : State) (f : Strand → Strand) : State := s.setMe (f s.me)

def State.tile (s : State) (p : Nat) : Tile := KMap.getD s.tiles p Tile.reset
def State.setTile (s : State) (p : Nat) (x : Tile) : State := { s with tiles := KMap.set s.tiles p x }

def State.cor (s : State) (c : Nat) : Corridor := KMap.getD s.corridors c Corridor.reset
def State.setCor (s : State) (c : Nat) (x : Corridor) : State := { s with corridors := KMap.set s.corridors c x }

def State.vtile (s : State) (c vt : Nat) : VTile := KMap.getD s.vtiles (c, vt) VTile.reset
def State.setVtile (s : State) (c vt : Nat) (x : VTile) : State := { s with vtiles := KMap.set s.vtiles (c, vt) x }

def State.stage (s : State) (c st : Nat) : Stage := KMap.getD s.stages (c, st) Stage.reset
def State.setStage (s : State) (c st : Nat) (x : Stage) : State := { s with stages := KMap.set s.stages (c, st) x }

def State.stageTile (s : State) (c vt st : Nat) : StageTile := KMap.getD s.stageTiles (c, vt, st) StageTile.reset
def State.setStageTile (s : State) (c vt st : Nat) (x : StageTile) : State :=
  { s with stageTiles := KMap.set s.stageTiles (c, vt, st) x }

/-- A depot strand (R374). -/
def isDepotId (id : StrandId) : Bool := id.cor == depotCor

/-- The strand executing is a depot strand. -/
def State.isDepot (s : State) : Bool := isDepotId s.cur

/-- The physical tile of a vtile; a depot strand's vtile number is its physical tile (R20). -/
def State.phys (s : State) (c vt : Nat) : Nat := if c = depotCor then vt else (s.vtile c vt).phys

/-- The physical tile of the strand executing. -/
def State.myTile (s : State) : Nat := s.phys s.cur.cor s.cur.vt

/-- The stage's tile data of the strand executing. -/
def State.mine (s : State) : StageTile := s.stageTile s.cur.cor s.cur.vt s.me.stage
def State.setMine (s : State) (x : StageTile) : State := s.setStageTile s.cur.cor s.cur.vt s.me.stage x

/-! ### The launch record (R308) and the image (R311, R312) -/

def Corridor.word (c : Corridor) (n : Nat) : Word := c.record.getD n 0

def Corridor.debug (c : Corridor) : Bool := bit (c.word 0) 16
def Corridor.conflictCheck (c : Corridor) : Bool := bit (c.word 0) 17
def Corridor.shareable (c : Corridor) : Bool := bit (c.word 0) 18
def Corridor.rerunLimit (c : Corridor) : Nat := bits (c.word 1) 3 0
def Corridor.grantBase (c : Corridor) : Nat := bits (c.word 2) 4 0 * 65536
def Corridor.grantLen (c : Corridor) : Nat := bits (c.word 2) 12 8 * 65536
def Corridor.codeBase (c : Corridor) : Nat := bits (c.word 2) 24 16 * 4096
def Corridor.codeLen (c : Corridor) : Nat := bits (c.word 2) 40 32 * 4096
def Corridor.policy (c : Corridor) : Word := c.word 7

/-- The number of vtiles (R19). -/
def Image.vtiles (im : Image) : Nat := im.x * im.y * im.z

/-- The stage of a strand slot of a vtile, where the stage map places a strand (R312). -/
def Image.stageOf (im : Image) (vt slot : Nat) : Option Nat :=
  let init :=
    match im.entries[slot]? with
    | some e => if e.valid then some e.stage else none
    | none => none
  im.smap.foldl (fun acc r =>
    if r.slot = slot ∧ r.first ≤ vt ∧ vt < r.first + r.count then (if r.present then some r.stage else none) else acc)
    init

/-- The slots of a vtile that hold a strand of a stage, ascending. -/
def Image.slotsOf (im : Image) (vt st : Nat) : List Nat :=
  (List.range im.strands).filter fun sl => im.stageOf vt sl == some st

/-- Whether a vtile holds a strand of a stage. -/
def Image.holds (im : Image) (vt st : Nat) : Bool := !(im.slotsOf vt st).isEmpty

/-- The stages with strands on a vtile, each once. -/
def Image.stagesOn (im : Image) (vt : Nat) : List Nat :=
  distinct ((List.range im.strands).filterMap fun sl => im.stageOf vt sl)

/-- The vtiles that hold strands of a stage, ascending. -/
def Image.members (im : Image) (st : Nat) : List Nat := (List.range im.vtiles).filter fun vt => im.holds vt st

/-- The receiver stage of a vtile: that of its lowest slot with a strand (R58). -/
def Image.receiver (im : Image) (vt : Nat) : Nat :=
  ((List.range im.strands).filterMap fun sl => im.stageOf vt sl).headD 0

/-- A corridor that runs, or is being stopped. -/
def Corridor.live (k : Corridor) : Bool := match k.state with | .running => true | .stopping => true | _ => false

def State.image (s : State) : Image := (s.cor s.cur.cor).image

/-! ### Code (R92, R137, R155) -/

/-- The base and length of a strand's code window; a depot strand's is its whole tile memory (assumption 9). -/
def State.code (s : State) (c : Nat) : Nat × Nat :=
  if c = depotCor then (0, 0x200000) else ((s.cor c).codeBase, (s.cor c).codeLen)

/-- Up to `n` words of code from an offset, ending at the window's end. -/
def codeWords (m : Mem) (base len : Nat) : Nat → Nat → List Half
  | 0, _ => []
  | n + 1, off =>
    if off + 2 ≤ len then BitVec.ofNat 16 (Mem.load m (base + off) 2) :: codeWords m base len n (off + 2) else []

/-- The words that the chain at an offset can consist of. -/
def State.chainAt (s : State) (id : StrandId) (pc : Word) : List Half :=
  let w := s.code id.cor
  codeWords (s.tile (s.phys id.cor id.vt)).mem w.1 w.2 5 pc.toNat

/-- The number of words of a chain: its prefix words and the base word, at least 1 and at most 5 (assumption 10). -/
def chainLen : List Half → Nat
  | [] => 1
  | w :: ws => if Chain.isPrefix w && !ws.isEmpty then 1 + chainLen ws else 1

/-- The address after the chain at `pc`. -/
def State.after (s : State) (id : StrandId) (pc : Word) : Word :=
  pc + BitVec.ofNat 64 (2 * chainLen (s.chainAt id pc))

/-- The prefix words before the base word, nearest first, after the base word itself: word 6 of a trap record (R334). -/
def chainWord (ws : List Half) : Word :=
  let c := (ws.take (chainLen ws)).reverse.take 4
  BitVec.ofNat 64 (ofLE (c.flatMap fun h => leBytes 2 h.toNat))

/-! ### Residues (R105) -/

/-- The residue of a value. -/
def residue (w : Word) : BitVec 4 := BitVec.ofNat 4 (w.toNat % 15)

/-- The residue that the predictor gives `r`: the derived one, off by what the operands' residues are off (R105;
assumption 11); an invalid operand code stays invalid. -/
def predicted (r : Word) (bad : Bool) (got want : Int) : BitVec 4 :=
  if bad then 15 else BitVec.ofNat 4 (((r.toNat % 15 : Nat) + (got - want)) % 15).toNat

/-! ### Registers (R102 to R104) -/

def Strand.getS (x : Strand) (r : Reg) : Word := if r = 0 then 0 else x.s.get r.toFin
def Strand.getRes (x : Strand) (r : Reg) : BitVec 4 := if r = 0 then 0 else x.sres.get r.toFin
def Strand.getV (x : Strand) (r : Reg) : Line := x.v.get r.toFin
def Strand.getD (x : Strand) (r : BitVec 4) : Dist := x.d.get r.toFin
def Strand.getP (x : Strand) (r : BitVec 3) : Word := if r = 0 then BitVec.allOnes 64 else x.p.get r.toFin

/-- The residue of a scalar register agrees with its value. -/
def Strand.resOk (x : Strand) (r : Reg) : Bool := x.getRes r == residue (x.getS r)

/-- Writes a scalar register with a residue; s0 drops the write. -/
def Strand.putS (x : Strand) (r : Reg) (w : Word) (res : BitVec 4) : Strand :=
  if r = 0 then x else { x with s := x.s.set r.toNat w r.isLt, sres := x.sres.set r.toNat res r.isLt }

def Strand.putV (x : Strand) (r : Reg) (l : Line) : Strand := { x with v := x.v.set r.toNat l r.isLt }
def Strand.putD (x : Strand) (r : BitVec 4) (e : Dist) : Strand := { x with d := x.d.set r.toNat e r.isLt }

/-- Writes a predicate register; p0 drops the write. -/
def Strand.putP (x : Strand) (r : BitVec 3) (w : Word) : Strand :=
  if r = 0 then x else { x with p := x.p.set r.toNat w r.isLt }

/-- Cancels every open window's write to a register (R158). -/
def Strand.cancel (x : Strand) (d : Dest) : Strand :=
  { x with windows := x.windows.map fun w => { w with writes := w.writes.filter fun p => decide (p.1 ≠ d) } }

/-- An instruction's write of a scalar register with the derived residue. -/
def Strand.writeS (x : Strand) (r : Reg) (w : Word) : Strand := (x.cancel (.s r)).putS r w (residue w)

/-- An instruction's write of a scalar register with a predicted residue. -/
def Strand.writeSRes (x : Strand) (r : Reg) (w : Word) (res : BitVec 4) : Strand := (x.cancel (.s r)).putS r w res

def Strand.writeV (x : Strand) (r : Reg) (l : Line) : Strand := (x.cancel (.v r)).putV r l
def Strand.writeD (x : Strand) (r : BitVec 4) (e : Dist) : Strand := (x.cancel (.d r)).putD r e

/-- ORs flags into FLG (R128). -/
def Strand.addFlags (x : Strand) (f : Flags) : Strand :=
  { x with ctl := { x.ctl with flg := x.ctl.flg ||| f.setWidth 64 } }

/-- The rounding control in VFC (R109). -/
def Strand.fctl (x : Strand) : FCtl := ⟨x.ctl.vfc.extractLsb' 0 2, bit x.ctl.vfc 2, bit x.ctl.vfc 3⟩

def State.getS (s : State) (r : Reg) : Word := s.me.getS r
def State.getV (s : State) (r : Reg) : Line := s.me.getV r
def State.getD (s : State) (r : BitVec 4) : Dist := s.me.getD r
def State.getP (s : State) (r : BitVec 3) : Word := s.me.getP r
def State.writeS (s : State) (r : Reg) (w : Word) : State := s.onMe fun x => x.writeS r w
def State.writeV (s : State) (r : Reg) (l : Line) : State := s.onMe fun x => x.writeV r l
def State.writeD (s : State) (r : BitVec 4) (e : Dist) : State := s.onMe fun x => x.writeD r e
def State.writeP (s : State) (r : BitVec 3) (w : Word) : State := s.onMe fun x => x.putP r w
def State.addFlags (s : State) (f : Flags) : State := s.onMe fun x => x.addFlags f

/-- The number of the vector register v[4g + i] of a group. -/
def groupReg (g : BitVec 3) (i : Nat) : Reg := BitVec.ofNat 5 (4 * g.toNat + i)

/-- The 256 bytes of a group as 32 lanes of 64 bits (R287). -/
def Strand.groupLanes (x : Strand) (g : BitVec 3) : List Word :=
  (List.range 32).map fun i => (x.getV (groupReg g (i / 8))).extractLsb' (64 * (i % 8)) 64

/-- A line made of eight 64-bit lanes, lane 0 least significant. -/
def lineOf (ls : List Word) : Line := BitVec.ofNat 512 (ofLE (ls.flatMap fun w => leBytes 8 w.toNat))

/-- Writes 32 lanes into a group without touching windows. -/
def Strand.putGroup (x : Strand) (g : BitVec 3) (lanes : List Word) : Strand :=
  (List.range 4).foldl (fun y i => y.putV (groupReg g i) (lineOf ((lanes.drop (8 * i)).take 8))) x

/-- An instruction's write of a group. -/
def Strand.writeGroup (x : Strand) (g : BitVec 3) (lanes : List Word) : Strand :=
  (List.range 4).foldl (fun y i => y.writeV (groupReg g i) (lineOf ((lanes.drop (8 * i)).take 8))) x

/-! ### Images of registers (R103) -/

/-- The 64 bytes of a vector register. -/
def lineBytes (l : Line) : List Byte := leBytes 64 l.toNat

/-- A vector register from its 64 bytes. -/
def bytesLine (b : List Byte) : Line := BitVec.ofNat 512 (ofLE b)

/-- One point's value and weight from an element's 24 bytes. -/
def bytesElem (b : List Byte) : DElem :=
  Vector.ofFn fun q => ⟨BitVec.ofNat 32 (ofLE ((b.drop (4 * q.val)).take 4)),
    BitVec.ofNat 16 (ofLE ((b.drop (16 + 2 * q.val)).take 2))⟩

/-- The 24 bytes of an element. -/
def elemBytes (e : DElem) : List Byte :=
  (e.toList.flatMap fun p => leBytes 4 p.val.toNat) ++ (e.toList.flatMap fun p => leBytes 2 p.w.toNat)

/-- A distribution register from its memory image. -/
def bytesDist (b : List Byte) : Dist :=
  let h := BitVec.ofNat 64 (ofLE ((b.drop 192).take 8))
  ⟨Vector.ofFn fun e => bytesElem ((b.drop (24 * e.val)).take 24), h.extractLsb' 0 16, bit h 16, bit h 17⟩

/-- The header word of a distribution register (R244). -/
def Dist.header (d : Dist) : Word :=
  BitVec.ofNat 64 (d.mask.toNat + (if d.align then 65536 else 0) + (if d.approx then 131072 else 0))

/-- Bytes 0 to 199 of a distribution register's image. -/
def distBytes (d : Dist) : List Byte := (d.elems.toList.flatMap elemBytes) ++ leBytes 8 d.header.toNat

/-! ### Lookahead windows (R158) -/

/-- Writes one value at a window's end. -/
def Strand.land (x : Strand) (p : Dest × WinVal) : Strand :=
  match p with
  | (.s r, .s w) => x.putS r w (residue w)
  | (.v r, .v l) => x.putV r l
  | (.d r, .d e) => x.putD r e
  | _ => x

/-- Ends the windows that have no instruction left and whose data has landed. -/
def Strand.closeWindows (x : Strand) : Strand :=
  let done := x.windows.filter fun w => w.left == 0 && w.landed
  done.foldl (fun y w => w.writes.foldl Strand.land y)
    { x with windows := x.windows.filter fun w => !(w.left == 0 && w.landed) }

/-- One instruction of every open window has been stepped through. -/
def Strand.tick (x : Strand) : Strand :=
  Strand.closeWindows { x with windows := x.windows.map fun w => { w with left := w.left - 1 } }

/-- Every open window's data has landed. -/
def Strand.allLanded (x : Strand) : Bool := x.windows.all fun w => w.landed

/-- Ends every open window; their data has landed. -/
def Strand.endWindows (x : Strand) : Strand :=
  Strand.closeWindows { x with windows := x.windows.map fun w => { w with left := 0 } }

/-- Opens a window over the next `la` instructions; the step that opens it ticks once. -/
def Strand.openWindow (x : Strand) (la : BitVec 4) (ds : List (Dest × WinVal)) (read : Option FarRead) (landed : Bool) :
    Strand :=
  let y := ds.foldl (fun z p => z.cancel p.1) x
  { y with windows := y.windows ++ [⟨y.nextWin, la.toNat + 1, ds, read, landed⟩], nextWin := y.nextWin + 1 }

/-! ### Position (R155 to R157) -/

/-- The nth address of an unfinished `rep`'s unrolled sequence, then of the code after the body. -/
def repAddr (s : State) (id : StrandId) (r : RepRun) (n : Nat) : Word :=
  let total := r.passes.toNat * r.body.length
  if n < total then r.body.getD (n % r.body.length) 0
  else if n = total then r.after
  else if n = total + 1 then s.after id r.after
  else s.after id (s.after id r.after)

/-- The place in the unrolled sequence. -/
def RepRun.place (r : RepRun) : Nat := r.pass.toNat * r.body.length + r.idx

/-- The position of a strand whose `rep` stands at place n. -/
def Strand.repAt (s : State) (id : StrandId) (x : Strand) (r : RepRun) (n : Nat) : Strand :=
  { x with
    pc0 := repAddr s id r n, pc1 := repAddr s id r (n + 1), pc2 := repAddr s id r (n + 2), annul := x.annul >>> 1,
    rep := if n < r.passes.toNat * r.body.length then
        some { r with pass := BitVec.ofNat 64 (n / r.body.length), idx := n % r.body.length }
      else none }

/-- Steps a strand's position: past the instruction at PC0, or with PC2 at a taken branch's target; `nullify` after a
`b` with n = 1 that is not taken. -/
def State.advance (s : State) (id : StrandId) (target : Option Word) (nullify : Bool) : State :=
  s.onStrand id fun x =>
    match x.rep with
    | some r => Strand.repAt s id x r (r.place + 1)
    | none =>
      { x with pc0 := x.pc1, pc1 := x.pc2, pc2 := target.getD (s.after id x.pc2),
               annul := if nullify then 3 else x.annul >>> 1 }

/-- The end of a step: the delay slots and the windows count it, and the wait is over. -/
def State.counted (s : State) (id : StrandId) (branch : Bool) : State :=
  s.onStrand id fun x => Strand.tick { x with slots := if branch then 2 else x.slots - 1, wait := .none }

/-- The instruction at PC0 has executed. -/
def retire (s : State) : State := (s.advance s.cur none false).counted s.cur false

/-- A branch instruction has executed. -/
def retireBranch (target : Option Word) (nullify : Bool) (s : State) : State :=
  (s.advance s.cur target nullify).counted s.cur true

/-! ### Taking an exception (R330, R331, R374) -/

/-- The strand's position and a cause, as a trap record needs them (R334). -/
def State.trapInfo (s : State) (id : StrandId) (cause : BitVec 8) (addr : Word) (s2 wr : Bool) : TrapInfo :=
  let x := s.strand id
  { cause, vt := id.vt, slot := id.slot, tileKind := false, pc0 := x.pc0, pc1 := x.pc1, pc2 := x.pc2, annul := x.annul,
    addr, chain := chainWord (s.chainAt id x.pc0), s2, wr, page := none }

/-- A tile-level cause without an instruction position (R331). -/
def tileTrap (vt : Nat) (cause : BitVec 8) (addr : Word) (s2 wr : Bool) : TrapInfo :=
  { cause, vt, slot := 0, tileKind := true, pc0 := 0, pc1 := 0, pc2 := 0, annul := 0, addr, chain := 0, s2, wr,
    page := none }

/-- EPQ of a position (R374). -/
def packPcs (a b c : Word) : Word := setBits (setBits (setBits 0 20 0 a.toNat) 41 21 b.toNat) 62 42 c.toNat

/-- A depot strand takes an exception: EPQ, EST and EAD take the position, cause and address, and the strand goes on at
EVB; with EST.active set the depot tile stops and boot status becomes 0x0F (R374, R377).  Its open windows stay open and
count the handler's instructions: R159 discards them with a superstep, and the depot has none (assumption 78). -/
def State.depotRaise (s : State) (id : StrandId) (cause : BitVec 8) (addr : Word) : State :=
  let x := s.strand id
  if bit x.depot.est 10 then
    let s := s.mapStrands fun i y => if i.cor = depotCor ∧ i.vt = id.vt then { y with status := .stopped } else y
    { s with depot := { s.depot with booted := s.depot.booted.map fun _ => 0x0F } }
  else
    let v := x.depot.evb
    let v1 := s.after id v
    s.setStrand id { x with
      depot := { x.depot with epq := packPcs x.pc0 x.pc1 x.pc2,
                              est := setBits (setBits (setBits x.depot.est 7 0 cause.toNat) 9 8 x.annul.toNat) 10 10 1,
                              ead := addr }
      pc0 := v, pc1 := v1, pc2 := s.after id v1, annul := 0, slots := 0, rep := none, wait := .none, pushing := none }

/-- A programmable tile: neither a depot tile nor a fused-off site (R14, R15). -/
def State.isProgrammable (s : State) (p : Nat) : Bool :=
  decide (p < 576) && !(decide (p < 144) && s.depot.columns.contains (p % 12)) && !s.depot.fused.contains p

/-- Adds to a programmable tile's suspicion score, which saturates (R369). -/
def State.suspect (s : State) (p n : Nat) : State :=
  let t := s.tile p
  s.setTile p { t with score := if !s.isProgrammable p then t.score else if t.score + n ≤ 65535 then t.score + n else 65535 }

/-- A class-2 cause charged to a vtile of a stage: its increment, and 32 more when an aborted run of the superstep was
charged to the tile too (R366, R369). -/
def State.charge (s : State) (c vt st n : Nat) : State :=
  let p := s.phys c vt
  let g := s.stage c st
  (s.setStage c st { g with chargedNow := p :: g.chargedNow }).suspect p (n + if g.charged.contains p then 32 else 0)

/-- A strand takes an exception.  A corridor strand records its first cause and stops; the stage then aborts early
(R330, R331); a strand that voted keeps the cause VOTE of its `vote` (R291).  A depot strand enters its handler. -/
def State.raiseAt (s : State) (id : StrandId) (cause : BitVec 8) (addr : Word) (s2 wr : Bool) : State :=
  if isDepotId id then s.depotRaise id cause addr
  else
    let info := s.trapInfo id cause addr s2 wr
    let s := if cause = cRESIDUE then s.charge id.cor id.vt (s.strand id).stage 64 else s
    s.onStrand id fun x =>
      { x with status := .trapped, wait := .none
               cause := match x.cause with
                 | some c => some c
                 | none => match x.voted with
                   | some v => some v
                   | none => some info }

/-- A precise trap of the instruction executing. -/
def raise (cause : BitVec 8) (addr : Word) (s2 wr : Bool) (s : State) : State := s.raiseAt s.cur cause addr s2 wr

/-- A tile's vote for abort on a stage: its first tile-level cause stands (R331).  One that comes after the decision is
kept for the next run, but for an ECC error of the commit's own drain (R26, R335, R367). -/
def State.tileVote (s : State) (c vt st : Nat) (t : TrapInfo) : State :=
  let x := s.stageTile c vt st
  let g := s.stage c st
  let now := match g.decision with
    | none => true
    | some d => d && t.cause == cECC
  let put (o : Option TrapInfo) : Option TrapInfo := match o with | some y => some y | none => some t
  s.setStageTile c vt st (if now then { x with tileCause := put x.tileCause } else { x with later := put x.later })

/-- How an instruction's own effect ends. -/
inductive Eff where
  /-- It has executed; the strand steps on. -/
  | done (s : State)
  /-- A branch instruction has executed, with its target if taken, and whether it nullifies its slots. -/
  | branch (s : State) (target : Option Word) (nullify : Bool)
  /-- A precise trap: cause, address, stage 2, write. -/
  | trap (s : State) (cause : BitVec 8) (addr : Word) (s2 wr : Bool)
  /-- It waits and issues again once the condition holds. -/
  | stall (s : State) (c : WaitCond)
  /-- The effect has already placed the strand (a barrier, a halt, a parked wait, a repetition). -/
  | settled (s : State)

/-- The state after an instruction's effect. -/
def Eff.finish : Eff → State
  | .done s => retire s
  | .branch s t n => retireBranch t n s
  | .trap s c a s2 wr => raise c a s2 wr s
  | .stall s c => s.onMe fun x => { x with wait := .again c }
  | .settled s => s

/-- What a meaning answers once its effect is known. -/
def Eff.out (e : Eff) : Out := .next e.finish

/-- Goes on when a check holds, else traps with no address. -/
def Eff.check (s : State) (ok : Bool) (cause : BitVec 8) (k : Eff) : Eff := if ok then k else .trap s cause 0 false false

/-- Goes on when the residues of the registers read are right (R106). -/
def Eff.residues (s : State) (rs : List Reg) (k : Eff) : Eff := Eff.check s (rs.all s.me.resOk) cRESIDUE k

/-- An instruction that R156 forbids in delay slots. -/
def Eff.noSlot (s : State) (k : Eff) : Eff := Eff.check s (s.me.slots == 0) cILLEGAL k

/-- An instruction that R156 forbids in the body of a `rep`. -/
def Eff.noBody (s : State) (k : Eff) : Eff := Eff.check s s.me.rep.isNone cILLEGAL k

/-- A privileged instruction (order 7 of R147). -/
def Eff.privileged (s : State) (k : Eff) : Eff := Eff.check s s.isDepot cPRIV k

/-- An instruction of corridor strands alone (R283). -/
def Eff.corridorOnly (s : State) (k : Eff) : Eff := Eff.check s (!s.isDepot) cILLEGAL k

/-! ### Effective addresses (R28 to R30) -/

/-- Where an address that passes orders 1 to 6 leads. -/
inductive Place where
  | loc (off : Nat)
  | tsp (vt off : Nat)
  | far (va : Nat)
  deriving DecidableEq, Repr

/-- The spaces an instruction accepts (R29). -/
structure Spaces where
  loc : Bool
  tsp : Bool
  far : Bool
  deriving DecidableEq, Repr

def onlyLocal : Spaces := ⟨true, false, false⟩
def onlyFar : Spaces := ⟨false, false, true⟩
def anySpace : Spaces := ⟨true, true, true⟩

/-- The number of vtiles that T-space addresses may name; for the depot, the physical tiles (assumption 9). -/
def State.vtLimit (s : State) : Nat := if s.isDepot then 576 else s.image.vtiles

/-- Every byte of a range lies in the granted range of the corridor and outside the system area (R28); the depot's
range is the whole tile memory. -/
def State.inGrant (s : State) (c off size : Nat) : Bool :=
  if c = depotCor then decide (off + size ≤ 0x200000)
  else
    let k := s.cor c
    decide (k.grantBase ≤ off ∧ off + size ≤ k.grantBase + k.grantLen ∧ off + size ≤ 0x1F0000)

/-- Some byte of a range lies in the code window (R92); depot strands write anywhere. -/
def State.inCode (s : State) (c off size : Nat) : Bool :=
  if c = depotCor then false
  else
    let k := s.cor c
    decide (0 < size ∧ 0 < k.codeLen ∧ off < k.codeBase + k.codeLen ∧ k.codeBase < off + size)

/-- The outcome of R30's orders 1 to 6. -/
inductive Addr where
  | ok (p : Place)
  | bad (cause : BitVec 8)
  deriving DecidableEq, Repr

/-- The checks of R30 up to order 6.  `wr` adds the code window's PROT for a write (R92).  Space 11 passes order 2 for a
depot strand and fails order 3, since R29 lets no instruction accept it (assumption 12). -/
def State.checkAddr (s : State) (ea : Word) (resOk : Bool) (sp : Spaces) (align size : Nat) (wr : Bool) : Addr :=
  let space := bits ea 63 62
  let off := bits ea 20 0
  if !resOk then .bad cRESIDUE
  else if space = 3 then .bad (if s.isDepot then cPROT else cPRIV)
  else if (space = 0 && !sp.loc) || (space = 1 && !sp.tsp) || (space = 2 && !sp.far) then .bad cPROT
  else if (space = 0 && bits ea 61 21 != 0) || (space = 1 && bits ea 61 37 != 0) || (space = 2 && bits ea 61 48 != 0) then
    .bad cPROT
  else if ea.toNat % align ≠ 0 then .bad cALIGN
  else if space = 2 then .ok (.far (bits ea 47 0))
  else
    let vt := if space = 1 then bits ea 36 21 else s.cur.vt
    if s.vtLimit ≤ vt ∧ space = 1 then .bad cPROT
    else if !s.inGrant s.cur.cor off size || (wr && s.inCode s.cur.cor off size) then .bad cPROT
    else if vt = s.cur.vt then .ok (.loc off) else .ok (.tsp vt off)

/-! ### A tile's memory as a stage sees it (R46, R52, R75) -/

/-- What stands in the way of an access to local bytes: a staged byte that has not landed, or a marked one. -/
inductive Staged where
  | ready
  | notLanded
  | marked (va : Nat)
  deriving DecidableEq, Repr

/-- Whether a unit's 4 KiB of destination and a range share a byte. -/
def FetchUnit.touches (u : FetchUnit) (off n : Nat) : Bool := decide (off < u.dest + 4096 ∧ u.dest < off + n)

/-- A mark of a unit shows in a range: on some byte of it that no entry appended later has as its destination (R75, R76). -/
def FetchUnit.marks (u : FetchUnit) (later : List FetchUnit) (off n : Nat) : Bool :=
  u.touches off n &&
    ((later.all fun v => !v.touches off n) ||
      (List.range n).any fun i => u.touches (off + i) 1 && later.all fun v => !v.touches (off + i) 1)

/-- The mark that a range touches, if any, and the VA of its unit (R75). -/
def markIn (l : List FetchUnit) (off n : Nat) : Option Nat :=
  match l with
  | [] => none
  | u :: r =>
    match u.st with
    | .marked _ => if u.marks r off n then some u.va else markIn r off n
    | _ => markIn r off n

/-- A unit staged for this superstep whose bytes have not landed touches the range. -/
def owedIn (l : List FetchUnit) (off n : Nat) : Bool :=
  l.any fun u => (match u.st with | .queued => true | .fetched _ _ => true | _ => false) && u.touches off n

/-- The staged bytes of a range, for a strand of stage `st` on a vtile: marks of its own stage, then bytes owed to any
stage of the corridor on the tile.  A range with both faults at once; the spec orders neither before the other (assumption
77). -/
def State.stagedAt (s : State) (c vt st off n : Nat) : Staged :=
  if c = depotCor || n == 0 then .ready
  else
    match markIn (s.stageTile c vt st).staged off n with
    | some va => .marked va
    | none => if (List.range 16).any fun t => owedIn (s.stageTile c vt t).staged off n then .notLanded else .ready

/-- Reads bytes of a strand's view of its own tile. -/
def State.viewBytes (s : State) (c vt st off n : Nat) : List Byte :=
  let m := (s.tile (s.phys c vt)).mem
  if c = depotCor then Mem.readN m off n else viewRead m (s.stageTile c vt st).loc off n

/-- The strand executing reads its own tile. -/
def State.readView (s : State) (off n : Nat) : List Byte := s.viewBytes s.cur.cor s.cur.vt s.me.stage off n

/-- The whole of a strand's view of its tile, as a command keeps it (R48). -/
def State.viewAll (s : State) (id : StrandId) : Mem :=
  let m := (s.tile (s.phys id.cor id.vt)).mem
  if isDepotId id then m else Mem.apply m (s.stageTile id.cor id.vt (s.strand id).stage).loc

/-- The staged units of a strand's tile that have not landed. -/
def State.owedUnits (s : State) (id : StrandId) : List (Nat × UnitKey) :=
  if isDepotId id then []
  else
    (List.range 16).flatMap fun st =>
      ((s.stageTile id.cor id.vt st).staged.filter fun u => owedIn [u] 0 0x200000).map fun u => (st, u.key)

/-- Uncorrectable words among committed bytes of a range (R97). -/
def poisoned (l : List Nat) (off n : Nat) : Bool := l.any fun a => decide (off < a + 8 ∧ a < off + n)

/-- A read of bytes of one vtile's memory that hold an uncorrectable error makes the reading tile vote abort for the
reading stage (R97). -/
def State.noteReadOf (s : State) (c owner vt st off n : Nat) : State :=
  if c ≠ depotCor && poisoned (s.tile (s.phys c owner)).poison off n then
    (if (s.stageTile c vt st).tileCause.isNone then s.charge c vt st 0 else s).tileVote c vt st
      (tileTrap vt cECC (BitVec.ofNat 64 off) false false)
  else s

/-- A read of the tile's own bytes. -/
def State.noteRead (s : State) (c vt st off n : Nat) : State := s.noteReadOf c vt vt st off n

/-! ### The verge buffer (R98 to R100) -/

/-- The strands of a stage on a vtile. -/
def State.stageStrands (s : State) (c vt st : Nat) : List Strand :=
  (s.strands.filter fun p => decide (p.1.cor = c ∧ p.1.vt = vt ∧ p.2.stage = st)).map fun p => p.2

/-- The egress lines that a SEND of n bytes takes (R83). -/
def sendLines (n : Nat) : Nat := (n + 63) / 64

/-- The command is a SEND whose lines are still reserved (R83). -/
def CopyCmd.reserved (c : CopyCmd) : Nat :=
  if !c.exchange && bits c.w0 7 0 == 3 && !c.done then sendLines c.w3.toNat else 0

/-- The entries that an operation takes. -/
def HeldOp.entries : HeldOp → Nat
  | .store _ _ => 1
  | .amo _ _ _ _ _ _ => 1
  | .send _ b => sendLines b.length
  | .spoiled h => h.entries

/-- The operation itself. -/
def HeldOp.bare : HeldOp → HeldOp
  | .spoiled h => h.bare
  | h => h

/-- Its entry met an uncorrectable error. -/
def HeldOp.isSpoiled : HeldOp → Bool
  | .spoiled _ => true
  | _ => false

/-- The entries that held operations and egress take (R98). -/
def heldLines (l : List HeldOp) : Nat := (l.map HeldOp.entries).sum

/-- The lines that a far write touches: bytes and 16-byte cells. -/
def FarLog.lines (f : FarLog) : List Nat := distinct (f.bytes.lines ++ f.cells.map fun p => p.1 / 64)

/-- The number of distinct (key, line) pairs, each of which takes one entry (R98). -/
def entryCount {κ : Type} [DecidableEq κ] (l : List (κ × List Nat)) : Nat :=
  (distinct (l.flatMap fun p => p.2.map fun x => (p.1, x))).length

/-- The entries in use of a stage's own share on a tile. -/
def State.vergeUsed (s : State) (c vt st : Nat) : Nat :=
  let x := s.stageTile c vt st
  x.loc.lines.length + entryCount (x.inbound.map fun d => ((d.vt, d.slot), d.bytes.lines))
    + entryCount (x.bcast.map fun d => ((d.vt, d.slot), d.bytes.lines))
    + entryCount (x.cross.map fun d => ((d.target, d.slot), d.bytes.lines))
    + entryCount (x.farlog.map fun f => (f.slot, f.lines))
    + ((s.stageStrands c vt st).map fun y =>
        heldLines (y.held.map Prod.snd) + ((y.fifo ++ y.running).map CopyCmd.reserved).sum).sum

/-- A stage's share of a tile's entries (R100). -/
def State.stageShare (s : State) (c vt : Nat) : Nat :=
  let k := s.cor c
  (if k.shareable then 4096 else 8192) / (if (k.image.stagesOn vt).length = 0 then 1 else (k.image.stagesOn vt).length)

/-- The part of the share for cross-stage data that arrives. -/
def State.crossShare (s : State) (c vt : Nat) : Nat := if (s.cor c).image.stages > 1 then s.stageShare c vt / 4 else 0

/-- The part of the share for everything else that is held. -/
def State.ownShare (s : State) (c vt : Nat) : Nat := s.stageShare c vt - s.crossShare c vt

/-- k more entries are free in the stage's own share. -/
def State.room (s : State) (c vt st k : Nat) : Bool :=
  k == 0 || decide (s.vergeUsed c vt st + k ≤ s.ownShare c vt)

/-- What a stage holds on a tile fits its share. -/
def State.fits (s : State) (c vt st : Nat) : Bool := c == depotCor || decide (s.vergeUsed c vt st ≤ s.ownShare c vt)

/-- The lines that a write adds to an overlay. -/
def newLines (o : Overlay) (ls : List Nat) : Nat := (ls.filter fun l => !(o.lines.contains l)).length

/-! ### Commands' sources (R48, R80) -/

/-- All index tuples of the dimensions as (source, destination) offsets, dimension 0 fastest (R80). -/
def elemOffsets : List (Nat × Int × Int) → List (Int × Int)
  | [] => [(0, 0)]
  | (n, ss, ds) :: r =>
    (elemOffsets r).flatMap fun p => (List.range n).map fun i => (p.1 + (i : Nat) * ss, p.2 + (i : Nat) * ds)

/-- The element size of a command. -/
def CopyCmd.esize (c : CopyCmd) : Nat := 2 ^ bits c.w0 39 36

/-- The dimensions of a command: those of its descriptor, or one run of elements (R78, R80). -/
def CopyCmd.shape (c : CopyCmd) : List (Nat × Int × Int) :=
  if bits c.w0 35 32 = 0 then [(c.w3.toNat / c.esize, (c.esize : Int), (c.esize : Int))] else c.dims

/-- A command's source as ranges of vtile `vt`'s own memory, which space 00 and its T-space addresses name alike (R28). -/
def CopyCmd.sources (c : CopyCmd) (vt : Nat) : List (Nat × Nat) :=
  let base := vt * 0x200000
  let at_ (a n : Nat) : List (Nat × Nat) :=
    if base + 0x200000 ≤ a ∨ a + n ≤ base then [] else if a < base then [(0, a + n - base)] else [(a - base, n)]
  let space := bits c.w1 63 62
  let from_ : Nat := if space = 0 then base + bits c.w1 20 0 else bits c.w1 36 0
  if c.exchange then [(bits c.w1 20 0, bits c.w3 31 0)]
  else if bits c.w0 7 0 = 4 ∨ 2 ≤ space then []
  else if bits c.w0 35 32 = 0 then at_ from_ c.w3.toNat
  else (elemOffsets c.shape).flatMap fun p => at_ ((from_ : Int) + p.1).toNat c.esize

def rangesTouch (l : List (Nat × Nat)) (off n : Nat) : Bool := l.any fun r => decide (off < r.1 + r.2 ∧ r.1 < off + n)

/-- The command reads bytes of a range of its vtile. -/
def CopyCmd.reads (vt off n : Nat) (k : CopyCmd) : CopyCmd :=
  if rangesTouch (k.sources vt) off n then { k with tainted := true } else k

/-- Marks the unfinished commands on a vtile, of whichever stage, whose source a strand's write touches (R48, R239). -/
def State.taint (s : State) (c vt off n : Nat) : State :=
  let hit (k : MCmd) : Bool := k.id.cor == c && k.id.vt == vt && rangesTouch k.reads off n
  let markM (k : MCmd) : MCmd := if hit k then { k with tainted := true } else k
  let t := s.tile (s.phys c vt)
  let s := if (t.queue ++ t.cmdRunning.toList).any hit then
      s.setTile (s.phys c vt) { t with queue := t.queue.map markM, cmdRunning := t.cmdRunning.map markM }
    else s
  s.mapStrands fun id x =>
    if id.cor = c ∧ id.vt = vt ∧ !(x.fifo.isEmpty && x.running.isEmpty && x.pushing.isNone) then
      { x with
        fifo := x.fifo.map (CopyCmd.reads vt off n), running := x.running.map (CopyCmd.reads vt off n)
        pushing := x.pushing.map (CopyCmd.reads vt off n) }
    else x

/-! ### Local writes (R53, R92, R98) -/

/-- Lays bytes over a stage's local part of the verge buffer, or for the depot writes its tile's memory. -/
def State.putLocal (s : State) (c vt st off : Nat) (bs : List Byte) : State :=
  if c = depotCor then
    let t := s.tile vt
    s.setTile vt { t with mem := Mem.write t.mem off bs }
  else
    let x := s.stageTile c vt st
    s.setStageTile c vt st { x with loc := Overlay.write x.loc off bs }

/-- A strand's local write that needs no further check. -/
def State.writeView (s : State) (off : Nat) (bs : List Byte) : State :=
  (s.putLocal s.cur.cor s.cur.vt s.me.stage off bs).taint s.cur.cor s.cur.vt off bs.length

/-- A local write of the strand's stage has the entries it needs. -/
def State.localRoom (s : State) (off n : Nat) : Bool :=
  s.isDepot || s.room s.cur.cor s.cur.vt s.me.stage (newLines s.mine.loc (linesOf off n))

/-- Reads local bytes for the strand executing: waits for staged bytes, faults on marked ones (R172). -/
def Eff.readLocal (s : State) (off n : Nat) (k : State → List Byte → Eff) : Eff :=
  match s.stagedAt s.cur.cor s.cur.vt s.me.stage off n with
  | .marked va => .trap s cSTAGE_FAULT (BitVec.ofNat 64 va) false false
  | .notLanded => .stall s .staged
  | .ready => k (s.noteRead s.cur.cor s.cur.vt s.me.stage off n) (s.readView off n)

/-- Writes local bytes for the strand executing (R171, R172, R99).  A write to a marked byte that finds no entry either raises
STAGE_FAULT: the spec orders neither cause before the other (assumption 77). -/
def Eff.writeLocal (s : State) (ea : Word) (off : Nat) (bs : List Byte) (k : State → Eff) : Eff :=
  match s.stagedAt s.cur.cor s.cur.vt s.me.stage off bs.length with
  | .marked va => .trap s cSTAGE_FAULT (BitVec.ofNat 64 va) false true
  | .notLanded => .stall s .staged
  | .ready => if s.localRoom off bs.length then k (s.writeView off bs) else .trap s cDELTA_FULL ea false true

/-- A free value of w bits, and the state with the next one due (assumption 2). -/
def State.nextFree (s : State) : State := { s with free := s.free + 1 }

end Sys2Proof.Machine
end

