-- ==== Sys2Proof/Machine/Operands.lean ====
section
/-! DEFINITION. The operand forms that the meanings share: memory operands with post-increment, branch conditions,
vector lanes and masks. -/

namespace Sys2Proof.Machine

/-! ### Memory operands (R140, R151, R168, R169) -/

/-- The effective address s[ra] + offset, the offset in access units, in 64-bit wrapping arithmetic. -/
def State.ea (s : State) (a : Reg) (off : Int) (unit : Nat) : Word := s.getS a + BitVec.ofInt 64 (off * (unit : Int))

/-- The post-increment of an LD-format instruction. -/
def State.postInc (s : State) (a : Reg) (inc : Bool) (unit : Nat) : State :=
  if inc then s.writeS a (s.getS a + BitVec.ofNat 64 unit) else s

/-- Goes on with the place that a checked effective address leads to, or traps with the address (assumption 15). -/
def Eff.address (s : State) (ea : Word) (base : Reg) (sp : Spaces) (align size : Nat) (wr : Bool) (k : Place → Eff) : Eff :=
  match s.checkAddr ea (s.me.resOk base) sp align size wr with
  | .ok p => k p
  | .bad c => .trap s c (if c = cRESIDUE then 0 else ea) false wr

/-- Goes on with the local offset in a base register, checked under orders 1 to 5 of R30 alone (R218, R278). -/
def Eff.base (s : State) (a : Reg) (align : Nat) (wr : Bool) (k : Nat → Eff) : Eff :=
  let ea := s.getS a
  if !s.me.resOk a then .trap s cRESIDUE 0 false wr
  else if bits ea 63 62 = 3 then .trap s (if s.isDepot then cPROT else cPRIV) ea false wr
  else if bits ea 63 62 ≠ 0 || bits ea 61 21 ≠ 0 then .trap s cPROT ea false wr
  else if ea.toNat % align ≠ 0 then .trap s cALIGN ea false wr
  else k (bits ea 20 0)

/-- A window opened by the strand executing. -/
def State.open_ (s : State) (la : BitVec 4) (ds : List (Dest × WinVal)) (read : Option FarRead) (landed : Bool) : State :=
  s.onMe fun x => x.openWindow la ds read landed

/-- What an instruction has done at issue stands where it traps later (R169). -/
def Eff.issued (f : State → State) : Eff → Eff
  | .trap s c a s2 wr => .trap (f s) c a s2 wr
  | e => e

/-- A load of `size` local bytes through an LD-format operand: its destinations are written at the end of the window
(R158, R170). -/
def Eff.loadLocal (s : State) (o : LdOp) (size : Nat) (dests : List Byte → List (Dest × WinVal)) : Eff :=
  let ea := s.ea o.a o.off size
  Eff.address s ea o.a onlyLocal size size false fun p =>
    match p with
    | .loc off =>
      (Eff.readLocal s off size fun s bs => .done ((s.postInc o.a o.inc size).open_ o.la (dests bs) none true)).issued fun s =>
        s.postInc o.a o.inc size
    | _ => .trap s cPROT ea false false

/-- A store of bytes through an SM-format operand to local memory. -/
def Eff.storeLocal (s : State) (o : StOp) (size : Nat) (bs : List Byte) : Eff :=
  let ea := s.ea o.a o.off size
  Eff.address s ea o.a onlyLocal size size true fun p =>
    match p with
    | .loc off => Eff.writeLocal s ea off bs Eff.done
    | _ => .trap s cPROT ea false true

/-! ### Branch conditions (R153) -/

/-- Whether a branch on w is taken. -/
def condition (cc : BitVec 3) (w : Word) : Bool :=
  match cc.toNat with
  | 0 => w == 0
  | 1 => w != 0
  | 2 => decide (w.toInt < 0)
  | 3 => decide (0 ≤ w.toInt)
  | 4 => decide (0 < w.toInt)
  | 5 => decide (w.toInt ≤ 0)
  | 6 => true
  | _ => bit w 0

/-! ### Lanes (R103, R208) -/

/-- Lane i of width w of a line. -/
def lane (l : Line) (w i : Nat) : Nat := (l.toNat >>> (w * i)) % 2 ^ w

/-- A line from its lanes of width w, lane 0 first. -/
def packLanes (w : Nat) : List Nat → Nat
  | [] => 0
  | x :: r => x % 2 ^ w + 2 ^ w * packLanes w r

/-- The line whose lanes of width w are `f 0`, `f 1`, …. -/
def lanesLine (w : Nat) (f : Nat → Nat) : Line := BitVec.ofNat 512 (packLanes w ((List.range (512 / w)).map f))

/-- Lane i is enabled by the mask predicate. -/
def State.enabled (s : State) (m : BitVec 3) (i : Nat) : Bool := (s.getP m).getLsbD i

end Sys2Proof.Machine
end

