-- ==== Sys2Proof/Machine/Flags.lean ====
section
/-! DEFINITION. How results are delivered with their flags: integer and floating results under the modifiers of R145,
the roundings of R125 to R127 and the sticky flags of R128. -/

namespace Sys2Proof.Machine

/-- An exact integer result under the modifiers, wrapped or clamped into an integer type (R116, R145). -/
def deliverInt (f : IFmt) (x : Mod) (y : Int) : Nat × Flags := wrapInt f x.sat (modifyInt x y)

/-- An exact floating result under the modifiers, rounded into a floating type, with the operation's own flags. -/
def deliverFlt (f : Fmt) (c : FCtl) (x : Mod) (y : XR × Flags) : Nat × Flags :=
  let r := f.round c x.sat (XR.modify x y.1)
  (r.1, y.2 ||| r.2)

/-- An exact floating value under the modifiers, converted into an integer type (R117, R145). -/
def deliverToInt (f : IFmt) (rm : BitVec 2) (x : Mod) (y : XR) : Nat × Flags := XR.toInt f rm (XR.modifyToInt x y)

/-- Writes a scalar result with derived residue and its flags. -/
def State.deliver (s : State) (d : Reg) (r : Nat × Flags) : State := (s.writeS d (BitVec.ofNat 64 r.1)).addFlags r.2

/-- Writes a scalar result whose residue is predicted: `dev` is how far the operands' residues are off and `bad` that
one of them is invalid (R105; assumption 11). -/
def State.deliverPredicted (s : State) (d : Reg) (r : Nat × Flags) (bad : Bool) (dev : Int) : State :=
  let w := BitVec.ofNat 64 r.1
  (s.onMe fun x => x.writeSRes d w (predicted w bad dev 0)).addFlags r.2

/-- How far the residue of a register is off its value. -/
def State.resDev (s : State) (r : Reg) : Int := ((s.me.getRes r).toNat : Int) - ((residue (s.getS r)).toNat : Int)

/-- The residue of a register is the invalid code. -/
def State.resBad (s : State) (r : Reg) : Bool := s.me.getRes r == 15

/-- A floating operand of a scalar instruction (R127, R186). -/
def State.fin (s : State) (f : Fmt) (r : Reg) : XR := f.input s.me.fctl (s.getS r).toNat

end Sys2Proof.Machine
end

