-- ==== Sys2Proof/Machine/Scalar.lean ====
section
/-! DEFINITION. Integer instructions on scalar registers (R187 to R194). -/

namespace Sys2Proof.Machine

/-- The type i64 (R115). -/
def i64 : IFmt := ⟨64, true⟩

/-- The type n64 (R115). -/
def n64 : IFmt := ⟨64, false⟩

/-- One 64-bit result without flags, with the derived residue. -/
def Eff.value (s : State) (d : Reg) (w : Word) : Eff := .done (s.writeS d w)

/-- An exact integer delivered into a scalar register (R187). -/
def Eff.integer (s : State) (d : Reg) (f : IFmt) (x : Mod) (y : Int) : Eff := .done (s.deliver d (deliverInt f x y))

/-- As `Eff.integer` for the results whose residue is predicted (R105). -/
def Eff.integerPredicted (s : State) (d : Reg) (f : IFmt) (x : Mod) (y : Int) (bad : Bool) (dev : Int) : Eff :=
  .done (s.deliverPredicted d (deliverInt f x y) bad dev)

/-- An immediate as a 64-bit value. -/
def immWord (i : Int) : Word := BitVec.ofInt 64 i

/-- The shift amount in a register (R188). -/
def amount (w : Word) : Nat := w.toNat % 64

/-- 1 or 0. -/
def flagWord (b : Bool) : Word := if b then 1 else 0

/-- The first position of n from i on whose bit is set, counting from 0; n where there is none. -/
def firstSet (p : Nat → Bool) : Nat → Nat → Nat
  | 0, _ => 0
  | n + 1, i => if p i then 0 else 1 + firstSet p n (i + 1)

/-- Leading zeros, 64 for 0 (R192). -/
def leadingZeros (w : Word) : Nat := firstSet (fun i => w.getLsbD (63 - i)) 64 0

/-- Trailing zeros, 64 for 0. -/
def trailingZeros (w : Word) : Nat := firstSet (fun i => w.getLsbD i) 64 0

/-- The number of one bits. -/
def ones (w : Word) : Nat := ((List.range 64).map fun i => if w.getLsbD i then 1 else 0).sum

/-- Bit i moved to bit 63 - i. -/
def reverseBits (w : Word) : Word := BitVec.ofNat 64 (((List.range 64).map fun i => if w.getLsbD i then 2 ^ (63 - i) else 0).sum)

/-- The highest bit of a field of width w at position q, cut at bit 63 (R193). -/
def fieldTop (q w : Nat) : Nat := if q + w - 1 ≤ 63 then q + w - 1 else 63

/-- The division group traps on a zero divisor before anything is written (R191). -/
def Eff.divides (s : State) (b : Reg) (k : Eff) : Eff := Eff.check s (s.getS b != 0) cDIVZ k

/-- `add` (R187). -/
def execAdd (o : R3) (x : Mod) (s : State) : Out :=
  (Eff.integerPredicted s o.d i64 x ((s.getS o.a).toInt + (s.getS o.b).toInt)
    (s.resBad o.a || s.resBad o.b) (s.resDev o.a + s.resDev o.b)).out

/-- `sub` (R187). -/
def execSub (o : R3) (x : Mod) (s : State) : Out :=
  (Eff.integerPredicted s o.d i64 x ((s.getS o.a).toInt - (s.getS o.b).toInt)
    (s.resBad o.a || s.resBad o.b) (s.resDev o.a - s.resDev o.b)).out

/-- `mul` (R187). -/
def execMul (o : R3) (x : Mod) (s : State) : Out :=
  (Eff.integerPredicted s o.d i64 x ((s.getS o.a).toInt * (s.getS o.b).toInt)
    (s.resBad o.a || s.resBad o.b) (((s.me.getRes o.a).toNat * (s.me.getRes o.b).toNat : Int)
      - ((residue (s.getS o.a)).toNat * (residue (s.getS o.b)).toNat : Int))).out

/-- `mulh` (R187). -/
def execMulh (o : R3) (x : Mod) (s : State) : Out :=
  (Eff.integer s o.d i64 x ((s.getS o.a).toInt * (s.getS o.b).toInt / 18446744073709551616)).out

/-- `and` (R188). -/
def execAnd (o : R3) (s : State) : Out :=
  (Eff.value s o.d (s.getS o.a &&& s.getS o.b)).out

/-- `or` (R188). -/
def execOr (o : R3) (s : State) : Out :=
  (Eff.value s o.d (s.getS o.a ||| s.getS o.b)).out

/-- `xor` (R188). -/
def execXor (o : R3) (s : State) : Out :=
  (Eff.value s o.d (s.getS o.a ^^^ s.getS o.b)).out

/-- `andn` (R188). -/
def execAndn (o : R3) (s : State) : Out :=
  (Eff.value s o.d (s.getS o.a &&& ~~~(s.getS o.b))).out

/-- `shl` (R188). -/
def execShl (o : R3) (s : State) : Out :=
  (Eff.value s o.d (s.getS o.a <<< amount (s.getS o.b))).out

/-- `shr` (R188). -/
def execShr (o : R3) (s : State) : Out :=
  (Eff.value s o.d (s.getS o.a >>> amount (s.getS o.b))).out

/-- `sra` (R188). -/
def execSra (o : R3) (s : State) : Out :=
  (Eff.value s o.d ((s.getS o.a).sshiftRight (amount (s.getS o.b)))).out

/-- `rol` (R188). -/
def execRol (o : R3) (s : State) : Out :=
  (Eff.value s o.d ((s.getS o.a).rotateLeft (amount (s.getS o.b)))).out

/-- `slt` (R189). -/
def execSlt (o : R3) (s : State) : Out :=
  (Eff.value s o.d (flagWord ((s.getS o.a).slt (s.getS o.b)))).out

/-- `sltu` (R189). -/
def execSltu (o : R3) (s : State) : Out :=
  (Eff.value s o.d (flagWord ((s.getS o.a).ult (s.getS o.b)))).out

/-- `seq` (R189). -/
def execSeq (o : R3) (s : State) : Out :=
  (Eff.value s o.d (flagWord (s.getS o.a == s.getS o.b))).out

/-- `sne` (R189). -/
def execSne (o : R3) (s : State) : Out :=
  (Eff.value s o.d (flagWord (s.getS o.a != s.getS o.b))).out

/-- `min` (R187). -/
def execMin (o : R3) (x : Mod) (s : State) : Out :=
  (Eff.integer s o.d i64 x
    (if (s.getS o.a).toInt ≤ (s.getS o.b).toInt then (s.getS o.a).toInt else (s.getS o.b).toInt)).out

/-- `max` (R187). -/
def execMax (o : R3) (x : Mod) (s : State) : Out :=
  (Eff.integer s o.d i64 x
    (if (s.getS o.a).toInt ≥ (s.getS o.b).toInt then (s.getS o.a).toInt else (s.getS o.b).toInt)).out

/-- `minu` (R187). -/
def execMinu (o : R3) (x : Mod) (s : State) : Out :=
  (Eff.integer s o.d n64 x
    ((if (s.getS o.a).toNat ≤ (s.getS o.b).toNat then (s.getS o.a).toNat else (s.getS o.b).toNat : Nat) : Int)).out

/-- `maxu` (R187). -/
def execMaxu (o : R3) (x : Mod) (s : State) : Out :=
  (Eff.integer s o.d n64 x
    ((if (s.getS o.a).toNat ≥ (s.getS o.b).toNat then (s.getS o.a).toNat else (s.getS o.b).toNat : Nat) : Int)).out

/-- `addi` (R187). -/
def execAddi (o : RI) (x : Mod) (s : State) : Out :=
  (Eff.integerPredicted s o.d i64 x ((s.getS o.a).toInt + o.imm) (s.resBad o.a) (s.resDev o.a)).out

/-- `andi` (R188). -/
def execAndi (o : RI) (s : State) : Out :=
  (Eff.value s o.d (s.getS o.a &&& immWord o.imm)).out

/-- `ori` (R188). -/
def execOri (o : RI) (s : State) : Out :=
  (Eff.value s o.d (s.getS o.a ||| immWord o.imm)).out

/-- `xori` (R188). -/
def execXori (o : RI) (s : State) : Out :=
  (Eff.value s o.d (s.getS o.a ^^^ immWord o.imm)).out

/-- `shli` (R188), its residue predicted (R105). -/
def execShli (o : RI) (s : State) : Out :=
  (Eff.done (s.deliverPredicted o.d ((s.getS o.a <<< o.imm.toNat).toNat, 0) (s.resBad o.a)
    (s.resDev o.a * (2 ^ o.imm.toNat : Nat)))).out

/-- `shri` (R188). -/
def execShri (o : RI) (s : State) : Out :=
  (Eff.value s o.d (s.getS o.a >>> o.imm.toNat)).out

/-- `srai` (R188). -/
def execSrai (o : RI) (s : State) : Out :=
  (Eff.value s o.d ((s.getS o.a).sshiftRight o.imm.toNat)).out

/-- `li` (R190): no operand, so the predicted residue is the derived one. -/
def execLi (o : LI) (s : State) : Out :=
  (Eff.value s o.d (immWord o.imm)).out

/-- `lih` (R190): bits [31:0] of the register are kept. -/
def execLih (o : LI) (s : State) : Out :=
  (Eff.done (s.deliverPredicted o.d ((setBits (s.getS o.d) 63 32 (immWord o.imm).toNat).toNat, 0) (s.resBad o.d)
    (s.resDev o.d))).out

/-- `div` (R191). -/
def execDiv (o : R3) (s : State) : Out :=
  (Eff.divides s o.b (Eff.value s o.d (BitVec.ofInt 64 ((s.getS o.a).toInt.tdiv (s.getS o.b).toInt)))).out

/-- `divu` (R191). -/
def execDivu (o : R3) (s : State) : Out :=
  (Eff.divides s o.b (Eff.value s o.d (BitVec.ofNat 64 ((s.getS o.a).toNat / (s.getS o.b).toNat)))).out

/-- `rem` (R191). -/
def execRem (o : R3) (s : State) : Out :=
  (Eff.divides s o.b (Eff.value s o.d (BitVec.ofInt 64 ((s.getS o.a).toInt.tmod (s.getS o.b).toInt)))).out

/-- `remu` (R191). -/
def execRemu (o : R3) (s : State) : Out :=
  (Eff.divides s o.b (Eff.value s o.d (BitVec.ofNat 64 ((s.getS o.a).toNat % (s.getS o.b).toNat)))).out

/-- `clz` (R192). -/
def execClz (o : R2) (s : State) : Out :=
  (Eff.value s o.d (BitVec.ofNat 64 (leadingZeros (s.getS o.a)))).out

/-- `ctz` (R192). -/
def execCtz (o : R2) (s : State) : Out :=
  (Eff.value s o.d (BitVec.ofNat 64 (trailingZeros (s.getS o.a)))).out

/-- `pop` (R192). -/
def execPop (o : R2) (s : State) : Out :=
  (Eff.value s o.d (BitVec.ofNat 64 (ones (s.getS o.a)))).out

/-- `brev` (R192). -/
def execBrev (o : R2) (s : State) : Out :=
  (Eff.value s o.d (reverseBits (s.getS o.a))).out

/-- `bfx` (R193); `w` is the width less 1. -/
def execBfx (o : R3) (w : BitVec 5) (s : State) : Out :=
  let q := amount (s.getS o.b)
  (Eff.value s o.d (BitVec.ofNat 64 (bits (s.getS o.a) (fieldTop q (w.toNat + 1)) q))).out

/-- `bfxs` (R193). -/
def execBfxs (o : R3) (w : BitVec 5) (s : State) : Out :=
  let q := amount (s.getS o.b)
  let h := fieldTop q (w.toNat + 1)
  (Eff.value s o.d (BitVec.ofInt 64 ((IFmt.mk (h - q + 1) true).read (bits (s.getS o.a) h q)))).out

/-- `bfi` (R193). -/
def execBfi (o : R3) (w : BitVec 5) (s : State) : Out :=
  let q := amount (s.getS o.b)
  (Eff.value s o.d (setBits (s.getS o.d) (fieldTop q (w.toNat + 1)) q (s.getS o.a).toNat)).out

/-- `sel` (R194). -/
def execSel (o : R3) (c : Reg) (s : State) : Out :=
  (Eff.value s o.d (if s.getS c != 0 then s.getS o.a else s.getS o.b)).out

/-- `selz` (R194). -/
def execSelz (o : R3) (c : Reg) (s : State) : Out :=
  (Eff.value s o.d (if s.getS c == 0 then s.getS o.a else s.getS o.b)).out

end Sys2Proof.Machine
end

