-- ==== Sys2Proof/Machine/LocalMem.lean ====
section
/-! DEFINITION. Local loads, stores and the local atomic (R171 to R173). -/

namespace Sys2Proof.Machine

/-- A scalar load's destination, zero- or sign-extended (R171). -/
def scalarDest (d : Reg) (ext : Bool) (bs : List Byte) : List (Dest × WinVal) :=
  [(.s d, .s (BitVec.ofInt 64 ((IFmt.mk (8 * bs.length) ext).read (ofLE bs))))]

/-- A scalar load of local memory. -/
def Eff.scalarLoad (s : State) (o : LdOp) (size : Nat) (ext : Bool) : Eff := Eff.loadLocal s o size (scalarDest o.d ext)

/-- A scalar store of local memory: the residues of the data and the base are checked first (R168). -/
def Eff.scalarStore (s : State) (o : StOp) (size : Nat) : Eff :=
  Eff.residues s [o.s, o.a] (Eff.storeLocal s o size (leBytes size (s.getS o.s).toNat))

/-- What an atomic stores over the old value: the operations 0 to 9 of R166 at a width of w bits (R173). -/
def atomicNew (op : BitVec 5) (w old b cmp : Nat) : Nat :=
  let sg : IFmt := ⟨w, true⟩
  match op.toNat with
  | 0 => (old + b) % 2 ^ w
  | 1 => old &&& b
  | 2 => old ||| b
  | 3 => old ^^^ b
  | 4 => if sg.read old ≤ sg.read b then old else b
  | 5 => if sg.read b ≤ sg.read old then old else b
  | 6 => if old ≤ b then old else b
  | 7 => if b ≤ old then old else b
  | 8 => b
  | _ => if old = cmp then b else old

/-- Whether the atomic writes: the value changes, or a swap, or a cas whose compare is equal (R173). -/
def atomicWrites (op : BitVec 5) (old new cmp : Nat) : Bool := new != old || op == 8 || (op == 9 && old == cmp)

/-- The local atomic (R173). -/
def Eff.localAtomic (s : State) (o : R3) (op : BitVec 5) (size : Nat) : Eff :=
  let ea := s.getS o.a
  let w := 8 * size
  let b := (s.getS o.b).toNat % 2 ^ w
  let cmp := (s.getS o.d).toNat % 2 ^ w
  Eff.address s ea o.a onlyLocal size size true fun p =>
    match p with
    | .loc off =>
      Eff.readLocal s off size fun s bs =>
        let old := ofLE bs
        let new := atomicNew op w old b cmp
        let k (s : State) : Eff := .done (s.writeS o.d (BitVec.ofNat 64 old))
        if atomicWrites op old new cmp then Eff.writeLocal s ea off (leBytes size new) k else k s
    | _ => .trap s cPROT ea false true

/-- `ld.b` (R171). -/
def execLdB (o : LdOp) (s : State) : Out :=
  (Eff.scalarLoad s o 1 false).out

/-- `ld.h` (R171). -/
def execLdH (o : LdOp) (s : State) : Out :=
  (Eff.scalarLoad s o 2 false).out

/-- `ld.w` (R171). -/
def execLdW (o : LdOp) (s : State) : Out :=
  (Eff.scalarLoad s o 4 false).out

/-- `ld.d` (R171). -/
def execLdD (o : LdOp) (s : State) : Out :=
  (Eff.scalarLoad s o 8 false).out

/-- `ld.bs` (R171). -/
def execLdBs (o : LdOp) (s : State) : Out :=
  (Eff.scalarLoad s o 1 true).out

/-- `ld.hs` (R171). -/
def execLdHs (o : LdOp) (s : State) : Out :=
  (Eff.scalarLoad s o 2 true).out

/-- `ld.ws` (R171). -/
def execLdWs (o : LdOp) (s : State) : Out :=
  (Eff.scalarLoad s o 4 true).out

/-- `st.b` (R171). -/
def execStB (o : StOp) (s : State) : Out :=
  (Eff.scalarStore s o 1).out

/-- `st.h` (R171). -/
def execStH (o : StOp) (s : State) : Out :=
  (Eff.scalarStore s o 2).out

/-- `st.w` (R171). -/
def execStW (o : StOp) (s : State) : Out :=
  (Eff.scalarStore s o 4).out

/-- `st.d` (R171). -/
def execStD (o : StOp) (s : State) : Out :=
  (Eff.scalarStore s o 8).out

/-- `lda.w` (R173). -/
def execLdaW (o : R3) (op : BitVec 5) (s : State) : Out :=
  (Eff.localAtomic s o op 4).out

/-- `lda.d` (R173). -/
def execLdaD (o : R3) (op : BitVec 5) (s : State) : Out :=
  (Eff.localAtomic s o op 8).out

end Sys2Proof.Machine
end

