-- ==== Sys2Proof/Machine/Control.lean ====
section
/-! DEFINITION. Branches, jumps, calls, returns and repetition (R201 to R204, R155 to R157). -/

namespace Sys2Proof.Machine

/-- The target of a PC-relative branch or jump: its first word's address and twice the offset (R201, R202). -/
def State.relative (s : State) (off : Int) : Word := s.me.pc0 + BitVec.ofInt 64 (2 * off)

/-- The link of a call: the address of the instruction after its second delay slot (R155). -/
def State.link (s : State) : Word := s.after s.cur s.me.pc2

/-- A jump to a target from a register: bit 0 set raises ALIGN at the jump (R203). -/
def Eff.jumpTo (s : State) (t : Word) (k : State → State) : Eff :=
  if bit t 0 then .trap s cALIGN t false false else .branch (k s) (some t) false

/-- `b` (R201). -/
def execB (o : BrOp) (s : State) : Out :=
  (Eff.noBody s (if condition o.cc (s.getS o.a) then .branch s (some (s.relative o.off)) false else .branch s none o.n)).out

/-- `j` (R202). -/
def execJ (off : Int) (s : State) : Out := (Eff.noBody s (.branch s (some (s.relative off)) false)).out

/-- `call` (R202): the link goes to s31. -/
def execCall (off : Int) (s : State) : Out :=
  (Eff.noBody s (.branch (s.writeS 31 s.link) (some (s.relative off)) false)).out

/-- `jr` (R203). -/
def execJr (a : Reg) (s : State) : Out := (Eff.noBody s (Eff.jumpTo s (s.getS a) id)).out

/-- `callr` (R203): the target is read before the link is written. -/
def execCallr (a : Reg) (s : State) : Out := (Eff.noBody s (Eff.jumpTo s (s.getS a) fun s => s.writeS 31 s.link)).out

/-- `ret` (R203). -/
def execRet (s : State) : Out := (Eff.noBody s (Eff.jumpTo s (s.getS 31) id)).out

/-- Why a body chain is refused at its `rep` (R204): a word outside the code window, or a breach of R142; the first, too, before pass 0
and with c = 0 (assumption 94). -/
def State.bodyFault (s : State) (id : StrandId) (a : Word) : Option (BitVec 8 × Word) :=
  let len := (s.code id.cor).2
  match decode (s.chainAt id a) with
  | .error .truncated => some (cPROT, if len ≤ a.toNat then a else BitVec.ofNat 64 len)
  | .error .prefixRun => some (cILLEGAL, a)
  | .error .prefixRefused => some (cILLEGAL, a)
  | _ => none

/-- The addresses of the next n chains from `a` and the address after them, or the first fault. -/
def State.bodyFrom (s : State) (id : StrandId) : Nat → Word → Except (BitVec 8 × Word) (List Word × Word)
  | 0, a => .ok ([], a)
  | n + 1, a =>
    match s.bodyFault id a with
    | some f => .error f
    | none =>
      match s.bodyFrom id n (s.after id a) with
      | .error f => .error f
      | .ok (l, e) => .ok (a :: l, e)

/-- A strand's position moved to the chain that a trap names (R204). -/
def State.moveTo (s : State) (a : Word) : State :=
  let b := s.after s.cur a
  s.onMe fun x => { x with pc0 := a, pc1 := b, pc2 := s.after s.cur b }

/-- `rep` (R157, R204): the body is the next n chains; c is read once.  The trap record of a body outside the code window names no
address (assumption 94). -/
def execRep (o : RepOp) (s : State) : Out :=
  (Eff.noSlot s (Eff.noBody s
    (match s.bodyFrom s.cur (o.nm1.toNat + 1) s.me.pc1 with
    | .error (c, a) => .trap (s.moveTo a) c 0 false false
    | .ok (body, after) =>
      let r : RepRun := ⟨body, after, s.getS (o.cnt.setWidth 5), 0, 0, o.stride, o.fields⟩
      .settled ((s.onMe fun x => Strand.repAt s s.cur x r 0).counted s.cur false)))).out

/-- A vector register number moved by a pass (R157). -/
def shiftReg (k : Nat) (r : Reg) : Reg := BitVec.ofNat 5 (r.toNat + k)

/-- A group number moved by a pass. -/
def shiftGroup (k : Nat) (g : BitVec 3) : BitVec 3 := BitVec.ofNat 3 (g.toNat + k)

/-- The instruction as pass p of a `rep` executes it: the selected fields that name vector registers or groups are
renumbered (R157, R204).  `f` answers whether field 0 (rd), 1 (ra) or 2 (rb) is selected, and k is stride · p. -/
def renumber (f : Nat → Bool) (k : Nat) (i : Instr) : Instr :=
  let v0 (r : Reg) : Reg := if f 0 then shiftReg k r else r
  let v1 (r : Reg) : Reg := if f 1 then shiftReg k r else r
  let v2 (r : Reg) : Reg := if f 2 then shiftReg k r else r
  let g0 (g : BitVec 3) : BitVec 3 := if f 0 then shiftGroup k g else g
  let g1 (g : BitVec 3) : BitVec 3 := if f 1 then shiftGroup k g else g
  let g2 (g : BitVec 3) : BitVec 3 := if f 2 then shiftGroup k g else g
  let w3 (o : V3) : V3 := { o with d := v0 o.d, a := v1 o.a, b := v2 o.b }
  let w2 (o : V2) : V2 := { o with d := v0 o.d, a := v1 o.a }
  let wc (o : VCmp) : VCmp := { o with a := v1 o.a, b := v2 o.b }
  match i with
  | .vadd o x => .vadd (w3 o) x
  | .vsub o x => .vsub (w3 o) x
  | .vmul o x => .vmul (w3 o) x
  | .vmulh o x => .vmulh (w3 o) x
  | .vfma o x => .vfma (w3 o) x
  | .vfms o x => .vfms (w3 o) x
  | .vfnma o x => .vfnma (w3 o) x
  | .vfnms o x => .vfnms (w3 o) x
  | .vmin o x => .vmin (w3 o) x
  | .vmax o x => .vmax (w3 o) x
  | .vabd o x => .vabd (w3 o) x
  | .vavg o x => .vavg (w3 o) x
  | .vdot4 o x => .vdot4 (w3 o) x
  | .vdot2 o x => .vdot2 (w3 o) x
  | .vand o => .vand (w3 o)
  | .vor o => .vor (w3 o)
  | .vxor o => .vxor (w3 o)
  | .vandn o => .vandn (w3 o)
  | .vshl o => .vshl (w3 o)
  | .vshr o => .vshr (w3 o)
  | .vsra o => .vsra (w3 o)
  | .vrol o => .vrol (w3 o)
  | .vsel o => .vsel (w3 o)
  | .vperm o => .vperm (w3 o)
  | .vzip o => .vzip (w3 o)
  | .vuzp o => .vuzp (w3 o)
  | .vcmpEq o => .vcmpEq (wc o)
  | .vcmpLt o => .vcmpLt (wc o)
  | .vcmpLe o => .vcmpLe (wc o)
  | .vcmpNe o => .vcmpNe (wc o)
  | .vcvt o x => .vcvt { o with d := v0 o.d, a := v1 o.a } x
  | .vredAdd o x => .vredAdd (w2 o) x
  | .vredMin o x => .vredMin (w2 o) x
  | .vredMax o x => .vredMax (w2 o) x
  | .vredAddo o x => .vredAddo (w2 o) x
  | .vsf o f x => .vsf (w2 o) f x
  | .vsfFast o f x => .vsfFast (w2 o) f x
  | .vld o m => .vld { o with d := v0 o.d } m
  | .vst o m => .vst { o with s := v0 o.s } m
  | .vgat o => .vgat { o with d := v0 o.d, b := v2 o.b }
  | .vsct o => .vsct { o with d := v0 o.d, b := v2 o.b }
  | .vbc o => .vbc { o with d := v0 o.d }
  | .vins o => .vins { o with d := v0 o.d }
  | .vidx o => .vidx { o with d := v0 o.d }
  | .vext o t => .vext { o with a := v1 o.a } t
  | .vrot o => .vrot { o with d := v0 o.d, a := v1 o.a }
  | .vrng o m => .vrng { o with d := v0 o.d, a := v1 o.a } m
  | .vrngF o m => .vrngF { o with d := v0 o.d, a := v1 o.a } m
  | .mmma o =>
    .mmma { o with a := if o.fn.getLsbD 0 then (g1 (o.a.setWidth 3)).setWidth 5 else o.a
                   b := if o.fn.getLsbD 1 then (g2 (o.b.setWidth 3)).setWidth 5 else o.b }
  | .dpt d a m l => .dpt d (v1 a) m l
  | .dpte d g m l => .dpte d (g1 g) m l
  | .dpm d a b m l => .dpm d (v1 a) (v2 b) m l
  | .dmom d a f m => .dmom (v0 d) a f m
  | .dqnt d a b m => .dqnt (v0 d) a (v2 b) m
  | .dcdf d a b m => .dcdf (v0 d) a (v2 b) m
  | .qtm d a f => .qtm (v0 d) a f
  | .qfin g a la => .qfin (g0 g) a la
  | .qdec d g b => .qdec d (g1 g) b
  | .vldf o => .vldf { o with d := v0 o.d }
  | .vstf o => .vstf { o with s := v0 o.s }
  | .accV16 a b => .accV16 a (v2 b)
  | i => i

/-- Field n of a body instruction is selected: every one, rd, rd and ra, or all three (R150). -/
def selects (fields : BitVec 2) (n : Nat) : Bool := fields == 0 || decide (n < fields.toNat)

/-- The instruction that a strand executes where PC0 holds `i`. -/
def Strand.pass (x : Strand) (i : Instr) : Instr :=
  match x.rep with
  | none => i
  | some r => renumber (selects r.fields) (r.stride.toNat * r.pass.toNat) i

end Sys2Proof.Machine
end

