-- ==== Sys2Proof/Machine/Schedule.lean ====
section
/-! DEFINITION. Which strand issues next (R18, R299, R321), and the step of an annulled instruction (R155). -/

namespace Sys2Proof.Machine

/-- A strand's place among the four physical slots of its tile: the first resident corridor counts from 0 upward, the
second from 3 downward (R319). -/
def State.physSlot (s : State) (id : StrandId) : Nat :=
  if isDepotId id || (s.vtile id.cor id.vt).resid == 0 then id.slot else 3 - id.slot

/-- The strands that stand on a physical tile: of the depot, or of a corridor placed and not yet ended. -/
def State.onTile (s : State) (p : Nat) : List StrandId :=
  (s.strands.map Prod.fst).filter fun id => s.phys id.cor id.vt == p

/-- The commands that a strand has queued on its tile's matrix unit, the running one among them. -/
def State.matrixOf (s : State) (id : StrandId) : List MCmd :=
  let t := s.tile (s.phys id.cor id.vt)
  (t.queue ++ t.cmdRunning.toList).filter fun c => decide (c.id = id)

/-- The accumulator slot that a handle names among a strand's slots. -/
def Strand.slotOf (x : Strand) (h : Word) : Option Nat := (x.handles.find? fun p => p.1 == h).map Prod.snd

/-- A transaction of a window is open. -/
def State.readOpen (s : State) (id : StrandId) (w : Nat) : Bool :=
  s.fabric.open_.any fun t => match t.use with | .read i n _ => decide (i = id ∧ n = w) | _ => false

/-- The loads, stores and atomics on far memory that a strand has made are performed (R67, R68). -/
def State.accessesDone (s : State) (id : StrandId) : Bool :=
  let x := s.strand id
  x.inflight == 0 && !(s.atomics.any fun a => decide (a.id = id)) &&
    x.windows.all fun w => w.read.isNone && !s.readOpen id w.id

/-- What a strand that waits to issue again waits for (R321). -/
def State.holds (s : State) (id : StrandId) (c : WaitCond) : Bool :=
  let x := s.strand id
  match c with
  | .fifo => decide (x.fifo.length < 8)
  | .mailbox => !x.mailbox.isEmpty
  | .matrixQueue => decide ((s.tile (s.phys id.cor id.vt)).queue.length < 16)
  | .slotIdle h => !((s.matrixOf id).any fun c => x.slotOf h == some c.slot)
  | .matrixIdle => (s.matrixOf id).isEmpty
  | .matrixStarted => !((s.tile (s.phys id.cor id.vt)).queue.any fun c => decide (c.id = id))
  | .staged => !((List.range 16).any fun t => owedIn (s.stageTile id.cor id.vt t).staged 0 0x200000)
  | .event => x.depot.evt != 0
  | .probe => !(s.fabric.open_.any fun t => match t.use with | .probe i _ => decide (i = id) | _ => false)
  | .fenced => x.fifo.isEmpty && x.pushing.isNone
  | .windows => x.allLanded
  | .stored => s.accessesDone id
  | .walks => decide ((s.die (s.phys id.cor id.vt / 144)).queued.length < 256)

/-- The corridor of a strand runs on its tile, or the strand is the depot's. -/
def State.corRuns (s : State) (id : StrandId) : Bool :=
  isDepotId id || (match (s.cor id.cor).state with | .running => true | .stopping => true | _ => false)

/-- Nothing but what the strand waits for keeps it from issuing: it runs, and no window has ended before its data has landed
(R158, R321). -/
def State.free_ (s : State) (id : StrandId) : Bool :=
  let x := s.strand id
  x.status == .running && s.corRuns id && !(x.windows.any fun w => w.left == 0 && !w.landed)

/-- A strand is ready (R321); after `yld` once no strand is left in its set (R299). -/
def State.ready (s : State) (id : StrandId) : Bool :=
  s.free_ id &&
    (match (s.strand id).wait with
     | .none => true
     | .again c => s.holds id c
     | .yield l => l.isEmpty
     | _ => false)

/-- The strand of a tile in a physical slot; of two corridors that alternate, the one that runs (R320). -/
def State.strandAt (s : State) (p slot : Nat) : Option StrandId :=
  (s.onTile p).find? fun id => s.physSlot id == slot && s.corRuns id

/-- The sets of yielding strands at the end of a cycle: a strand that is not ready leaves them, and the yielding strand itself
once it has not been the one to issue (R299). -/
def State.settleYields (s : State) (issuer : Option StrandId) : State :=
  s.mapStrands fun id x =>
    match x.wait with
    | .yield l =>
      let p := s.phys id.cor id.vt
      { x with wait := .yield (l.filter fun q =>
          if q = s.physSlot id then issuer == some id
          else match s.strandAt p q with | some i => s.ready i | none => false) }
    | _ => x

/-- The ready strand of a tile that issues next: the first after the slot that issued last (R18, R321). -/
def State.tileNext (s : State) (p : Nat) : Option StrandId :=
  let t := s.tile p
  (((List.range 4).map fun i => (t.lastIssued + 1 + i) % 4).filterMap fun q => s.strandAt p q).find? s.ready

/-- The tiles that hold strands, those from `turn` on first. -/
def State.tileOrder (s : State) : List Nat :=
  let l := distinct (s.strands.map fun p => s.phys p.1.cor p.1.vt)
  l.filter (fun p => decide (s.turn ≤ p)) ++ l.filter (fun p => decide (p < s.turn))

/-- The strand that issues in this step: the next ready strand of the first tile that has one, the tiles taking turns
(assumption 16). -/
def State.nextStrand (s : State) : Option StrandId := s.tileOrder.findSome? s.tileNext

/-- The strand takes its turn: it executes, its tile and slot issued last, and it leaves the sets of yielding strands. -/
def State.issue (s : State) (id : StrandId) : State :=
  let p := s.phys id.cor id.vt
  let q := s.physSlot id
  let t := s.tile p
  let s := s.setTile p { t with lastIssued := q }
  { s with
    cur := id, turn := p + 1
    strands := s.strands.map fun e =>
      match e.2.wait with
      | .yield l => if s.phys e.1.cor e.1.vt = p then (e.1, { e.2 with wait := .yield (l.filter (· != q)) }) else e
      | _ => e }

/-- The branch instructions, whose two followers are delay slots (R155). -/
def isBranch : Instr → Bool
  | .b _ => true
  | .j _ => true
  | .call _ => true
  | .jr _ => true
  | .callr _ => true
  | .ret => true
  | _ => false

/-- The instructions that R156 forbids in a delay slot. -/
def slotForbidden : Instr → Bool
  | .bar => true
  | .barRed _ _ => true
  | .barEnd => true
  | .barEndr _ _ => true
  | .rep _ => true
  | .mlease _ => true
  | .rfe => true
  | _ => false

/-- The instructions that R156 forbids in the body of a `rep`. -/
def bodyForbidden : Instr → Bool
  | .rep _ => true
  | .bar => true
  | .barRed _ _ => true
  | .barEnd => true
  | .barEndr _ _ => true
  | .ebrk _ => true
  | i => isBranch i

/-- An annulled instruction is decoded and its position judged; it has no other effect (R155, R156). -/
def annulled (i : Instr) (s : State) : State :=
  if (slotForbidden i && s.me.slots != 0) || (bodyForbidden i && s.me.rep.isSome) then raise cILLEGAL 0 false false s
  else (s.advance s.cur none false).counted s.cur (isBranch i)

/-- A fetch that runs past the code window: PROT at the chain's first word, whose code offset is the address (R92,
R137; assumption 15). -/
def outsideFault (s : State) : State := raise cPROT s.me.pc0 false false s

/-- What one step does for the strand whose turn it is, before any instruction of its own. -/
inductive Fetched where
  | run (i : Instr)
  | annul (i : Instr)
  | outside
  | illegal
  deriving DecidableEq, Repr

/-- The instruction at PC0 of the strand executing (R137, R147, R155, R157). -/
def State.fetched (s : State) : Fetched :=
  let x := s.me
  match decode (s.chainAt s.cur x.pc0) with
  | .error .truncated => .outside
  | .error _ => .illegal
  | .ok (i, _) => if x.annul.getLsbD 0 then .annul i else .run (x.pass i)

end Sys2Proof.Machine
end

