-- ==== Sys2Proof/Machine/FarOps.lean ====
section
/-! DEFINITION. The shared operations of far and remote accesses: translation and classes, apertures, transactions with
peers, held writes (R39, R53, R174 to R177, R349 to R355). -/

namespace Sys2Proof.Machine

/-! ### Physical addresses of peers -/

/-- The span of one package's physical addresses (R31).  A frame on package n is kept as (n + 1) spans above its own
physical address. -/
abbrev paSpan : Nat := 4503599627370496

def peerPa (pkg pa : Nat) : Nat := (pkg + 1) * paSpan + pa

/-- The package of an address kept for a peer's frame. -/
def peerOf (pa : Nat) : Option Nat := if pa < paSpan then none else some (pa / paSpan - 1)

/-- The address of a vtile's byte as a message names it: that of T-space (R28). -/
def tspaceVa (vt off : Nat) : Nat := 2 ^ 62 + vt * 0x200000 + off

/-- The data of a remote write on its way to another package: sender vtile and slot, place in program order, mile marker and
run, stage, kind (0 delta, 1 broadcast, 2 cross-stage), byte count, then offset and byte of each cell, the offset with bit 31 set in a
word that carries an error.  The spec names no layout (assumption 18). -/
def wireBytes (vt slot seq : Nat) (mm : Word) (run st kind count : Nat) (o : Overlay) (bad : List Nat) : List Byte :=
  leBytes 4 vt ++ leBytes 1 slot ++ leBytes 8 seq ++ leBytes 8 mm.toNat ++ leBytes 4 run ++ leBytes 1 st ++ leBytes 1 kind ++
    leBytes 4 count ++ o.flatMap fun p => leBytes 4 (p.1 + if bad.contains (p.1 / 8 * 8) then 2 ^ 31 else 0) ++ [p.2]

/-! ### Flits (R352) -/

/-- The pieces of at most k bytes of a message; the first number bounds them. -/
def pieces (k : Nat) : Nat → List Byte → List (List Byte)
  | 0, _ => []
  | n + 1, b => if b.isEmpty then [] else b.take k :: pieces k n (b.drop k)

/-- The flit of a virtual channel, a sequence number and 224 bytes of payload. -/
def flitOf (vc seq : Nat) (payload : List Byte) : List Byte :=
  let b := leBytes 8 (vc % 4 + seq % 2 ^ 24 * 256) ++ (payload ++ List.replicate 224 0).take 224
  let c := b ++ leBytes 8 (crc64 0 b).toNat
  c ++ (List.range 16).map (Config.fecByte c)

/-- The sequence number that follows. -/
def nextSeq (n : Nat) : Nat := (n + 1) % 2 ^ 24

/-- What waits on a port leaves, virtual channel 0 first; each flit is kept for replay, without end, since no event of the
spec frees one (assumption 87).  Nothing leaves while the port retrains or is down (R352, R353). -/
def Port.flush (p : Port) : Port :=
  if p.retraining || p.down then p
  else
    (p.waiting.filter (fun w => w.1 == 0) ++ p.waiting.filter (fun w => w.1 != 0)).foldl (fun q w =>
      { q with sent := q.sent ++ [flitOf w.1 q.next w.2], next := nextSeq q.next }) { p with waiting := [] }

/-- A message goes out on a virtual channel of a port. -/
def Port.post (p : Port) (vc : Nat) (b : List Byte) : Port :=
  { p with waiting := p.waiting ++ (pieces 224 b.length b).map fun x => (vc, x) }.flush

def State.onFabric (s : State) (f : Fabric → Fabric) : State := { s with fabric := f s.fabric }
def State.port (s : State) (n : Nat) : Port := KMap.getD s.fabric.ports n Port.reset
def State.setPort (s : State) (n : Nat) (p : Port) : State := s.onFabric fun f => { f with ports := KMap.set f.ports n p }

/-- The virtual channel of a request: junctions have their own (R352, R358). -/
def channelOf : FabricKind → Nat
  | .jct => 0
  | _ => 1

/-- The number of a kind. -/
def kindCode : FabricKind → Nat
  | .rd => 0 | .wr => 1 | .amo => 2 | .probe => 3 | .drain => 4 | .jct => 5

/-- A request as it leaves: the fields of R354, the addressed target and the data (assumption 18). -/
def Trans.wire (t : Trans) : List Byte :=
  leBytes 1 (kindCode t.kind) ++ leBytes 2 t.tag ++ leBytes 1 t.inc ++ leBytes 1 t.attempt ++ leBytes 2 t.age ++
    leBytes 2 t.epoch ++ leBytes 4 t.pasid ++ leBytes 8 t.va ++ leBytes 4 t.size ++ leBytes 1 t.op.toNat ++ t.data

/-- An attempt of a transaction leaves on its port. -/
def State.transmit (s : State) (t : Trans) : State := s.setPort t.port ((s.port t.port).post (channelOf t.kind) t.wire)

/-! ### Transactions (R354, R355) -/

/-- The port on which transactions leave: the lowest that is not down (assumption 25). -/
def Fabric.route (f : Fabric) : Nat :=
  ((List.range 18).find? fun p => !(KMap.getD f.ports p Port.reset).down).getD 0

/-- The lowest tag for a destination that is neither open nor quarantined. -/
def State.freeTag (s : State) (pkg : Nat) : Option Nat :=
  (List.range 1024).find? fun t =>
    !(s.fabric.open_.any fun x => decide (x.pkg = pkg ∧ x.tag = t)) && !(s.fabric.quarantine.contains (pkg, t))

/-- Opens a transaction, its tag with the next incarnation; none while every tag is taken. -/
def State.openTrans (s : State) (pkg : Nat) (kind : FabricKind) (pasid va size : Nat) (op : BitVec 5) (data : List Byte)
    (use : TransUse) : Option State :=
  (s.freeTag pkg).map fun t =>
    let f := s.fabric
    let inc := (KMap.getD f.tags (pkg, t) 63 + 1) % 64
    let x : Trans := ⟨pkg, t, inc, f.route, kind, 0, 0, KMap.getD f.epochs pkg 0, pasid, va, size, op, data, use⟩
    State.transmit { s with fabric := { f with tags := KMap.set f.tags (pkg, t) inc, open_ := f.open_ ++ [x] } } x

/-! ### Translation of a strand's far address (R36 to R40, R350, R351) -/

/-- The PASID and context that an access of a corridor, or of the depot, carries. -/
def State.space (s : State) (c : Nat) : Nat × Option Nat :=
  if c = depotCor then ((KMap.getD s.host.funcs 0 Func.reset).pasid, none) else ((s.cor c).pasid, (s.cor c).ctx)

/-- The aperture that a device VA falls in. -/
def State.apertureAt (s : State) (pasid va : Nat) : Option Aperture :=
  ((s.host.apertures.filter fun p => p.1.1 == pasid).find? fun p =>
    decide (p.2.va ≤ va ∧ va < p.2.va + p.2.size)).map Prod.snd

/-- The kind of access that a probe asks about, as a number. -/
def XKind.code (k : XKind) : Nat := (if k.read then 1 else 0) + (if k.write then 2 else 0) + (if k.user then 4 else 0)

/-- Asks the package of an aperture for the translation of an address (R351). -/
def State.probe (s : State) (id : StrandId) (a : Aperture) (va size : Nat) (k : XKind) : Option State :=
  s.openTrans a.pkg .probe a.pasid (a.target + (va - a.va)) size (BitVec.ofNat 5 k.code) [] (.probe id va)

/-- The answers to a corridor's probes hold for one superstep run; they are forgotten with it. -/
def State.dropProbes (s : State) (c : Nat) : State :=
  let p := (s.space c).1
  { s with fabric := { s.fabric with probes := s.fabric.probes.filter fun e => e.1.1 != p } }

/-- A peer's answer about a page is forgotten, so that it is asked again. -/
def State.forgetProbe (s : State) (pasid va : Nat) : State :=
  { s with fabric := { s.fabric with probes := s.fabric.probes.filter fun e => !(e.1.1 == pasid && e.1.2 / 8 == va / 4096) } }

/-- What a far address leads to. -/
inductive FarAt where
  | at_ (pa : Nat) (cls : BitVec 2)
  | probe (a : Aperture)
  | bad (f : XFault)
  deriving DecidableEq, Repr

/-- Where an access of a corridor on a tile leads: through an aperture as the peer answered its probe, else by the local
tables. -/
def State.farAt (s : State) (c tile va : Nat) (k : XKind) : FarAt :=
  let sp := s.space c
  match s.apertureAt sp.1 va with
  | some a =>
    match KMap.get? s.fabric.probes (sp.1, va / 4096 * 8 + k.code) with
    | none => .probe a
    | some (frame, cls, cause) => if cause = 0 then .at_ (peerPa a.pkg (frame + va % 4096)) cls else .bad ⟨cause, false⟩
  | none =>
    match translate s tile sp.1 sp.2 k va with
    | .error f => .bad f
    | .ok e => if frameLost s (e.pa va) then .bad ⟨cHOME_LOST, false⟩ else .at_ (e.pa va) e.cls

/-- The caches and counters take note of a translation made on a tile. -/
def State.noteFar (s : State) (c tile va : Nat) : State :=
  let sp := s.space c
  match s.apertureAt sp.1 va with
  | some _ => s
  | none => noteTranslation s tile sp.1 sp.2 va

/-- A translation on a tile has to wait for a place in its die's walk queue, or for a path to the tables (R41, R348). -/
def State.walkFull (s : State) (c tile va : Nat) : Bool :=
  let sp := s.space c
  (s.apertureAt sp.1 va).isNone && walkStalls s tile sp.1 sp.2 va

/-- Counts the lines of a far access at its home controllers (R44). -/
def State.noteLines (s : State) (tile pa n : Nat) : State :=
  if pa < paSpan then countLines s tile pa (linesOf pa n).length else bumpCounter s (tile / 144) 1 (linesOf pa n).length

/-- A probe of an aperture's page is under way for the strand. -/
def State.probing (s : State) (id : StrandId) : Bool :=
  s.fabric.open_.any fun t => match t.use with | .probe i _ => decide (i = id) | _ => false

/-- Goes on with the physical address and class of a checked far address of the strand executing: an off-package page
is probed first, and a class outside `classes` raises PROT (R39, R351).  An `acc` or `amoi` is judged as a write alone
(R37; assumption 76).  A depot strand's access waits for those before it, so that its accesses to one byte keep program
order, and asks a peer anew each time (R67). -/
def Eff.far (s : State) (va size : Nat) (wr : Bool) (classes : List (BitVec 2)) (k : State → Nat → BitVec 2 → Eff) : Eff :=
  let c := s.cur.cor
  let s' := s.noteFar c s.myTile va
  let used (t : State) : State := if s.isDepot then t.forgetProbe (s.space c).1 va else t
  if s.isDepot && !s.accessesDone s.cur then .stall s .stored
  else if s.walkFull c s.myTile va then .stall s .walks
  else
    match s.farAt c s.myTile va ⟨!wr, wr, !s.isDepot⟩ with
    | .bad f => .trap (used s') f.cause (BitVec.ofNat 64 va) f.s2 wr
    | .probe a =>
      if s.probing s.cur then .stall s .probe
      else
        match s.probe s.cur a va size ⟨!wr, wr, !s.isDepot⟩ with
        | some t => .stall t .probe
        | none => .stall s .probe
    | .at_ pa cls =>
      if classes.contains cls then k (used s') pa cls else .trap (used s') cPROT (BitVec.ofNat 64 va) false wr

/-! ### Far memory -/

/-- Reads far memory of this package. -/
def State.farRead (s : State) (pa n : Nat) : List Byte := Mem.readN s.far.mem pa n

/-- Lines that have failed once count as rewritten with a write to them (R368). -/
def rewriteLines (m : KMap Nat LineFault) (f : Nat → Bool) : KMap Nat LineFault :=
  m.map fun p => (p.1, if f p.1 && p.2 == .failed then .rewritten else p.2)

/-- Writes far memory of this package at its home controller; the words written lose their poison. -/
def State.farWrite (s : State) (pa : Nat) (bs : List Byte) : State :=
  { s with far := { s.far with
      mem := Mem.write s.far.mem pa bs
      poison := s.far.poison.filter fun w => !decide (pa ≤ w ∧ w + 8 ≤ pa + bs.length)
      faulty := rewriteLines s.far.faulty fun l => (linesOf pa bs.length).contains l } }

/-! ### Held writes (R53, R98) -/

/-- The place of the next write in a strand's program order (R54). -/
def State.bumpSeq (s : State) (id : StrandId) : State := s.onStrand id fun x => { x with seq := x.seq + 1 }

/-- A vtile holds a strand of the stage (R58). -/
def State.sameStage (s : State) (c vt st : Nat) : Bool := (s.cor c).image.holds vt st

/-- A vtile lies on this package (R318). -/
def State.onPackage (s : State) (c vt : Nat) : Bool :=
  let k := s.cor c
  let plane := k.image.x * k.image.y
  let z := vt / (if plane = 0 then 1 else plane)
  let first := bits (k.word 13) 13 4
  decide (first ≤ z ∧ z < first + bits (k.word 13) 24 14)

/-- Bytes of a strand's write to another vtile: on their way as a delta of the stage, counted as pending, or held at the
sender as cross-stage data (R53, R85). -/
def State.sendRemote (s : State) (id : StrandId) (seq target off : Nat) (bs : List Byte) : State :=
  let st := (s.strand id).stage
  let x := s.stageTile id.cor id.vt st
  let w : Sent := ⟨target, id.slot, seq, (s.stage id.cor st).mm, (s.stage id.cor st).run, runCells off bs, false, bs.length⟩
  if s.sameStage id.cor target st then
    s.setStageTile id.cor id.vt st { x with outbound := x.outbound ++ [w], pending := x.pending + bs.length }
  else s.setStageTile id.cor id.vt st { x with cross := x.cross ++ [w] }

/-- Bytes of a strand's write to a versioned page, logged until commit (R53, R55). -/
def State.logFar (s : State) (id : StrandId) (seq pa : Nat) (bs : List Byte) : State :=
  let st := (s.strand id).stage
  let x := s.stageTile id.cor id.vt st
  s.setStageTile id.cor id.vt st { x with farlog := x.farlog ++ [⟨(s.stage id.cor st).mm, id.vt, id.slot, seq, runCells pa bs, [], []⟩] }

/-- An accumulate's cells, logged until commit (R56). -/
def State.logCells (s : State) (id : StrandId) (seq : Nat) (cells : KMap Nat (BitVec 128)) : State :=
  let st := (s.strand id).stage
  let x := s.stageTile id.cor id.vt st
  s.setStageTile id.cor id.vt st { x with farlog := x.farlog ++ [⟨(s.stage id.cor st).mm, id.vt, id.slot, seq, [], cells, []⟩] }

/-- An operation held in the strand's queue until commit, at its place in program order (R62). -/
def State.hold (s : State) (id : StrandId) (seq : Nat) (h : HeldOp) : State :=
  s.onStrand id fun x => { x with
    held := x.held.filter (fun p => decide (p.1 ≤ seq)) ++ (seq, h) :: x.held.filter fun p => decide (seq < p.1) }

/-- Goes on with the state after a held write if its entries fit the stage's share, else raises DELTA_FULL (R99). -/
def Eff.fitting (s t : State) (ea : Word) (k : State → Eff) : Eff :=
  if t.fits s.cur.cor s.cur.vt s.me.stage then k t else .trap s cDELTA_FULL ea false true

/-! ### Loads (R174) -/

/-- What a far load's bytes become in its destination. -/
def destValue (d : Dest) (bs : List Byte) : WinVal :=
  match d with
  | .s _ => .s (BitVec.ofNat 64 (ofLE bs))
  | .v _ => .v (bytesLine bs)
  | .d _ => .d (bytesDist bs)

/-- A byte of another vtile of the corridor is owed by a staged fill (R52). -/
def State.owedAt (s : State) (c vt off n : Nat) : Bool :=
  c != depotCor && (List.range 16).any fun t => owedIn (s.stageTile c vt t).staged off n

/-- The fabric group of a corridor (R308). -/
def Corridor.group (k : Corridor) : Nat := bits (k.word 13) 47 32

/-- The package that holds a vtile's plane (R349). -/
def State.homePackage (s : State) (c vt : Nat) : Nat :=
  let k := s.cor c
  let plane := k.image.x * k.image.y
  KMap.getD s.fabric.planes (k.group, c, vt / (if plane = 0 then 1 else plane)) 0

/-- The packages of a corridor in ascending order of their planes; this package alone where it holds every plane. -/
def State.ranks (s : State) (c : Nat) : List Nat :=
  let k := s.cor c
  if bits (k.word 13) 24 14 = k.image.z then [s.fabric.pkg]
  else
    (distinct (((List.range k.image.z).map fun z =>
      KMap.getD s.fabric.planes (k.group, c, z) s.fabric.pkg).reverse)).reverse

/-- Other packages hold planes of the corridor too. -/
def State.spread (s : State) (c : Nat) : Bool := decide (1 < (s.ranks c).length)

/-! ### Egress (R359) -/

/-- The packets of a message: at most 4,096 bytes each, with the template, the message's number and their byte offsets. -/
def packetsOf (k : SendQueue) (b : List Byte) : List UePacket :=
  let l := pieces 4096 b.length b
  (List.range l.length).map fun i => ⟨k.header, k.number, 4096 * i, l.getD i []⟩

/-- A SEND becomes the next message of its queue. -/
def State.sendMessage (s : State) (id : StrandId) (q : Nat) (b : List Byte) : State :=
  let k := KMap.getD s.host.sendQueues q SendQueue.reset
  let k := { k with inflight := k.inflight ++ [⟨id, k.number, packetsOf k b⟩], number := k.number + 1 }
  { s with host := { s.host with sendQueues := KMap.set s.host.sendQueues q k } }

/-! ### Loads of every space -/

/-- The window of a far or remote load whose data is still to come. -/
def State.await (s : State) (o : LdOp) (size : Nat) (d : Dest) (r : Option FarRead) : State :=
  (s.postInc o.a o.inc size).open_ o.la [(d, destValue d [])] r false

/-- A load of `size` bytes from space 00, 01 or 10 into one destination. -/
def Eff.loadFar (s : State) (o : LdOp) (size : Nat) (d : Dest) : Eff :=
  let ea := s.ea o.a o.off size
  let inc (s : State) : State := s.postInc o.a o.inc size
  let fin (s : State) (bs : List Byte) : Eff := .done ((inc s).open_ o.la [(d, destValue d bs)] none true)
  let ask (s : State) (pkg pasid va : Nat) (op : BitVec 5) (addr : Nat) : Eff :=
    match s.openTrans pkg .rd pasid va size op [] (.read s.cur s.me.nextWin addr) with
    | none => .stall s .probe
    | some t => .done (t.await o size d none)
  Eff.address s ea o.a anySpace size size false fun p =>
    match p with
    | .loc off => (Eff.readLocal s off size fin).issued inc
    | .tsp vt off =>
      let c := s.cur.cor
      if s.isDepot then fin s (s.viewBytes c vt 0 off size)
      else if s.onPackage c vt then
        match s.stagedAt c vt s.me.stage off size with
        | .marked va => .trap (inc s) cSTAGE_FAULT (BitVec.ofNat 64 va) false false
        | .notLanded => .stall s .staged
        | .ready =>
          if !s.joined (s.myTile / 144) (s.phys c vt / 144) then .stall s .staged
          else fin (s.noteReadOf c vt s.cur.vt s.me.stage off size) (Mem.readN (s.tile (s.phys c vt)).mem off size)
      else ask s (s.homePackage c vt) c ea.toNat (BitVec.ofNat 5 s.me.stage) ea.toNat
    | .far va =>
      Eff.far s va size false [0, 1, 2] fun s pa cls =>
        let s := s.noteLines s.myTile pa size
        if s.isDepot then
          match peerOf pa with
          | some pkg => ask s pkg 0 (pa % paSpan) 0 va
          | none => fin s (s.farRead pa size)
        else .done (s.await o size d (some ⟨va, pa, size, d, (s.stage s.cur.cor s.me.stage).mm, cls⟩))

end Sys2Proof.Machine
end

