-- ==== Sys2Proof/Machine/CopyInstr.lean ====
section
/-! DEFINITION. Instructions that hand work to the copy engine, the mailbox and the stager (R71, R72, R77 to R80, R87,
R178 to R183). -/

namespace Sys2Proof.Machine

/-! ### Copy commands (R78 to R80) -/

/-- One dimension of a tensor descriptor: extent, source stride, destination stride (R80). -/
def dimOf (b : List Byte) : Nat × Int × Int :=
  let f : IFmt := ⟨48, true⟩
  (ofLE (b.take 4), f.read (ofLE ((b.drop 4).take 6)), f.read (ofLE ((b.drop 10).take 6)))

/-- The records of a descriptor. -/
def dimsOf (n : Nat) (b : List Byte) : List (Nat × Int × Int) :=
  (List.range n).map fun i => dimOf ((b.drop (16 * i)).take 16)

/-- An address passes order 6 of R79: an accepted space, its must-be-zero bits zero. -/
def spaceOk (a : Word) : Bool :=
  match bits a 63 62 with
  | 0 => bits a 61 21 == 0
  | 1 => bits a 61 37 == 0
  | 2 => bits a 61 48 == 0
  | _ => false

/-- The addresses of a command (R78, R79): FILL's w1, DIGEST's w2 and the w2 of SEND and BCAST are none.  Order 6 takes
BCAST's w2 out by name, order 7 names w2 without a word on it: the model checks no alignment of its offset (assumption 79). -/
def CopyCmd.addrs (c : CopyCmd) : List Word :=
  match bits c.w0 7 0 with
  | 1 => [c.w1, c.w2]
  | 4 => [c.w2]
  | _ => [c.w1]

/-- The number of elements of a command. -/
def CopyCmd.count (c : CopyCmd) : Nat := (c.shape.map fun d => d.1).foldl (· * ·) 1

/-- The targets of a BCAST (R82). -/
def bcastTargets (w2 : Word) : List Nat :=
  (List.range (bits w2 47 37 + 1)).map fun n => bits w2 36 21 + n * bits w2 59 48

/-- The destination offsets of the elements on each target of a BCAST. -/
def CopyCmd.bcastOffsets (c : CopyCmd) : List Int :=
  (elemOffsets c.shape).map fun p => (bits c.w2 20 0 : Int) + (if bits c.w0 35 32 = 0 then p.1 else p.2)

/-- A destination range on a vtile is writable: granted and outside the code window. -/
def State.writable (s : State) (c : Nat) (off : Int) (n : Nat) : Bool :=
  decide (0 ≤ off) && s.inGrant c off.toNat n && !s.inCode c off.toNat n

/-- Order 8 of R79: the tile-set descriptor, target by target (R82). -/
def State.bcastFault (s : State) (id : StrandId) (c : CopyCmd) : Option (BitVec 8) :=
  let st := (s.strand id).stage
  if bits c.w2 59 48 = 0 ∨ bits c.w2 63 60 ≠ 0 then some cCMD_FORMAT
  else
    (bcastTargets c.w2).findSome? fun t =>
      if (s.cor id.cor).image.vtiles ≤ t then some cPROT
      else if !s.sameStage id.cor t st then some cCMD_FORMAT
      else if c.bcastOffsets.all fun o => s.writable id.cor o c.esize then none
      else some cPROT

/-- The send queues that a launch grants (R308). -/
def Corridor.grantsQueue (k : Corridor) (q : Nat) : Bool :=
  decide (bits (k.word 12) 11 0 ≤ q ∧ q < bits (k.word 12) 11 0 + bits (k.word 12) 23 12)

/-- Orders 1 and 2 of R79. -/
def formatOk (w0 w2 w3 : Word) : Bool :=
  let kind := bits w0 7 0
  decide (1 ≤ kind ∧ kind ≤ 5) && bits w0 15 10 == 0 && bits w0 63 40 == 0 && decide (bits w0 35 32 ≤ 13) &&
    decide (bits w0 39 36 ≤ if kind = 4 then 3 else 6) && (kind != 5 || bit w0 9) &&
    (kind != 3 || (bits w0 35 32 == 0 && decide (1 ≤ w3.toNat ∧ w3.toNat ≤ 65536) && bits w2 63 12 == 0))

/-- Orders 6 to 8 of R79, with the address that a trap names (assumption 15).  A depot strand, which no launch record grants queues, may
name every send queue (assumption 94). -/
def State.commandFault (s : State) (id : StrandId) (c : CopyCmd) : Option (BitVec 8 × Word) :=
  let kind := bits c.w0 7 0
  match c.addrs.find? fun a => !spaceOk a with
  | some a => some (cPROT, a)
  | none =>
    if kind = 3 && !isDepotId id && !(s.cor id.cor).grantsQueue (bits c.w2 11 0) then some (cPROT, c.w2)
    else
      match c.addrs.find? fun a => decide (a.toNat % c.esize ≠ 0) with
      | some a => some (cALIGN, a)
      | none =>
        if c.dims.any fun d => decide (d.2.1 % c.esize ≠ 0 ∨ d.2.2 % c.esize ≠ 0) then some (cALIGN, 0)
        else if kind = 2 then (s.bcastFault id c).map fun k => (k, if k = cPROT then c.w2 else 0)
        else none

/-- The bytes that a command will write to other tiles of the issuing stage (R85). -/
def State.pendingOf (s : State) (id : StrandId) (c : CopyCmd) : Nat :=
  let st := (s.strand id).stage
  let total := c.count * c.esize
  match bits c.w0 7 0 with
  | 2 => total * ((bcastTargets c.w2).filter fun t => t != id.vt).length
  | 3 => 0
  | 5 => 0
  | _ =>
    if bits c.w2 63 62 ≠ 1 then 0
    else
      c.esize * ((elemOffsets c.shape).filter fun p =>
        let a := (c.w2.toNat : Int) + p.2
        let vt := bits (BitVec.ofInt 64 a) 36 21
        vt != id.vt && s.sameStage id.cor vt st).length

/-- A command enters the strand's FIFO, its bytes pending (R85, R178). -/
def State.enqueue (s : State) (id : StrandId) (c : CopyCmd) (pending : Nat) : State :=
  let st := (s.strand id).stage
  let x := s.stageTile id.cor id.vt st
  let s := s.setStageTile id.cor id.vt st { x with pending := x.pending + pending }
  s.onStrand id fun y => { y with fifo := y.fifo ++ [{ c with unsent := pending }], seq := y.seq + 1 }

/-- The command that four words give, with its descriptor's records. -/
def State.command (s : State) (w0 w1 w2 w3 : Word) (dims : List (Nat × Int × Int)) : CopyCmd :=
  ⟨w0, w1, w2, w3, dims, false, s.me.seq, s.viewAll s.cur, false, false, 0, 0, [],
    s.owedUnits s.cur, 0⟩

/-- The checks of R79 up to order 8, then the command. -/
def Eff.command (s : State) (w0 w1 w2 w3 : Word) (k : State → CopyCmd → Eff) : Eff :=
  let esize := 2 ^ bits w0 39 36
  let last (s : State) (c : CopyCmd) : Eff :=
    match s.commandFault s.cur c with
    | some (cause, a) => .trap s cause a false false
    | none => k s c
  if !formatOk w0 w2 w3 then .trap s cCMD_FORMAT 0 false false
  else if bits w0 35 32 = 0 then
    if 2 ^ 40 < w3.toNat ∨ w3.toNat % esize ≠ 0 then .trap s cCMD_FORMAT 0 false false
    else last s (s.command w0 w1 w2 w3 [])
  else
    let n := 16 * (bits w0 35 32 + 1)
    let inside := decide (w3.toNat < 0x200000) && s.inGrant s.cur.cor w3.toNat n
    if w3.toNat % 16 ≠ 0 ∧ !inside then .trap s cALIGN w3 false false
    else if !inside then .trap s cPROT w3 false false
    else
      Eff.readLocal s w3.toNat n fun s b =>
        let c := s.command w0 w1 w2 w3 (dimsOf (bits w0 35 32 + 1) b)
        if 2 ^ 40 < c.count then .trap s cCMD_FORMAT 0 false false
        else if w3.toNat % 16 ≠ 0 then .trap s cALIGN w3 false false
        else last s c

/-- The four command words of a group and their residues (R178). -/
def Eff.commandGroup (s : State) (a : Reg) (k : State → CopyCmd → Eff) : Eff :=
  let w (i : BitVec 5) : Word := s.getS (a + i)
  Eff.residues s [a, a + 1, a + 2, a + 3] (Eff.command s (w 0) (w 1) (w 2) (w 3) k)

/-- Order 9 of R79 and the append. -/
def Eff.append (s : State) (c : CopyCmd) (k : State → Eff) : Eff :=
  let t := s.enqueue s.cur c (s.pendingOf s.cur c)
  if bits c.w0 7 0 = 3 ∧ !t.fits s.cur.cor s.cur.vt s.me.stage then .trap s cDELTA_FULL 0 false true else k t

/-- A command as it was judged at issue goes on once the FIFO has a place: until then the strand waits with it, and neither
its words nor its descriptor are read again (R79, R80, R178). -/
def Eff.whenRoom (s : State) (c : CopyCmd) (k : State → Eff) : Eff :=
  if s.me.fifo.length < 8 then k (s.onMe fun x => { x with pushing := none })
  else .stall (s.onMe fun x => { x with pushing := some c }) .fifo

/-- `cpush` (R178). -/
def execCpush (a : Reg) (s : State) : Out :=
  (match s.me.pushing with
   | some c => Eff.whenRoom s c fun s => Eff.append s c Eff.done
   | none => Eff.commandGroup s a fun s c => Eff.whenRoom s c fun s => Eff.append s c Eff.done).out

/-- `cpush.try` (R178). -/
def execCpushTry (d a : Reg) (s : State) : Out :=
  (Eff.commandGroup s a fun s c =>
    if s.me.fifo.length < 8 then Eff.append s c fun s => .done (s.writeS d 0) else .done (s.writeS d 1)).out

/-! ### The mailbox (R87, R179, R180) -/

/-- The head word of an entry. -/
def MailEntry.head (m : MailEntry) : Word :=
  BitVec.ofNat 64 (m.tag.toNat + m.status.toNat * 65536 + m.source.toNat * 16777216)

/-- The number of entries in the mailbox. -/
def Strand.mailCount (x : Strand) : Word := BitVec.ofNat 64 x.mailbox.length

/-- `mbw` (R179): it parks until the mailbox holds an entry. -/
def execMbw (d : Reg) (s : State) : Out :=
  (if s.me.mailbox.isEmpty then Eff.settled (s.onMe fun x => { x with wait := .mail d })
   else .done (s.writeS d s.me.mailCount)).out

/-- `mbw.to` (R179): it parks for at most s[rb] cycles. -/
def execMbwTo (d a : Reg) (s : State) : Out :=
  (if s.me.mailbox.isEmpty && s.getS a != 0 then
     Eff.settled (s.onMe fun x => { x with wait := .mailTimed d (s.clock + (s.getS a).toNat) })
   else .done (s.writeS d s.me.mailCount)).out

/-- The oldest entry leaves the mailbox; a source-0x02 entry is remembered until commit (R63). -/
def Strand.pop (x : Strand) : Strand :=
  match x.mailbox with
  | [] => x
  | m :: r => { x with mailbox := r, popped := if m.source = 2 then x.popped ++ [m] else x.popped }

/-- Writes a register pair. -/
def State.writePair (s : State) (d : Reg) (w0 w1 : Word) : State := (s.writeS d w0).writeS (d + 1) w1

/-- `mbp` (R180). -/
def execMbp (d : Reg) (s : State) : Out :=
  (match s.me.mailbox with
   | [] => Eff.stall s .mailbox
   | m :: _ => .done ((s.onMe Strand.pop).writePair d m.head m.payload)).out

/-- `mbp.try` (R180): status 0xFF when the mailbox is empty. -/
def execMbpTry (d : Reg) (s : State) : Out :=
  (match s.me.mailbox with
   | [] => Eff.done (s.writePair d 0x00FF0000 0)
   | m :: _ => .done ((s.onMe Strand.pop).writePair d m.head m.payload)).out

/-! ### Fetch lists (R71, R72, R182) -/

/-- The first failing order of R72, with the address that fails. -/
def State.fetchFault (s : State) (va dst : Word) (units : Nat) : Option (BitVec 8 × Word) :=
  let sp (a : Word) := bits a 63 62
  let off := bits dst 20 0
  let n := 4096 * units
  let bad11 (a : Word) : Bool := sp a == 3 && !s.isDepot
  if bad11 va then some (cPRIV, va)
  else if bad11 dst then some (cPRIV, dst)
  else if sp va ≠ 2 then some (cPROT, va)
  else if sp dst ≠ 0 then some (cPROT, dst)
  else if bits va 61 48 ≠ 0 then some (cPROT, va)
  else if bits dst 61 21 ≠ 0 then some (cPROT, dst)
  else if va.toNat % 4096 ≠ 0 then some (cALIGN, va)
  else if dst.toNat % 64 ≠ 0 then some (cALIGN, dst)
  else if !s.inGrant s.cur.cor off n || s.inCode s.cur.cor off n then some (cPROT, dst)
  else none

/-- The indices of the entries on a fetch list. -/
def fetchIndices (l : List FetchUnit) : List Nat := distinct (l.map fun u => u.index)

/-- The units of one entry, appended at a clock. -/
def fetchUnits (index slot : Nat) (va dst : Nat) (units : Nat) (notify : Bool) (ea : Word) (now : Nat) : List FetchUnit :=
  (List.range units).map fun i =>
    ⟨index, slot, va + 4096 * i, dst + 4096 * i, i == 0, i + 1 == units, notify, ea, .queued, [], false, now, false⟩

/-- `pfl` and `pfl.n`: the entry takes the lowest free index (R71, R182).  A depot strand, which has no superstep, appends to a list
that no commit stages (assumption 94). -/
def Eff.fetch (s : State) (o : R3) (u : BitVec 5) (notify : Bool) : Eff :=
  let va := s.getS o.a
  let dst := s.getS o.b
  let units := u.toNat + 1
  Eff.residues s [o.a, o.b]
    (match s.fetchFault va dst units with
     | some (c, a) => .trap s c a false false
     | none =>
       let x := s.mine
       let used := fetchIndices x.fetch
       match (List.range 64).find? fun i => !used.contains i with
       | none => .trap s cPFL_FULL 0 false false
       | some i =>
         let us := fetchUnits i s.cur.slot (bits va 47 0) (bits dst 20 0) units notify va s.clock
         .done ((s.setMine { x with fetch := x.fetch ++ us }).writeS o.d (BitVec.ofNat 64 i)))

/-- `pfl` (R182). -/
def execPfl (o : R3) (u : BitVec 5) (s : State) : Out := (Eff.fetch s o u false).out

/-- `pfl.n` (R182). -/
def execPflN (o : R3) (u : BitVec 5) (s : State) : Out := (Eff.fetch s o u true).out

/-- A directory record is that of a unit. -/
def DirRec.ofUnit (r : DirRec) (c vt st : Nat) (k : UnitKey) : Bool := r.cor == c && r.vt == vt && r.stage == st && r.unit == k

/-- The directory forgets the records of removed units, and what a peer still answers for one is dropped (R74, R90). -/
def State.dropRecords (s : State) (c vt st : Nat) (us : List FetchUnit) : State :=
  let p := s.phys c vt
  let d := s.die (p / 144)
  let gone (k : UnitKey) : Bool := us.any fun u => u.key == k
  let s := s.setDie (p / 144) { d with directory := d.directory.filter fun r => !us.any fun u => r.ofUnit c vt st u.key }
  { s with fabric := { s.fabric with
      open_ := s.fabric.open_.map fun t =>
        match t.use with
        | .staged a b e k => if a = c ∧ b = vt ∧ e = st ∧ gone k = true then { t with use := .forgotten } else t
        | _ => t } }

/-- `pfl.clr` (R182): the strand's entries of this superstep leave the list. -/
def execPflClr (s : State) : Out :=
  let x := s.mine
  let mine (u : FetchUnit) : Bool := u.slot == s.cur.slot
  (Eff.done ((s.setMine { x with fetch := x.fetch.filter fun u => !mine u }).dropRecords s.cur.cor s.cur.vt s.me.stage
    (x.fetch.filter mine))).out

/-! ### All-to-all exchange (R86, R183) -/

/-- The vtiles that take part in an exchange of a stage. -/
def State.participants (s : State) (id : StrandId) : List Nat := (s.cor id.cor).image.members (s.strand id).stage

/-- The checks of an exchange on its two ranges of `n` bytes. -/
def State.exchangeFault (s : State) (src dst : Word) (n : Nat) : Option (BitVec 8 × Word) :=
  let local_ (a : Word) : Bool := bits a 63 62 == 0 && bits a 61 21 == 0
  let c := s.cur.cor
  if !local_ src then some (cPROT, src)
  else if !local_ dst then some (cPROT, dst)
  else if src.toNat % 64 ≠ 0 then some (cALIGN, src)
  else if dst.toNat % 64 ≠ 0 then some (cALIGN, dst)
  else if !s.inGrant c src.toNat n then some (cPROT, src)
  else if !s.inGrant c dst.toNat n || s.inCode c dst.toNat n then some (cPROT, dst)
  else none

/-- The exchange that `xall` asks for: w0 keeps the block size, w1 and w2 the bases, w3 the length of either region. -/
def State.exchange (s : State) (b src dst : Word) : CopyCmd :=
  ⟨b, src, dst, BitVec.ofNat 64 ((s.participants s.cur).length * b.toNat), [], true, s.me.seq, s.viewAll s.cur, false, false, 0,
    0, [], s.owedUnits s.cur, 0⟩

/-- An exchange takes its place; the bytes for the other participants are pending. -/
def Eff.enqueueExchange (s : State) (c : CopyCmd) : Eff := .done (s.enqueue s.cur c (c.w3.toNat - c.w0.toNat))

/-- `xall` (R183): the residues checked are those of its address bases, the registers of order 1 of R30 (R106). -/
def execXall (o : R3) (s : State) : Out :=
  let b := s.getS o.d
  (match s.me.pushing with
   | some c => Eff.whenRoom s c fun s => Eff.enqueueExchange s c
   | none =>
     Eff.residues s [o.a, o.b]
       (if b.toNat % 64 ≠ 0 ∨ b.toNat < 64 ∨ 65536 < b.toNat then .trap s cCMD_FORMAT 0 false false
        else
          let c := s.exchange b (s.getS o.a) (s.getS o.b)
          match s.exchangeFault c.w1 c.w2 c.w3.toNat with
          | some (k, a) => .trap s k a false false
          | none => Eff.whenRoom s c fun s => Eff.enqueueExchange s c)).out

end Sys2Proof.Machine
end

