-- ==== Sys2Proof/Machine/Layout.lean ====
section
/-! DEFINITION. Logical coordinates: the traversal order of a plane (R316, R317). -/

namespace Sys2Proof.Machine

/-- The cell that d names on a Hilbert curve; the first number bounds the steps. -/
def hilbertFrom : Nat → Nat → Nat → Nat → Nat → Nat × Nat
  | 0, _, _, x, y => (x, y)
  | k + 1, s, t, x, y =>
    let rx := t / 2 % 2
    let ry := (t ^^^ rx) % 2
    let p := if ry = 0 then (if rx = 1 then (s - 1 - y, s - 1 - x) else (y, x)) else (x, y)
    hilbertFrom k (2 * s) (t / 4) (p.1 + s * rx) (p.2 + s * ry)

/-- d2xy for a curve over 2^k cells a side. -/
def hilbert (k d : Nat) : Nat × Nat := hilbertFrom k 1 d 0 0

/-- The cell that a Morton code of k bit pairs names. -/
def morton : Nat → Nat → Nat × Nat
  | 0, _ => (0, 0)
  | k + 1, c => let p := morton k (c / 4); (2 * p.1 + c % 2, 2 * p.2 + c / 2 % 2)

/-- The least k with n ≤ 2^k. -/
def log2Up (n : Nat) : Nat := if n ≤ 1 then 0 else Nat.log2 (n - 1) + 1

/-- The blocks of a grid of bx by by_ in the order of their ranks. -/
def blockOrder (order bx by_ : Nat) : List (Nat × Nat) :=
  let k := log2Up (max bx by_)
  let inside (p : Nat × Nat) : Bool := decide (p.1 < bx ∧ p.2 < by_)
  match order with
  | 0 => (List.range by_).flatMap fun y => (List.range bx).map fun x => (x, y)
  | 1 => (List.range bx).flatMap fun x => (List.range by_).map fun y => (x, y)
  | 2 => ((List.range (4 ^ k)).map (morton k)).filter inside
  | _ => ((List.range (4 ^ k)).map (hilbert k)).filter inside

/-- The cells of one plane in the order of their positions. -/
def Image.cells (im : Image) : List (Nat × Nat) :=
  let w := if im.swizzle = 0 then 1 else im.swizzle
  (blockOrder im.order ((im.x + w - 1) / w) ((im.y + w - 1) / w)).flatMap fun b =>
    ((List.range w).filter fun j => decide (b.2 * w + j < im.y)).flatMap fun j =>
      ((List.range w).filter fun i => decide (b.1 * w + i < im.x)).map fun i => (b.1 * w + i, b.2 * w + j)

/-- The number of vtiles in one plane. -/
def Image.plane (im : Image) : Nat := im.x * im.y

/-- The logical coordinates of a vtile (R317). -/
def Image.coords (im : Image) (vt : Nat) : Nat × Nat × Nat :=
  let n := if im.plane = 0 then 1 else im.plane
  let p := im.cells.getD (vt % n) (0, 0)
  (p.1, p.2, vt / n)

end Sys2Proof.Machine
end

