-- ==== Sys2Proof/Machine/Matrix.lean ====
section
/-! DEFINITION. The matrix unit: the lease, accumulator slots, operands, the arithmetic of a command, and the
instructions (R94, R101, R130 to R132, R229 to R243). -/

namespace Sys2Proof.Machine

/-! ### The lease (R229, R230) -/

/-- The strand holds its tile's lease. -/
def State.holdsLease (s : State) (id : StrandId) : Bool :=
  match (s.tile (s.phys id.cor id.vt)).lease with
  | some l => decide (l.1 = id)
  | none => false

/-- The strand gives up the lease, if it holds it. -/
def State.releaseLease (s : State) (id : StrandId) : State :=
  let p := s.phys id.cor id.vt
  if s.holdsLease id then s.setTile p { s.tile p with lease := none } else s

/-- The strand holds the lease with a count. -/
def State.setLease (s : State) (id : StrandId) (n : Nat) : State :=
  let p := s.phys id.cor id.vt
  s.setTile p { s.tile p with lease := some (id, n) }

/-- The lease is free and nobody waits for it. -/
def State.leaseFree (s : State) (p : Nat) : Bool := (s.tile p).lease.isNone && (s.tile p).leaseQueue.isEmpty

/-- `mlease` (R229). -/
def execMlease (n : Int) (s : State) : Out :=
  let p := s.myTile
  (Eff.noSlot s
    (if s.holdsLease s.cur || s.leaseFree p then .done (s.setLease s.cur n.toNat)
     else
       let t := s.tile p
       let q := t.leaseQueue ++ [(s.cur, n.toNat)]
       .settled ((s.setTile p { t with leaseQueue := q }).onMe fun x => { x with wait := .lease n.toNat }))).out

/-- `mtry` (R229). -/
def execMtry (d : Reg) (n : Int) (s : State) : Out :=
  (if s.holdsLease s.cur || s.leaseFree s.myTile then Eff.done ((s.setLease s.cur n.toNat).writeS d 0)
   else .done (s.writeS d 1)).out

/-- `mrel` (R229). -/
def execMrel (s : State) : Out := (Eff.done (s.releaseLease s.cur)).out

/-! ### Accumulator slots (R101, R236, R237) -/

/-- The handle that names no slot. -/
abbrev handleNone : Word := BitVec.allOnes 64

/-- The lowest free physical slot of a tile. -/
def Tile.freeSlot (t : Tile) : Option Nat := (List.range 8).find? fun p => (KMap.get? t.acc p).isNone

/-- The serial of a strand's next allocation: the count, skipping the values of handles still held. -/
def Strand.nextSerial (x : Strand) (slot : Nat) : BitVec 8 :=
  (((List.range 256).map fun i => x.serial + BitVec.ofNat 8 i).find? fun n =>
    !(x.handles.any fun h => decide (h.1 = BitVec.ofNat 64 (n.toNat + 256 * slot)))).getD x.serial

/-- Allocates a zero slot for the strand executing and writes its handle. -/
def State.allocate (s : State) (r : Reg) (p : Nat) : State :=
  let t := s.tile s.myTile
  let n := s.me.nextSerial s.cur.slot
  let h : Word := BitVec.ofNat 64 (n.toNat + 256 * s.cur.slot)
  let s := s.setTile s.myTile { t with acc := KMap.set t.acc p ⟨s.cur, []⟩ }
  (s.onMe fun x => { x with handles := x.handles ++ [(h, p)], serial := n + 1 }).writeS r h

/-- The strands of a tile that are blocked allocating. -/
def State.blocked (s : State) (p : Nat) : List StrandId :=
  (s.onTile p).filter fun id => decide ((s.strand id).wait = .slot)

/-- No slot is free and every strand that holds one is itself blocked allocating. -/
def State.accDeadlock (s : State) (p : Nat) : Bool :=
  (s.tile p).freeSlot.isNone && (s.tile p).acc.all fun a => (s.blocked p).contains a.2.owner

/-- The strand executing is blocked allocating: every strand so blocked raises ACC_DEADLOCK once R236 says so. -/
def State.block (s : State) : State :=
  let p := s.myTile
  let t := s.onMe fun x => { x with wait := .slot }
  if s.me.handles.length = 8 then raise cACC_DEADLOCK 0 false false s
  else if t.accDeadlock p then (t.blocked p).foldl (fun u id => u.raiseAt id cACC_DEADLOCK 0 false false) t
  else t

/-! ### Types and operands (R130, R131, R234, R235) -/

/-- The element type that MFC0 names by a code, where the matrix unit accepts it. -/
def mmElem (c : BitVec 5) : Option Elem :=
  let n := c.toNat
  if n = 0 ∨ n = 1 ∨ (8 ≤ n ∧ n ≤ 10) ∨ (12 ≤ n ∧ n ≤ 22) ∨ (24 ≤ n ∧ n ≤ 30) then some (elemOf c) else none

/-- A type that block exponents may scale: binary8 or 4-bit floating. -/
def Elem.scalable : Elem → Bool
  | .int _ => false
  | .flt f => !f.ieee

/-- The accepted pair of types under MFC0, with its scale bits. -/
def mmPair (c : Ctl) : Option (Elem × Elem) :=
  match mmElem (c.mfc0.extractLsb' 0 5), mmElem (c.mfc0.extractLsb' 5 5) with
  | some (.int a), some (.int b) => if bits c.mfc0 12 10 = 0 then some (.int a, .int b) else none
  | some (.flt a), some (.flt b) =>
    if (bit c.mfc0 10 && !(Elem.flt a).scalable) || (bit c.mfc0 11 && !(Elem.flt b).scalable) then none
    else some (.flt a, .flt b)
  | _, _ => none

/-- A matrix descriptor (R234). -/
structure MDesc where
  base : Nat
  pitch : Nat
  tilePitch : Nat
  rot : Nat
  byK : Bool
  rows : Nat
  cols : Nat
  deriving DecidableEq, Repr

/-- The descriptor of a pair of words; none where a field is not accepted. -/
def descOf (d0 d1 : Word) (mm : Bool) : Option MDesc :=
  let x : MDesc := ⟨bits d0 20 0, bits d0 35 21, bits d0 50 36, bits d0 53 51, bits d1 9 8 == 1, bits d1 7 0 + 1,
    bits d1 17 10 + 1⟩
  if bits d0 63 54 = 0 ∧ bits d1 63 18 = 0 ∧ x.base % 64 = 0 ∧ x.pitch % 64 = 0 ∧ x.tilePitch % 64 = 0 ∧ x.rot ≤ 5 ∧
      x.rows ≤ 128 ∧ bits d1 9 8 ≤ 1 ∧ x.cols ≤ (if mm then 1 else 128) ∧ (!x.byK || x.tilePitch == 0) then some x
  else none

/-- The row length in half bytes, for k values of e2 half bytes each. -/
def MDesc.rowLen (x : MDesc) (k e2 : Nat) : Nat :=
  (if x.byK then x.rows else if x.tilePitch = 0 ∨ k ≤ 128 then k else 128) * e2

/-- The rules on the row pitch and the rotated row length. -/
def MDesc.shaped (x : MDesc) (k e2 : Nat) : Bool :=
  decide (((x.rowLen k e2 + 1) / 2 + 63) / 64 * 64 ≤ x.pitch) &&
    (x.rot == 0 || x.rowLen k e2 % (128 * 2 ^ x.rot) == 0)

/-- The byte and the nibble of element (r, k). -/
def MDesc.place (x : MDesc) (e2 r k : Nat) : Nat × Nat :=
  let row := if x.byK then k else r
  let paneled := !x.byK && x.tilePitch != 0
  let q2 := (if x.byK then r else if paneled then k % 128 else k) * e2
  let q := q2 / 2
  (x.base + (if paneled then k / 128 * x.tilePitch else 0) + row * x.pitch + 64 * ((q / 64) ^^^ (row % 2 ^ x.rot)) +
    q % 64, q2 % 2)

/-- The ranges of bytes that hold the elements, line by line. -/
def MDesc.runs (x : MDesc) (k e2 : Nat) : List (Nat × Nat) :=
  let paneled := !x.byK && x.tilePitch != 0
  let line (start row size : Nat) : List (Nat × Nat) :=
    (List.range ((size + 63) / 64)).map fun l =>
      (start + 64 * (l ^^^ (row % 2 ^ x.rot)), if size - 64 * l ≤ 64 then size - 64 * l else 64)
  (List.range (if x.byK then k else x.rows)).flatMap fun row =>
    (List.range (if paneled then (k + 127) / 128 else 1)).flatMap fun p =>
      let n := if x.byK then x.rows else if paneled then (if k - 128 * p ≤ 128 then k - 128 * p else 128) else k
      line (x.base + p * x.tilePitch + row * x.pitch) row ((n * e2 + 1) / 2)

/-- The row length of a register operand in bytes (R235). -/
def regRow (c : Ctl) : Nat := 64 / 2 ^ bits c.mfc3 1 0

/-- The rows of an operand and the ranges of memory it reads; none where a rule of R234 or R235 is broken. -/
def State.operand (s : State) (reg : Bool) (r : Reg) (e : Elem) (k : Nat) : Option (Nat × List (Nat × Nat)) :=
  let e2 := e.width / 4
  if reg then
    if e2 = 1 ∨ 2 * regRow s.me.ctl ≠ k * e2 then none else some (256 / regRow s.me.ctl, [])
  else
    match descOf (s.getS r) (s.getS (r + 1)) true with
    | none => none
    | some x => if x.shaped k e2 then some (x.rows, x.runs k e2) else none

/-- The ranges of the scale bytes of n rows (R131). -/
def scaleRuns (on : Bool) (ptr n k : Nat) : List (Nat × Nat) :=
  if on then (List.range n).map fun i => (ptr + 8 * i, (k + 63) / 64) else []

/-- The first range that a command may not access (order 5 of R232). -/
def State.rangeFault (s : State) (rs : List (Nat × Nat)) (wr : Bool) : Option (BitVec 8 × Word) :=
  (rs.find? fun r => !s.inGrant s.cur.cor r.1 r.2 || (wr && s.inCode s.cur.cor r.1 r.2)).map fun r =>
    (cPROT, BitVec.ofNat 64 r.1)

/-- Orders 4 and 5 of R232 for `mmma`: the first fault, or the ranges read. -/
def State.mmmaRanges (s : State) (o : MmaOp) : Except (BitVec 8 × Word) (List (Nat × Nat)) :=
  let c := s.me.ctl
  let k := 16 * (o.k.toNat + 1)
  match mmPair c with
  | none => .error (cMM_CONFIG, 0)
  | some (a, b) =>
    match s.operand (o.fn.getLsbD 0) o.a a k, s.operand (o.fn.getLsbD 1) o.b b k with
    | some x, some y =>
      let rs := x.2 ++ y.2 ++ scaleRuns (bit c.mfc0 10) (bits c.mfc1 20 0) x.1 k ++
        scaleRuns (bit c.mfc0 11) (bits c.mfc2 20 0) y.1 k
      match s.rangeFault rs false with
      | some f => .error f
      | none => .ok rs
    | _, _ => .error (cMM_CONFIG, 0)

/-- Orders 4 and 5 of R232 for `ast`, `ast.add` and `ald`: the first fault, or the ranges moved. -/
def State.moveRanges (s : State) (op : Nat) (a : Reg) : Except (BitVec 8 × Word) (List (Nat × Nat)) :=
  if op = 2 ∧ (mmPair s.me.ctl).isNone then .error (cMM_CONFIG, 0)
  else
    match descOf (s.getS a) (s.getS (a + 1)) false with
    | none => .error (cMM_CONFIG, 0)
    | some x =>
      if !x.shaped x.cols 8 then .error (cMM_CONFIG, 0)
      else
        match s.rangeFault (x.runs x.cols 8) (op != 3) with
        | some f => .error f
        | none => .ok (x.runs x.cols 8)

/-- The 256 bytes of a group. -/
def Strand.groupBytes (x : Strand) (g : BitVec 3) : List Byte :=
  (List.range 4).flatMap fun i => lineBytes (x.getV (groupReg g i))

/-! ### Commands (R231, R232) -/

/-- A command enters the queue and takes one from the count; a count of 0 releases the lease. -/
def State.queueCommand (s : State) (c : MCmd) : State :=
  let p := s.myTile
  let t := s.tile p
  let left := (t.lease.map fun l => l.2 - 1).getD 0
  s.setTile p { t with queue := t.queue ++ [c], lease := if left = 0 then none else some (s.cur, left) }

/-- A command as it issues: the checks of R232, a place in the queue, a slot, then the queue. -/
def Eff.command_ (s : State) (op : Nat) (rs : List Reg) (h : Reg) (ranges : Except (BitVec 8 × Word) (List (Nat × Nat)))
    (mk : Nat → List (Nat × Nat) → MCmd) : Eff :=
  let v := s.getS h
  let slot := s.me.slotOf v
  let go (l : List (Nat × Nat)) : Eff :=
    if 16 ≤ (s.tile s.myTile).queue.length then .stall s .matrixQueue
    else
      match slot with
      | some p => .done (s.queueCommand (mk p l))
      | none =>
        match (s.tile s.myTile).freeSlot with
        | some p => if s.me.handles.length = 8 then .settled s.block else .done ((s.allocate h p).queueCommand (mk p l))
        | none => .settled s.block
  Eff.residues s rs
    (if !s.holdsLease s.cur then .trap s cMM_CONFIG 0 false false
     else if (v == handleNone && (op == 1 || op == 2)) || (v != handleNone && slot.isNone) then
       .trap s cMM_CONFIG 0 false false
     else
       match ranges with
       | .error (c, a) => .trap s c a false (c == cPROT && (op == 1 || op == 2))
       | .ok l => go l)

/-- `mmma` as it issues. -/
def Eff.mmma (s : State) (o : MmaOp) : Eff :=
  let ra := o.fn.getLsbD 0
  let rb := o.fn.getLsbD 1
  Eff.command_ s 0 ([o.h] ++ (if ra then [] else [o.a, o.a + 1]) ++ (if rb then [] else [o.b, o.b + 1])) o.h
    (s.mmmaRanges o) fun p l =>
      { op := 0, id := s.cur, slot := p, d0a := s.getS o.a, d1a := s.getS (o.a + 1), d0b := s.getS o.b,
        d1b := s.getS (o.b + 1), regA := if ra then some (s.me.groupBytes (o.a.setWidth 3)) else none,
        regB := if rb then some (s.me.groupBytes (o.b.setWidth 3)) else none, k := 16 * (o.k.toNat + 1), reads := l,
        trap := s.trapInfo s.cur 0 0 false false, tainted := false, ctl := Ctl.reset, result := [], flags := 0,
        view := s.viewAll s.cur, owed := s.owedUnits s.cur }

/-- `ast`, `ast.add` and `ald` as they issue. -/
def Eff.move (s : State) (op : Nat) (h a : Reg) : Eff :=
  Eff.command_ s op [h, a, a + 1] h (s.moveRanges op a) fun p l =>
    { op, id := s.cur, slot := p, d0a := s.getS a, d1a := s.getS (a + 1), d0b := 0, d1b := 0, regA := none,
      regB := none, k := 0, reads := if op = 1 then [] else l, trap := s.trapInfo s.cur 0 0 false false,
      tainted := false, ctl := Ctl.reset, result := [], flags := 0, view := s.viewAll s.cur, owed := s.owedUnits s.cur }

/-- `azero` as it issues. -/
def Eff.azero (s : State) (h : Reg) : Eff :=
  Eff.command_ s 4 [h] h (.ok []) fun p _ =>
    { op := 4, id := s.cur, slot := p, d0a := 0, d1a := 0, d0b := 0, d1b := 0, regA := none, regB := none, k := 0,
      reads := [], trap := s.trapInfo s.cur 0 0 false false, tainted := false, ctl := Ctl.reset, result := [],
      flags := 0, view := [], owed := [] }

/-- `mmma` (R239). -/
def execMmma (o : MmaOp) (s : State) : Out := (Eff.mmma s o).out

/-- `ast` (R241). -/
def execAst (h a : Reg) (s : State) : Out := (Eff.move s 1 h a).out

/-- `ast.add` (R241). -/
def execAstAdd (h a : Reg) (s : State) : Out := (Eff.move s 2 h a).out

/-- `ald` (R241). -/
def execAld (h a : Reg) (s : State) : Out := (Eff.move s 3 h a).out

/-- `azero` (R237). -/
def execAzero (h : Reg) (s : State) : Out := (Eff.azero s h).out

/-- Goes on once no command of the strand on the slot of a handle is left; NONE goes on at once (R237, R242).  It is no command
and forms no address, so that R106 names no check of the handle's residue. -/
def Eff.awaitSlot (s : State) (h : Reg) (none_ : Eff) (k : Nat → Eff) : Eff :=
  let v := s.getS h
  if v = handleNone then none_
  else
    match s.me.slotOf v with
    | none => .trap s cMM_CONFIG 0 false false
    | some p => if s.holds s.cur (.slotIdle v) then k p else .stall s (.slotIdle v)

/-- `arel` (R237). -/
def execArel (h : Reg) (s : State) : Out :=
  (Eff.awaitSlot s h (.done s) fun p =>
    let t := s.tile s.myTile
    let s := s.setTile s.myTile { t with acc := KMap.erase t.acc p }
    .done ((s.onMe fun x => { x with handles := x.handles.filter fun q => q.2 != p }).writeS h handleNone)).out

/-- `mwait` (R242). -/
def execMwait (h : Reg) (s : State) : Out :=
  (if h = 0 then (if s.holds s.cur .matrixIdle then Eff.done s else .stall s .matrixIdle)
   else Eff.awaitSlot s h (.done s) fun _ => .done s).out

/-! ### The arithmetic of a command (R131, R132, R239 to R241) -/

/-- A raw element of a descriptor's matrix. -/
def MDesc.elem (x : MDesc) (m : Mem) (e2 r k : Nat) : Nat :=
  let p := x.place e2 r k
  if e2 = 1 then (Mem.read m p.1).toNat / 16 ^ p.2 % 16 else Mem.load m p.1 (e2 / 2)

/-- The raw elements of an operand by row and k, and its rows. -/
def operandAt (c : Ctl) (m : Mem) (reg : Option (List Byte)) (d0 d1 : Word) (e2 : Nat) : Nat × (Nat → Nat → Nat) :=
  match reg with
  | some bs => (256 / regRow c, fun r k => ofLE ((bs.drop (r * regRow c + k * e2 / 2)).take (e2 / 2)))
  | none =>
    match descOf d0 d1 true with
    | some x => (x.rows, fun r k => x.elem m e2 r k)
    | none => (0, fun _ _ => 0)

/-- The rounding control of a matrix command: RNE, with VFC's b8_inf and ftz. -/
def matrixCtl (c : Ctl) : FCtl := ⟨rmRNE, bit c.vfc 2, bit c.vfc 3⟩

/-- A flushed element scaled by a block exponent; -128 marks a NaN block. -/
def scaledElem (f : Fmt) (c : FCtl) (raw : Nat) (e : Option Int) : XR :=
  match e with
  | none => f.input c raw
  | some e => if e = -128 then .nan else (f.input c raw).scale e

/-- The scaled product of R131: a NaN block or a NaN t_scale gives NaN without invalid, the rule's second test standing for
the products that the first has not settled (assumption 70). -/
def scaledProduct (a b : XR) (t : Option XR) : XR × Flags :=
  if a.isNan || b.isNan || (t.map XR.isNan).getD false then (.nan, 0)
  else
    let p := XR.mul a b
    match t with
    | none => p
    | some t => if p.1.isNan then p else XR.mul p.1 t

/-- One step of R132 on floating products. -/
def mmStep (c : FCtl) (acc : BitVec 32 × Flags) (ps : List (XR × Flags)) : BitVec 32 × Flags :=
  let t := XR.sum rmRNE (fmtF32.input c acc.1.toNat :: ps.map Prod.fst)
  let r := fmtF32.round c false t.1
  (BitVec.ofNat 32 r.1, (ps.map Prod.snd).foldl (· ||| ·) (acc.2 ||| t.2 ||| r.2))

/-- One step of R130 on integer products. -/
def mmStepInt (acc : BitVec 32 × Flags) (ps : List Int) : BitVec 32 × Flags :=
  let t := ps.foldl (· + ·) acc.1.toInt
  let r := BitVec.ofInt 32 t
  (r, if r.toInt = t then acc.2 else acc.2 ||| flOverflow)

/-- Groups of four values of k in ascending order. -/
def mmGroups (k : Nat) : List (List Nat) := (List.range (k / 4)).map fun g => (List.range 4).map fun i => 4 * g + i

/-- The (index, value) pairs of a result over m rows and n columns, and the flags. -/
def overCells (m n : Nat) (f : Nat → Nat → BitVec 32 × Flags) : List (Nat × BitVec 32) × Flags :=
  let l := (List.range m).flatMap fun i => (List.range n).map fun j => (128 * i + j, f i j)
  (l.map fun p => (p.1, p.2.1), l.foldl (fun a p => a ||| p.2.2) 0)

/-- The block exponent of row i and value k, where the scale bit is set. -/
def blockExp (m : Mem) (on : Bool) (ptr i k : Nat) : Option Int :=
  if on then some ((IFmt.mk 8 true).read (Mem.read m (ptr + 8 * i + k / 64)).toNat) else none

/-- C += A · B on a slot's values, operands and scale bytes read from memory `m` (R131, R132, R239). -/
def mmmaResult (c : Ctl) (m : Mem) (x : MCmd) (old : AccSlot) : List (Nat × BitVec 32) × Flags :=
  match mmPair c with
  | none => ([], 0)
  | some (a, b) =>
    let A := operandAt c m x.regA x.d0a x.d1a (a.width / 4)
    let B := operandAt c m x.regB x.d0b x.d1b (b.width / 4)
    overCells A.1 B.1 fun i j =>
      let acc := KMap.getD old.vals (128 * i + j) 0
      match a, b with
      | .flt fa, .flt fb =>
        let f := matrixCtl c
        let t := if bit c.mfc0 12 then some (f32 (c.mfc0.extractLsb' 32 32)) else none
        (mmGroups x.k).foldl (fun acc g => mmStep f acc (g.map fun k =>
          scaledProduct (scaledElem fa f (A.2 i k) (blockExp m (bit c.mfc0 10) (bits c.mfc1 20 0) i k))
            (scaledElem fb f (B.2 j k) (blockExp m (bit c.mfc0 11) (bits c.mfc2 20 0) j k)) t)) (acc, 0)
      | .int fa, .int fb =>
        (mmGroups x.k).foldl (fun acc g => mmStepInt acc (g.map fun k => fa.read (A.2 i k) * fb.read (B.2 j k))) (acc, 0)
      | _, _ => (acc, 0)

/-- The sum that `ast.add` stores (R241). -/
def addCell (c : Ctl) (mem acc : BitVec 32) : BitVec 32 × Flags :=
  match mmPair c with
  | some (.int _, _) =>
    let t := mem.toInt + acc.toInt
    (BitVec.ofInt 32 t, if (BitVec.ofInt 32 t).toInt = t then 0 else flOverflow)
  | _ =>
    let f := matrixCtl c
    let t := XR.add rmRNE (fmtF32.input f mem.toNat) (fmtF32.input f acc.toNat)
    let r := fmtF32.round f false t.1
    (BitVec.ofNat 32 r.1, t.2 ||| r.2)

/-- What a command computes when it starts: slot values by index for `mmma` and `ald`, words by tile offset for `ast` and
`ast.add`, and its flags. -/
def MCmd.compute (x : MCmd) (c : Ctl) (m : Mem) (old : AccSlot) : List (Nat × BitVec 32) × Flags :=
  match x.op with
  | 0 => mmmaResult c m x old
  | 4 => ([], 0)
  | op =>
    match descOf x.d0a x.d1a false with
    | none => ([], 0)
    | some d =>
      let at_ (i j : Nat) : Nat := (d.place 8 i j).1
      let mem (i j : Nat) : BitVec 32 := BitVec.ofNat 32 (Mem.load m (at_ i j) 4)
      let acc (i j : Nat) : BitVec 32 := KMap.getD old.vals (128 * i + j) 0
      if op = 3 then overCells d.rows d.cols fun i j => (mem i j, 0)
      else
        let l := (List.range d.rows).flatMap fun i => (List.range d.cols).map fun j =>
          (at_ i j, if op = 2 then addCell c (mem i j) (acc i j) else (acc i j, 0))
        (l.map fun p => (p.1, p.2.1), l.foldl (fun a p => a ||| p.2.2) 0)

end Sys2Proof.Machine
end

