-- ==== Sys2Proof/Machine/Float.lean ====
section
/-! DEFINITION. Scalar floating point (R195 to R199). -/

namespace Sys2Proof.Machine

/-- An exact result with its operation's flags, delivered in a floating format (R195). -/
def Eff.float (s : State) (f : Fmt) (d : Reg) (x : Mod) (y : XR × Flags) : Eff :=
  .done (s.deliver d (deliverFlt f s.me.fctl x y))

/-- a · b + c, with the signs of the product and the addend as each fused form has them (R196). -/
def State.fused (s : State) (f : Fmt) (o : R3) (c : Reg) (negProduct negAddend : Bool) : XR × Flags :=
  let a := s.fin f o.a
  let e := s.fin f c
  XR.fma s.me.fctl.rm (if negProduct then a.neg else a) (s.fin f o.b) (if negAddend then e.neg else e)

/-- The invalid flag of an ordered compare with a NaN operand (R198). -/
def unorderedFlag (a b : XR) : Flags := if a.isNan || b.isNan then flInvalid else 0

/-- A type code of `fcvt` (R199): 0 f32, 1 f64, 2 i64, 3 n64. -/
def cvtElem (c : BitVec 2) : Elem :=
  match c.toNat with
  | 0 => .flt fmtF32
  | 1 => .flt fmtF64
  | 2 => .int i64
  | _ => .int n64

/-- One element converted between two types, rounding in mode `c.rm` (R117, R125, R145). -/
def convert (src dst : Elem) (c : FCtl) (x : Mod) (raw : Nat) : Nat × Flags :=
  match src, dst with
  | .flt f, .flt g => g.round c x.sat (XR.modify x (f.input c raw))
  | .flt f, .int g => deliverToInt g c.rm x (f.input c raw)
  | .int f, .flt g => g.round c x.sat (XR.modify x (XR.ofInt (f.read raw)))
  | .int f, .int g => deliverInt g x (f.read raw)

/-- `fadd.f32` (R195). -/
def execFaddF32 (o : R3) (x : Mod) (s : State) : Out :=
  (Eff.float s fmtF32 o.d x (XR.add s.me.fctl.rm (s.fin fmtF32 o.a) (s.fin fmtF32 o.b))).out

/-- `fsub.f32` (R195). -/
def execFsubF32 (o : R3) (x : Mod) (s : State) : Out :=
  (Eff.float s fmtF32 o.d x (XR.sub s.me.fctl.rm (s.fin fmtF32 o.a) (s.fin fmtF32 o.b))).out

/-- `fmul.f32` (R195). -/
def execFmulF32 (o : R3) (x : Mod) (s : State) : Out :=
  (Eff.float s fmtF32 o.d x (XR.mul (s.fin fmtF32 o.a) (s.fin fmtF32 o.b))).out

/-- `fdiv.f32` (R195). -/
def execFdivF32 (o : R3) (x : Mod) (s : State) : Out :=
  (Eff.float s fmtF32 o.d x (XR.div (s.fin fmtF32 o.a) (s.fin fmtF32 o.b))).out

/-- `fma.f32` (R196). -/
def execFmaF32 (o : R3) (c : Reg) (x : Mod) (s : State) : Out :=
  (Eff.float s fmtF32 o.d x (s.fused fmtF32 o c false false)).out

/-- `fms.f32` (R196). -/
def execFmsF32 (o : R3) (c : Reg) (x : Mod) (s : State) : Out :=
  (Eff.float s fmtF32 o.d x (s.fused fmtF32 o c false true)).out

/-- `fnma.f32` (R196). -/
def execFnmaF32 (o : R3) (c : Reg) (x : Mod) (s : State) : Out :=
  (Eff.float s fmtF32 o.d x (s.fused fmtF32 o c true true)).out

/-- `fnms.f32` (R196). -/
def execFnmsF32 (o : R3) (c : Reg) (x : Mod) (s : State) : Out :=
  (Eff.float s fmtF32 o.d x (s.fused fmtF32 o c true false)).out

/-- `fmin.f32` (R197). -/
def execFminF32 (o : R3) (x : Mod) (s : State) : Out :=
  (Eff.float s fmtF32 o.d x (XR.pickMinMax false (s.fin fmtF32 o.a) (s.fin fmtF32 o.b), 0)).out

/-- `fmax.f32` (R197). -/
def execFmaxF32 (o : R3) (x : Mod) (s : State) : Out :=
  (Eff.float s fmtF32 o.d x (XR.pickMinMax true (s.fin fmtF32 o.a) (s.fin fmtF32 o.b), 0)).out

/-- `fsqrt.f32` (R195). -/
def execFsqrtF32 (o : R2) (x : Mod) (s : State) : Out :=
  (Eff.float s fmtF32 o.d x (XR.sqrt (s.fin fmtF32 o.a))).out

/-- `feq.f32` (R198). -/
def execFeqF32 (o : R3) (s : State) : Out :=
  (Eff.done (s.deliver o.d ((flagWord (XR.eq (s.fin fmtF32 o.a) (s.fin fmtF32 o.b))).toNat, 0))).out

/-- `flt.f32` (R198). -/
def execFltF32 (o : R3) (s : State) : Out :=
  (Eff.done (s.deliver o.d ((flagWord (XR.lt (s.fin fmtF32 o.a) (s.fin fmtF32 o.b))).toNat, unorderedFlag (s.fin fmtF32 o.a) (s.fin fmtF32 o.b)))).out

/-- `fle.f32` (R198). -/
def execFleF32 (o : R3) (s : State) : Out :=
  (Eff.done (s.deliver o.d ((flagWord (XR.le (s.fin fmtF32 o.a) (s.fin fmtF32 o.b))).toNat, unorderedFlag (s.fin fmtF32 o.a) (s.fin fmtF32 o.b)))).out

/-- `funo.f32` (R198). -/
def execFunoF32 (o : R3) (s : State) : Out :=
  (Eff.value s o.d (flagWord ((s.fin fmtF32 o.a).isNan || (s.fin fmtF32 o.b).isNan))).out

/-- `fadd.f64` (R195). -/
def execFaddF64 (o : R3) (x : Mod) (s : State) : Out :=
  (Eff.float s fmtF64 o.d x (XR.add s.me.fctl.rm (s.fin fmtF64 o.a) (s.fin fmtF64 o.b))).out

/-- `fsub.f64` (R195). -/
def execFsubF64 (o : R3) (x : Mod) (s : State) : Out :=
  (Eff.float s fmtF64 o.d x (XR.sub s.me.fctl.rm (s.fin fmtF64 o.a) (s.fin fmtF64 o.b))).out

/-- `fmul.f64` (R195). -/
def execFmulF64 (o : R3) (x : Mod) (s : State) : Out :=
  (Eff.float s fmtF64 o.d x (XR.mul (s.fin fmtF64 o.a) (s.fin fmtF64 o.b))).out

/-- `fdiv.f64` (R195). -/
def execFdivF64 (o : R3) (x : Mod) (s : State) : Out :=
  (Eff.float s fmtF64 o.d x (XR.div (s.fin fmtF64 o.a) (s.fin fmtF64 o.b))).out

/-- `fma.f64` (R196). -/
def execFmaF64 (o : R3) (c : Reg) (x : Mod) (s : State) : Out :=
  (Eff.float s fmtF64 o.d x (s.fused fmtF64 o c false false)).out

/-- `fms.f64` (R196). -/
def execFmsF64 (o : R3) (c : Reg) (x : Mod) (s : State) : Out :=
  (Eff.float s fmtF64 o.d x (s.fused fmtF64 o c false true)).out

/-- `fnma.f64` (R196). -/
def execFnmaF64 (o : R3) (c : Reg) (x : Mod) (s : State) : Out :=
  (Eff.float s fmtF64 o.d x (s.fused fmtF64 o c true true)).out

/-- `fnms.f64` (R196). -/
def execFnmsF64 (o : R3) (c : Reg) (x : Mod) (s : State) : Out :=
  (Eff.float s fmtF64 o.d x (s.fused fmtF64 o c true false)).out

/-- `fmin.f64` (R197). -/
def execFminF64 (o : R3) (x : Mod) (s : State) : Out :=
  (Eff.float s fmtF64 o.d x (XR.pickMinMax false (s.fin fmtF64 o.a) (s.fin fmtF64 o.b), 0)).out

/-- `fmax.f64` (R197). -/
def execFmaxF64 (o : R3) (x : Mod) (s : State) : Out :=
  (Eff.float s fmtF64 o.d x (XR.pickMinMax true (s.fin fmtF64 o.a) (s.fin fmtF64 o.b), 0)).out

/-- `fsqrt.f64` (R195). -/
def execFsqrtF64 (o : R2) (x : Mod) (s : State) : Out :=
  (Eff.float s fmtF64 o.d x (XR.sqrt (s.fin fmtF64 o.a))).out

/-- `feq.f64` (R198). -/
def execFeqF64 (o : R3) (s : State) : Out :=
  (Eff.done (s.deliver o.d ((flagWord (XR.eq (s.fin fmtF64 o.a) (s.fin fmtF64 o.b))).toNat, 0))).out

/-- `flt.f64` (R198). -/
def execFltF64 (o : R3) (s : State) : Out :=
  (Eff.done (s.deliver o.d ((flagWord (XR.lt (s.fin fmtF64 o.a) (s.fin fmtF64 o.b))).toNat, unorderedFlag (s.fin fmtF64 o.a) (s.fin fmtF64 o.b)))).out

/-- `fle.f64` (R198). -/
def execFleF64 (o : R3) (s : State) : Out :=
  (Eff.done (s.deliver o.d ((flagWord (XR.le (s.fin fmtF64 o.a) (s.fin fmtF64 o.b))).toNat, unorderedFlag (s.fin fmtF64 o.a) (s.fin fmtF64 o.b)))).out

/-- `funo.f64` (R198). -/
def execFunoF64 (o : R3) (s : State) : Out :=
  (Eff.value s o.d (flagWord ((s.fin fmtF64 o.a).isNan || (s.fin fmtF64 o.b).isNan))).out

/-- `fcvt` (R199): the rounding in fn overrides VFC.rmode. -/
def execFcvt (o : CvtOp) (x : Mod) (s : State) : Out :=
  (Eff.done (s.deliver o.d
    (convert (cvtElem o.src) (cvtElem o.dst) { s.me.fctl with rm := o.rm } x (s.getS o.a).toNat))).out

end Sys2Proof.Machine
end

