-- ==== Sys2Proof/Machine/Special.lean ====
section
/-! DEFINITION. The special functions of `vsf` and `vsf.fast` (R221, R222): exact results where there are any, else an
enclosure narrow enough to round correctly. -/

namespace Sys2Proof.Machine

/-- An enclosure of a positive value: between lo · 2^e and hi · 2^e. -/
structure Encl where
  lo : Nat
  hi : Nat
  e : Int
  deriving DecidableEq, Repr

namespace Encl

/-- Keeps about p significant bits, rounding outwards. -/
def norm (p : Nat) (x : Encl) : Encl :=
  let s := Nat.log2 x.hi - p
  if s = 0 then x else ⟨x.lo >>> s, (x.hi >>> s) + 1, x.e + s⟩

def ofNat (m : Nat) (e : Int) : Encl := ⟨m, m, e⟩

def add (p : Nat) (x y : Encl) : Encl :=
  let lo := if x.e ≤ y.e then x.e else y.e
  let a := (x.e - lo).toNat
  let b := (y.e - lo).toNat
  norm p ⟨(x.lo <<< a) + (y.lo <<< b), (x.hi <<< a) + (y.hi <<< b), lo⟩

/-- x - y, where x is known to be at least y. -/
def sub (p : Nat) (x y : Encl) : Encl :=
  let lo := if x.e ≤ y.e then x.e else y.e
  let a := (x.e - lo).toNat
  let b := (y.e - lo).toNat
  norm p ⟨(x.lo <<< a) - (y.hi <<< b), (x.hi <<< a) - (y.lo <<< b), lo⟩

def mul (p : Nat) (x y : Encl) : Encl := norm p ⟨x.lo * y.lo, x.hi * y.hi, x.e + y.e⟩

def div (p : Nat) (x y : Encl) : Encl :=
  let k := p + Nat.log2 y.hi
  norm p ⟨(x.lo <<< k) / y.hi, (x.hi <<< k) / y.lo + 1, x.e - y.e - k⟩

def scale (x : Encl) (k : Int) : Encl := ⟨x.lo, x.hi, x.e + k⟩

def one : Encl := ofNat 1 0

/-- π to 700 fraction bits. -/
def pi (p : Nat) : Encl := norm p ⟨0x3243f6a8885a308d313198a2e03707344a4093822299f31d0082efa98ec4e6c89452821e638d01377be5466cf34e90c6cc0ac29b7c97c50dd3f84d5b5b54709179216d5d98979fb1bd1310ba698dfb5ac2ffd72dbd01adfb,
  0x3243f6a8885a308d313198a2e03707344a4093822299f31d0082efa98ec4e6c89452821e638d01377be5466cf34e90c6cc0ac29b7c97c50dd3f84d5b5b54709179216d5d98979fb1bd1310ba698dfb5ac2ffd72dbd01adfc, -700⟩

/-- ln 2 to 700 fraction bits. -/
def ln2 (p : Nat) : Encl := norm p ⟨0xb17217f7d1cf79abc9e3b39803f2f6af40f343267298b62d8a0d175b8baafa2be7b876206debac98559552fb4afa1b10ed2eae35c138214427573b291169b8253e96ca16224ae8c51acbda11317c387eb9ea9bc3b136603,
  0xb17217f7d1cf79abc9e3b39803f2f6af40f343267298b62d8a0d175b8baafa2be7b876206debac98559552fb4afa1b10ed2eae35c138214427573b291169b8253e96ca16224ae8c51acbda11317c387eb9ea9bc3b136604, -700⟩

/-- 1 + f/k · (1 + f/(k+1) · …) for the n factors up to k + n - 1: e^f from k = 1, for 0 ≤ f ≤ 1. -/
def expFrom (p : Nat) (f : Encl) : Nat → Nat → Encl
  | 0, _ => ⟨1, 3, 0⟩
  | n + 1, k => add p one (div p (mul p f (expFrom p f n (k + 1))) (ofNat k 0))

/-- e^f for 0 ≤ f ≤ 1. -/
def exp1 (p : Nat) (f : Encl) : Encl := expFrom p f (p / 3) 1

/-- 1 - u/(k(k+1)) · (1 - u/((k+2)(k+3)) · …): cos √u from k = 1, sin √u / √u from k = 2, for u ≤ 1. -/
def altFrom (p : Nat) (u : Encl) : Nat → Nat → Encl
  | 0, _ => ⟨0, 1, 0⟩
  | n + 1, k => sub p one (div p (mul p u (altFrom p u n (k + 2))) (ofNat (k * (k + 1)) 0))

def sin (p : Nat) (t : Encl) : Encl := mul p t (altFrom p (mul p t t) (p / 5) 2)

def cos (p : Nat) (t : Encl) : Encl := altFrom p (mul p t t) (p / 5) 1

/-- 1/(2k+1) + w · (1/(2k+3) + …): atanh √w / √w from k = 0, for w ≤ 1/9. -/
def atanhFrom (p : Nat) (w : Encl) : Nat → Nat → Encl
  | 0, _ => ⟨0, 2, 0⟩
  | n + 1, k => add p (div p one (ofNat (2 * k + 1) 0)) (mul p w (atanhFrom p w n (k + 1)))

/-- ln (m / 2^s) for 2^s ≤ m < 2^(s+1). -/
def lnMant (p m s : Nat) : Encl :=
  let z := div p (ofNat (m - 2 ^ s) 0) (ofNat (m + 2 ^ s) 0)
  (mul p z (atanhFrom p (mul p z z) (p / 3) 0)).scale 1

/-- e^a for a ≥ 0. -/
def exp (p : Nat) (a : Encl) : Encl :=
  let q := div p a (ln2 p)
  let k := if 0 ≤ q.e then q.lo <<< q.e.toNat else q.lo >>> (-q.e).toNat
  (exp1 p (sub p a (mul p (ofNat k 0) (ln2 p)))).scale k

end Encl

/-- What a special function gives: an exact result with flags, or an enclosure of a result that no format holds. -/
inductive SfVal where
  | exact (x : XR) (fl : Flags)
  | between (neg : Bool) (x : Encl)
  deriving DecidableEq, Repr

namespace SfVal

/-- An inexact result in the open interval around this dyadic value where every rounding is the same. -/
def near (neg : Bool) (m : Nat) (e : Int) : SfVal := .between neg (Encl.ofNat m e)

/-- |x| < 2^-40. -/
def tiny (m : Nat) (e : Int) : Bool := decide ((Nat.log2 m : Int) + e < -40)

/-- |x| ≥ 2^k. -/
def huge (k : Int) (m : Nat) (e : Int) : Bool := decide (k ≤ (Nat.log2 m : Int) + e)

/-- The integer part of m · 2^e and whether there is a fraction, for values below 2^k. -/
def intPart (m : Nat) (e : Int) : Nat × Bool :=
  if 0 ≤ e then (m <<< e.toNat, false) else (m >>> (-e).toNat, m % 2 ^ (-e).toNat != 0)

/-- 2^x. -/
def exp2 (p : Nat) (s : Bool) (m : Nat) (e : Int) : SfVal :=
  if huge 11 m e then near false 1 (if s then -2000 else 2000)
  else if tiny m e then (if s then near false (2 ^ 60 - 1) (-60) else near false (2 ^ 60 + 1) (-60))
  else
    let ip := intPart m e
    if !ip.2 then .exact (.fin false 1 (if s then -(ip.1 : Int) else ip.1)) 0
    else
      let d := (-e).toNat
      let fr := if s then 2 ^ d - m % 2 ^ d else m % 2 ^ d
      let k : Int := if s then -(ip.1 : Int) - 1 else ip.1
      .between false ((Encl.exp1 p (Encl.mul p (Encl.ofNat fr e) (Encl.ln2 p))).scale k)

/-- log₂ x for x > 0. -/
def log2 (p m : Nat) (e : Int) : SfVal :=
  let s := Nat.log2 m
  let k := (s : Int) + e
  if m = 2 ^ s then .exact (.fin (decide (k < 0)) k.natAbs 0) 0
  else
    let q := Encl.div p (Encl.lnMant p m s) (Encl.ln2 p)
    if k < 0 then .between true (Encl.sub p (Encl.ofNat k.natAbs 0) q)
    else .between false (Encl.add p (Encl.ofNat k.natAbs 0) q)

/-- 1/√x for x > 0, with at least 70 significant bits and a sticky low bit. -/
def rsqrt (m : Nat) (e : Int) : XR :=
  let odd := e % 2 = 1
  let m' := if odd then 2 * m else m
  let e' := if odd then e - 1 else e
  let k := 72 + (Nat.log2 m' + 1) / 2
  let x := 2 ^ (2 * k)
  let q := x / m'
  let r := XR.isqrt q
  .fin false (2 * r + (if q * m' = x ∧ r * r = q then 0 else 1)) (-(e' / 2) - k - 1)

/-- tanh |x|. -/
def tanh (p : Nat) (s : Bool) (m : Nat) (e : Int) : SfVal :=
  if huge 5 m e then near s (2 ^ 150 - 1) (-150)
  else if tiny m e then
    -- tanh x lies below x by less than x³/3, where no rounding boundary lies
    near s (m * 2 ^ 160 - 1) (e - 160)
  else
    let t := Encl.exp p (Encl.ofNat m (e + 1))
    .between s (Encl.div p (Encl.sub p t Encl.one) (Encl.add p t Encl.one))

/-- 1/(1 + e^-x). -/
def sigm (p : Nat) (s : Bool) (m : Nat) (e : Int) : SfVal :=
  if s && huge 9 m e then near false 1 (-600)
  else if !s && huge 6 m e then near false (2 ^ 80 - 1) (-80)
  else if tiny m e then
    (if s then near false (2 ^ 60 - 1) (-61) else near false (2 ^ 60 + 1) (-61))
  else
    let t := Encl.exp p (Encl.ofNat m e)
    let c := Encl.div p Encl.one (Encl.add p Encl.one t)
    if s then .between false c else .between false (Encl.sub p Encl.one c)

/-- sin (π u/2^d) or cos (π u/2^d) for 0 < u/2^d < 1/2. -/
def circ (p : Nat) (cosine : Bool) (u d : Nat) : Encl :=
  let near0 := decide (4 * u ≤ 2 ^ d)
  let v := if near0 then 2 * u else 2 ^ d - 2 * u
  let t := Encl.mul p (Encl.ofNat v (-(d : Int) - 1)) (Encl.pi p)
  if near0 == cosine then Encl.cos p t else Encl.sin p t

/-- sin (πx). -/
def sinpi (p : Nat) (s : Bool) (m : Nat) (e : Int) : SfVal :=
  if 0 ≤ e then .exact (.zero s) 0
  else
    let d := (-e).toNat
    let u := m % 2 ^ (d + 1)
    let flip := decide (2 ^ d ≤ u)
    let u1 := if flip then u - 2 ^ d else u
    let u2 := if 2 ^ d < 2 * u1 then 2 ^ d - u1 else u1
    if u1 = 0 then .exact (.zero s) 0
    else if 2 * u2 = 2 ^ d then .exact (.fin (s ^^ flip) 1 0) 0
    else .between (s ^^ flip) (circ p false u2 d)

/-- cos (πx). -/
def cospi (p : Nat) (m : Nat) (e : Int) : SfVal :=
  if 0 ≤ e then .exact (.fin (decide (e = 0) && m % 2 == 1) 1 0) 0
  else if tiny m e then near false (2 ^ 70 - 1) (-70)
  else
    let d := (-e).toNat
    let u := m % 2 ^ (d + 1)
    let u1 := if 2 ^ d < u then 2 ^ (d + 1) - u else u
    let flip := decide (2 ^ d < 2 * u1)
    let u2 := if flip then 2 ^ d - u1 else u1
    if 2 * u1 = 2 ^ d then .exact (.zero false) 0
    else if u2 = 0 then .exact (.fin flip 1 0) 0
    else .between flip (circ p true u2 d)

/-- The function `f` of R221 at an exact input, with p bits of precision (R222 for the special operands). -/
def eval (p : Nat) (f : BitVec 3) (x : XR) : SfVal :=
  match f.toNat, x with
  | _, .nan => .exact .nan 0
  | 0, .inf s => .exact (if s then .zero false else .inf false) 0
  | 0, .fin s m e => if m = 0 then .exact .one 0 else exp2 p s m e
  | 1, .inf s => if s then .exact .nan flInvalid else .exact (.inf false) 0
  | 1, .fin s m e =>
    if m = 0 then .exact (.inf true) flDivz else if s then .exact .nan flInvalid else log2 p m e
  | 2, x => let r := XR.div .one x; .exact r.1 r.2
  | 3, .inf s => if s then .exact .nan flInvalid else .exact (.zero false) 0
  | 3, .fin s m e =>
    if m = 0 then .exact (.inf s) flDivz else if s then .exact .nan flInvalid else .exact (rsqrt m e) 0
  | 4, .inf s => .exact (.fin s 1 0) 0
  | 4, .fin s m e => if m = 0 then .exact (.zero s) 0 else tanh p s m e
  | 5, .inf s => .exact (if s then .zero false else .one) 0
  | 5, .fin s m e => if m = 0 then .exact (.fin false 1 (-1)) 0 else sigm p s m e
  | 6, .inf _ => .exact .nan flInvalid
  | 6, .fin s m e => if m = 0 then .exact (.zero s) 0 else sinpi p s m e
  | _, .inf _ => .exact .nan flInvalid
  | _, .fin _ m e => if m = 0 then .exact .one 0 else cospi p m e

end SfVal

/-- A code with bit 0 of its trailing significand cleared. -/
def clearLow (code : Nat) : Nat := code - code % 2

/-- The delivery of `vsf.fast` (R221): a representable y itself; RNE where that overflows or falls below the smallest
normal; else y rounded toward zero with its lowest trailing bit cleared, which underflows where that rounding is tiny
(R127) and, its bits being fixed, is not flushed (assumption 92). -/
def Fmt.fast (f : Fmt) (c : FCtl) (sat : Bool) (y : XR) : Nat × Flags :=
  let rne := f.round { c with rm := rmRNE, ftz := false } sat y
  let inexact := rne.2 &&& flInexact != 0
  if !inexact then rne
  else if rne.2 &&& flOverflow != 0 || decide (rne.1 % 2 ^ (f.width - 1) < 2 ^ f.tbits) then
    f.round { c with rm := rmRNE } sat y
  else
    let rtz := f.round { c with rm := rmRTZ, ftz := false } false y
    (clearLow rtz.1, flInexact ||| rtz.2 &&& flUnderflow)

/-- Delivers an exact result under either form. -/
def Fmt.deliver (f : Fmt) (fast : Bool) (c : FCtl) (x : Mod) (y : XR) : Nat × Flags :=
  if fast then f.fast c x.sat (y.modify x) else f.round c x.sat (y.modify x)

/-- One lane of `vsf` or `vsf.fast`: the function's value rounded when both ends of the enclosure round alike, else with
more bits (assumption 8). -/
def Fmt.special (f : Fmt) (fast : Bool) (c : FCtl) (x : Mod) (fn : BitVec 3) (raw : Nat) : Nat × Flags :=
  let inp := f.input c raw
  match SfVal.eval 192 fn inp with
  | .exact y fl => let r := f.deliver fast c x y; (r.1, fl ||| r.2)
  | .between s b =>
    let lo := f.deliver fast c x (.fin s b.lo b.e)
    let hi := f.deliver fast c x (.fin s b.hi b.e)
    if lo = hi then lo
    else
      match SfVal.eval 640 fn inp with
      | .exact y fl => let r := f.deliver fast c x y; (r.1, fl ||| r.2)
      | .between s b => f.deliver fast c x (.fin s b.lo b.e)

end Sys2Proof.Machine
end

