-- ==== Sys2Proof/Machine/Sequencer.lean ====
section
/-! DEFINITION. The solver sequencer and its instructions (R263 to R280). -/

namespace Sys2Proof.Machine

/-! ### FP32 and FP64 arithmetic under RNE (R269) -/

def mul32 (a b : BitVec 32) : BitVec 32 := (fl32 (XR.mul (f32 a) (f32 b)).1).1
def add32 (a b : BitVec 32) : BitVec 32 := (fl32 (XR.add rmRNE (f32 a) (f32 b)).1).1
def sub32 (a b : BitVec 32) : BitVec 32 := (fl32 (XR.sub rmRNE (f32 a) (f32 b)).1).1
def div32 (a b : BitVec 32) : BitVec 32 := (fl32 (XR.div (f32 a) (f32 b)).1).1
def fma32 (a b c : BitVec 32) : BitVec 32 := (fl32 (XR.fma rmRNE (f32 a) (f32 b) (f32 c)).1).1

/-- No modifier. -/
def Mod.none : Mod := ⟨false, false, false, false, 0⟩

/-- The correctly rounded exp2 and log2 of `vsf` (R221). -/
def exp2f (a : BitVec 32) : BitVec 32 := BitVec.ofNat 32 (fmtF32.special false .rne Mod.none 0 a.toNat).1
def log2f (a : BitVec 32) : BitVec 32 := BitVec.ofNat 32 (fmtF32.special false .rne Mod.none 1 a.toNat).1

def neg32 (a : BitVec 32) : BitVec 32 := a ^^^ 0x80000000
def lt32 (a b : BitVec 32) : Bool := XR.lt (f32 a) (f32 b)
def le32 (a b : BitVec 32) : Bool := XR.le (f32 a) (f32 b)

/-- NaN or infinite. -/
def notFinite (a : BitVec 32) : Bool := (f32 a).isNan || (f32 a).isInf

/-! ### The configuration block (R265, R266) -/

/-- An unsigned field of n bytes. -/
def cfgU (b : List Byte) (off n : Nat) : Nat := ofLE ((b.drop off).take n)

/-- An FP32 field. -/
def cfgF (b : List Byte) (off : Nat) : BitVec 32 := BitVec.ofNat 32 (cfgU b off 4)

def cfgStages (b : List Byte) : Nat := cfgU b 0 1
def cfgSamples (b : List Byte) : Nat := cfgU b 4 1
def cfgElems (b : List Byte) : Nat := cfgU b 8 4
def cfgPI (b : List Byte) : Bool := cfgU b 2 1 == 0
def cfgFmt (b : List Byte) : Fmt := match cfgU b 3 1 with | 8 => fmtBf16 | 9 => fmtF16 | _ => fmtF32
def cfgEsize (b : List Byte) : Nat := (cfgFmt b).width / 8
def cfgX (b : List Byte) (s : Nat) : Nat := cfgU b 0x18 4 + s * cfgU b 0x1C 4
def cfgIn (b : List Byte) (s : Nat) : Nat := cfgU b 0x20 4 + s * cfgU b 0x24 4
def cfgK (b : List Byte) (j s : Nat) : Nat := cfgU b 0x28 4 + j * cfgU b 0x30 4 + s * cfgU b 0x2C 4
def cfgXn (b : List Byte) (s : Nat) : Nat := cfgU b 0x34 4 + s * cfgU b 0x38 4
def cfgC (b : List Byte) (i : Nat) : BitVec 32 := cfgF b (0x80 + 4 * i)
def cfgB (b : List Byte) (i : Nat) : BitVec 32 := cfgF b (0xA0 + 4 * i)
def cfgD (b : List Byte) (i : Nat) : BitVec 32 := cfgF b (0xC0 + 4 * i)
def cfgA (b : List Byte) (i j : Nat) : BitVec 32 := cfgF b (0x100 + 4 * (8 * i + j))

/-- The bytes of one sample in a region. -/
def cfgBytes (b : List Byte) : Nat := cfgElems b * cfgEsize b

/-- The bytes that the block does not use. -/
def cfgUnused : List Nat :=
  [5, 6, 7] ++ (List.range 4).map (0x0C + ·) ++ (List.range 4).map (0x3C + ·) ++ (List.range 32).map (0x60 + ·) ++
    (List.range 32).map (0xE0 + ·)

/-- The row and column indices of the a coefficients. -/
def cfgPairs : List (Nat × Nat) := (List.range 8).flatMap fun i => (List.range 8).map fun j => (i, j)

/-- The first four conditions and the parameter ranges of R266: every SEQ_CONFIG row. -/
def cfgLegal (b : List Byte) : Bool :=
  let st := cfgStages b
  let f := cfgF b
  let z : BitVec 32 := 0
  let one : BitVec 32 := 0x3F800000
  decide (1 ≤ st ∧ st ≤ 8) && decide (1 ≤ cfgU b 1 1 ∧ cfgU b 1 1 ≤ 8) && decide (cfgU b 2 1 ≤ 1) &&
    decide (8 ≤ cfgU b 3 1 ∧ cfgU b 3 1 ≤ 10) && decide (1 ≤ cfgSamples b ∧ cfgSamples b ≤ 32) &&
    decide (1 ≤ cfgElems b ∧ cfgElems b ≤ 65536) && decide (cfgElems b ≤ cfgU b 0x10 8) &&
    (cfgUnused.all fun i => b.getD i 0 == 0) &&
    (cfgPairs.all fun p => (decide (p.2 < p.1) && decide (p.1 < st)) || cfgA b p.1 p.2 == 0) &&
    ((List.range 8).all fun i => !notFinite (cfgC b i) && !notFinite (cfgB b i) && !notFinite (cfgD b i)) &&
    (cfgPairs.all fun p => !notFinite (cfgA b p.1 p.2)) &&
    !notFinite (f 0x40) && !notFinite (f 0x44) && !notFinite (f 0x5C) &&
    (!cfgPI b || ([0x48, 0x4C, 0x50, 0x54, 0x58].all fun o => !notFinite (f o))) &&
    !lt32 (f 0x40) z && !lt32 (f 0x44) z && !((f32 (f 0x40)).isZero && (f32 (f 0x44)).isZero) && !lt32 (f 0x5C) z &&
    (!cfgPI b || (lt32 z (f 0x48) && le32 (f 0x48) one && lt32 z (f 0x4C) && le32 (f 0x4C) one && le32 one (f 0x50) &&
      lt32 z (f 0x54) && !lt32 (f 0x58) z)) &&
    ([0x18, 0x1C, 0x20, 0x24, 0x28, 0x2C, 0x30, 0x34, 0x38].all fun o => cfgU b o 4 % cfgEsize b == 0)

/-- Every region's offset of every sample, and whether the sequencer writes it. -/
def cfgRegions (b : List Byte) : List (Nat × Bool) :=
  (List.range (cfgSamples b)).flatMap fun s =>
    [(cfgX b s, true), (cfgIn b s, true)] ++ ((List.range (cfgStages b)).map fun j => (cfgK b j s, false)) ++ [(cfgXn b s, true)]

/-- The first region that breaks a PROT row of R266. -/
def State.regionFault (s : State) (b : List Byte) : Option Nat :=
  let n := cfgBytes b
  let c := s.cur.cor
  match (cfgRegions b).find? fun r => !s.inGrant c r.1 n with
  | some r => some r.1
  | none => ((cfgRegions b).find? fun r => r.2 && s.inCode c r.1 n).map Prod.fst

/-! ### Slots (R264) -/

/-- The state field of a slot: 0 IDLE, 1 ACTIVE, 2 DONE, 3 FAILED. -/
def SeqSlot.phase (x : SeqSlot) : Nat := (x.status.extractLsb' 0 2).toNat

/-- A status word from its fields. -/
def slotStatus (phase : Nat) (prev clip last : Bool) : BitVec 32 :=
  BitVec.ofNat 32 (phase + (if prev then 4 else 0) + (if clip then 8 else 0) + (if last then 16 else 0))

/-- The 32 bytes of a slot. -/
def SeqSlot.bytes (x : SeqSlot) : List Byte :=
  [x.t, x.h, x.tEnd, x.errPrev, x.err, x.steps, x.rejects, x.status].flatMap fun w => leBytes 4 w.toNat

/-- A slot from its 32 bytes. -/
def slotOfBytes (b : List Byte) : SeqSlot :=
  let w (i : Nat) : BitVec 32 := BitVec.ofNat 32 (cfgU b (4 * i) 4)
  ⟨w 0, w 1, w 2, w 3, w 4, w 5, w 6, w 7⟩

/-- Slot n of a context. -/
def SeqCtx.slot (x : SeqCtx) (n : Nat) : SeqSlot := x.slots.toList.getD n SeqSlot.reset

def SeqCtx.setSlot (x : SeqCtx) (n : Nat) (v : SeqSlot) : SeqCtx :=
  if h : n < 32 then { x with slots := x.slots.set n v } else x

/-- QSC (R110, R263). -/
def SeqCtx.qsc (x : SeqCtx) : Word :=
  let l := (List.range 32).map fun i => (x.slot i).phase
  BitVec.ofNat 64 (packLanes 1 (l.map fun p => if p = 2 then 1 else 0) +
    2 ^ 32 * packLanes 1 (l.map fun p => if p = 3 then 1 else 0))

/-- The context of the strand executing. -/
def State.seqCtx (s : State) : SeqCtx := (s.vtile s.cur.cor s.cur.vt).seq

def State.setSeq (s : State) (x : SeqCtx) : State :=
  s.setVtile s.cur.cor s.cur.vt { s.vtile s.cur.cor s.cur.vt with seq := x }

/-- The context is bound to no other stage (R263). -/
def State.seqBound (s : State) : Bool :=
  match s.seqCtx.bound with
  | none => true
  | some st => st == s.me.stage

/-- The residues, the binding and the configured bit that every instruction but `qcfg` needs (R263, R269). -/
def Eff.configured (s : State) (rs : List Reg) (k : List Byte → Eff) : Eff :=
  Eff.residues s rs (Eff.check s (s.seqBound && s.seqCtx.configured) cSEQ_CONFIG (k s.seqCtx.block))

/-- The samples of a mask below the block's count. -/
def maskSamples (b : List Byte) (m : Word) : List Nat := (List.range (cfgSamples b)).filter fun i => m.getLsbD i

/-- The ACTIVE samples of a mask (R269). -/
def State.activeSamples (s : State) (b : List Byte) (m : Word) : List Nat :=
  (maskSamples b m).filter fun i => (s.seqCtx.slot i).phase == 1

/-! ### Memory (R269) -/

/-- Goes on when every range has landed and none is marked, judged in order. -/
def Eff.ranges (s : State) (rs : List (Nat × Nat)) (wr : Bool) (k : Eff) : Eff :=
  let st := rs.map fun r => s.stagedAt s.cur.cor s.cur.vt s.me.stage r.1 r.2
  match st.find? (fun x => x != .ready) with
  | some (.marked va) => .trap s cSTAGE_FAULT (BitVec.ofNat 64 va) false wr
  | some _ => .stall s .staged
  | none => k

/-- The reads of some ranges are noted (R97). -/
def State.noteRanges (s : State) (rs : List (Nat × Nat)) : State :=
  rs.foldl (fun s r => s.noteRead s.cur.cor s.cur.vt s.me.stage r.1 r.2) s

/-- Writes ranges one after another, each needing its verge entries; the trap names the first that finds none. -/
def Eff.writeRanges (s0 : State) (ws : List (Nat × List Byte)) (k : State → Eff) : Eff :=
  match ws.foldl (fun (acc : Except Nat State) w =>
      match acc with
      | .error e => .error e
      | .ok s => if s.localRoom w.1 w.2.length then .ok (s.writeView w.1 w.2) else .error w.1) (.ok s0) with
  | .error off => .trap s0 cDELTA_FULL (BitVec.ofNat 64 off) false true
  | .ok s => k s

/-- The elements of one sample's region as FP32. -/
def State.elements (s : State) (b : List Byte) (off : Nat) : List (BitVec 32) :=
  let es := cfgEsize b
  let bs := s.readView off (cfgBytes b)
  (List.range (cfgElems b)).map fun e =>
    let raw := ofLE ((bs.drop (es * e)).take es)
    if es = 4 then BitVec.ofNat 32 raw else (fl32 ((cfgFmt b).read false raw)).1

/-- An FP32 value as an element. -/
def encElem (b : List Byte) (v : BitVec 32) : Nat := ((cfgFmt b).round .rne false (f32 v)).1

/-- Elements as bytes. -/
def encElems (b : List Byte) (l : List (BitVec 32)) : List Byte := l.flatMap fun v => leBytes (cfgEsize b) (encElem b v)

/-! ### The computations -/

/-- y := fl32(c_j · K_j + y) over the terms (c_j, K_j), element by element (R272, R274). -/
def accumulateTerms (ts : List (BitVec 32 × List (BitVec 32))) (y : List (BitVec 32)) : List (BitVec 32) :=
  ts.foldl (fun y t => List.zipWith (fun k v => fma32 t.1 k v) t.2 y) y

/-- The stage-result elements of a sample. -/
def State.stageResults (s : State) (b : List Byte) (n smp : Nat) : List (List (BitVec 32)) :=
  (List.range n).map fun j => s.elements b (cfgK b j smp)

/-- The input of stage i of a sample (R272). -/
def State.stageInput (s : State) (b : List Byte) (i smp : Nat) : List (BitVec 32) :=
  let h := (s.seqCtx.slot smp).h
  accumulateTerms (List.zip ((List.range i).map fun j => mul32 h (cfgA b i j)) (s.stageResults b i smp))
    (s.elements b (cfgX b smp))

/-- One element's contribution to the error sum (R274). -/
def errorTerm (b : List Byte) (p : BitVec 64) (x xs er : BitVec 32) : BitVec 64 :=
  let m := if (f32 x).isNan || (f32 xs).isNan then XR.nan else if XR.lt (f32 x).abs (f32 xs).abs then (f32 xs).abs else (f32 x).abs
  let sc := (fl32 (XR.fma rmRNE (f32 (cfgF b 0x44)) m (f32 (cfgF b 0x40))).1).1
  let r := f32 (div32 er sc)
  (fl64 (XR.fma rmRNE r r (f64 p)).1).1

/-- x_new and the barrier lane of a sample, with the lane's flags (R274). -/
def State.finishSample (s : State) (b : List Byte) (smp : Nat) : List Byte × Word × Flags :=
  let h := (s.seqCtx.slot smp).h
  let n := cfgStages b
  let x := s.elements b (cfgX b smp)
  let ks := s.stageResults b n smp
  let xn := accumulateTerms (List.zip ((List.range n).map fun j => mul32 h (cfgB b j)) ks) x
  let er := accumulateTerms (List.zip ((List.range n).map fun j => mul32 h (cfgD b j)) ks) (x.map fun _ => 0)
  let xs := xn.map fun v => (fl32 ((cfgFmt b).read false (encElem b v))).1
  let p := (List.zip x (List.zip xs er)).foldl (fun p e => errorTerm b p e.1 e.2.1 e.2.2) 0
  let lane := toQ3232 (f64 p)
  (encElems b xn, lane.1, lane.2)

/-- The error norm of a lane, by R276's formula also where a partial has saturated its lane (R274; assumption 94). -/
def errorNorm (b : List Byte) (n : Word) : BitVec 32 :=
  if n.toInt < 0 then 0x7F800000
  else
    let q := (fl64 (ofQ3232 n)).1
    let d := (fl64 (XR.ofInt (cfgU b 0x10 8))).1
    let m := (fl64 (XR.div (f64 q) (f64 d)).1).1
    (fl32 (f64 (fl64 (XR.sqrt (f64 m)).1).1)).1

/-- The step factor of PI mode (R276); where it would clamp a NaN, whose result no rule states, it is a free value of what it is
computed from, so that equal decisions stay equal (R277; assumption 17). -/
def piFactor (b : List Byte) (x : SeqSlot) (err : BitVec 32) (a : Bool) : BitVec 32 :=
  let f := cfgF b
  let lim (v : BitVec 32) : BitVec 32 :=
    if (f32 v).isNan then Config.factorOfNaN err x.errPrev (f 0x54) (f 0x58)
    else
      let u := if lt32 v (f 0x4C) then f 0x4C else v
      if lt32 (f 0x50) u then f 0x50 else u
  let v :=
    if (f32 err).isZero then f 0x50
    else
      let g := mul32 (f 0x48) (exp2f (neg32 (mul32 (f 0x54) (log2f err))))
      lim (if a && x.status.getLsbD 2 then mul32 g (exp2f (mul32 (f 0x58) (log2f x.errPrev))) else g)
  if !a && lt32 0x3F800000 v then 0x3F800000 else v

/-- The step to be attempted next, before clipping (R276). -/
def nextStep (b : List Byte) (x : SeqSlot) (err : BitVec 32) (a : Bool) : BitVec 32 :=
  if cfgPI b then mul32 x.h (piFactor b x err a)
  else if !a then mul32 x.h 0x3F000000
  else if XR.le (f32 err) (.fin false 1 (-(cfgU b 1 1 : Int) - 1)) then mul32 0x40000000 x.h
  else x.h

/-- A count that stops at its greatest value. -/
def countUp (c : BitVec 32) : BitVec 32 := if c = 0xFFFFFFFF then c else c + 1

/-- The decision on one sample: accepted or not, and the slot (R276). -/
def decideSample (b : List Byte) (x : SeqSlot) (n : Word) : Bool × SeqSlot :=
  let err := errorNorm b n
  let a := le32 err 0x3F800000
  let hn := nextStep b x err a
  let clip := x.status.getLsbD 3
  let t := if a then (if clip then x.tEnd else add32 x.t x.h) else x.t
  let y : SeqSlot :=
    if a then { x with t, errPrev := (if lt32 err 0x38800000 then 0x38800000 else err), err, steps := countUp x.steps }
    else { x with err, rejects := countUp x.rejects }
  let prev := a || x.status.getLsbD 2
  if le32 x.tEnd t then (a, { y with t := x.tEnd, h := hn, status := slotStatus 2 prev clip a })
  else if lt32 hn (cfgF b 0x5C) then (a, { y with h := hn, status := slotStatus 3 prev clip a })
  else
    let rem := sub32 x.tEnd t
    let c := le32 rem hn
    (a, { y with h := if c then rem else hn, status := slotStatus 1 prev c a })

/-- A sample's lane in a payload group (R274). -/
def laneWord (ls : List Word) (smp : Nat) : Word := ls.getD smp 0

/-! ### The instructions -/

/-- `qcfg` (R263, R266, R270). -/
def execQcfg (a : Reg) (s : State) : Out :=
  (Eff.residues s [a] (Eff.check s s.seqBound cSEQ_CONFIG
    (Eff.address s (s.getS a) a onlyLocal 64 512 false fun p =>
      match p with
      | .loc off =>
        Eff.readLocal s off 512 fun s b =>
          if !cfgLegal b then .trap s cSEQ_CONFIG 0 false false
          else
            match s.regionFault b with
            | some r => .trap s cPROT (BitVec.ofNat 64 r) false false
            | none => .done (s.setSeq ⟨some s.me.stage, true, b, Vector.replicate 32 SeqSlot.reset⟩)
      | _ => .trap s cPROT (s.getS a) false false))).out

/-- `qres` (R270). -/
def execQres (a : Reg) (s : State) : Out :=
  (Eff.configured s [a] fun b =>
    .done (s.setSeq ((maskSamples b (s.getS a)).foldl (fun x i => x.setSlot i SeqSlot.reset) s.seqCtx))).out

/-- `qset` (R271); a slot that it leaves DONE or FAILED has its clip bit clear (assumption 94). -/
def execQset (o : R3) (s : State) : Out :=
  (Eff.configured s [o.d, o.a, o.b] fun b =>
    let i := (s.getS o.d).toNat % 32
    let t : BitVec 32 := (s.getS o.a).extractLsb' 0 32
    let te : BitVec 32 := (s.getS o.a).extractLsb' 32 32
    let h : BitVec 32 := (s.getS o.b).extractLsb' 0 32
    Eff.check s (decide (i < cfgSamples b) && !notFinite t && !notFinite te && !notFinite h && lt32 0 h && !lt32 te t)
      cSEQ_CONFIG
      (let x : SeqSlot := { SeqSlot.reset with t, tEnd := te, h }
       let y : SeqSlot :=
         if XR.eq (f32 t) (f32 te) then { x with status := slotStatus 2 false false false }
         else if lt32 h (cfgF b 0x5C) then { x with status := slotStatus 3 false false false }
         else
           let rem := sub32 te t
           let c := le32 rem h
           { x with h := if c then rem else h, status := slotStatus 1 false c false }
       .done (s.setSeq (s.seqCtx.setSlot i y)))).out

/-- `qstg` (R272). -/
def execQstg (i : BitVec 3) (a : Reg) (s : State) : Out :=
  (Eff.configured s [a] fun b =>
    Eff.check s (decide (i.toNat < cfgStages b)) cSEQ_CONFIG
      (let smps := s.activeSamples b (s.getS a)
       let n := cfgBytes b
       let rs := smps.flatMap fun m => (cfgX b m, n) :: (List.range i.toNat).map fun j => (cfgK b j m, n)
       Eff.ranges s rs false (Eff.ranges s (smps.map fun m => (cfgIn b m, n)) true
         (let s := s.noteRanges rs
          Eff.writeRanges s (smps.map fun m => (cfgIn b m, encElems b (s.stageInput b i.toNat m))) Eff.done)))).out

/-- `qtm` (R273). -/
def execQtm (d a : Reg) (f : BitVec 2) (s : State) : Out :=
  (Eff.configured s [a] fun b =>
    let m := (s.getS a).toNat % 32
    Eff.check s (decide (m < cfgSamples b)) cSEQ_CONFIG
      (let x := s.seqCtx.slot m
       let at_ (i : Nat) : SeqSlot := s.seqCtx.slot (16 * (m / 16) + i)
       .done (s.writeV d (lanesLine 32 fun i =>
         match f.toNat with
         | 0 => if i < cfgStages b then (add32 x.t (mul32 (cfgC b i) x.h)).toNat else 0
         | 1 => (at_ i).t.toNat
         | 2 => (at_ i).h.toNat
         | _ => (at_ i).status.toNat)))).out

/-- `qfin` (R274). -/
def execQfin (g : BitVec 3) (a : Reg) (la : BitVec 4) (s : State) : Out :=
  (Eff.configured s [a] fun b =>
    let smps := s.activeSamples b (s.getS a)
    let n := cfgBytes b
    let rs := smps.flatMap fun m => (cfgX b m, n) :: (List.range (cfgStages b)).map fun j => (cfgK b j m, n)
    Eff.ranges s rs false (Eff.ranges s (smps.map fun m => (cfgXn b m, n)) true
      (let s := s.noteRanges rs
       let done := smps.map fun m => (m, s.finishSample b m)
       let lanes := (List.range 32).map fun i => match done.find? (fun p => p.1 == i) with | some p => p.2.2.1 | none => 0
       let ds := (List.range 4).map fun i => (Dest.v (groupReg g i), WinVal.v (lineOf ((lanes.drop (8 * i)).take 8)))
       Eff.writeRanges s (done.map fun p => (cfgXn b p.1, p.2.1)) fun s =>
         .done ((s.addFlags ((done.map fun p => p.2.2.2).foldl (· ||| ·) 0)).open_ la ds none true)))).out

/-- `qdec` (R276). -/
def execQdec (d : Reg) (g : BitVec 3) (m : Reg) (s : State) : Out :=
  (Eff.configured s [m] fun b =>
    let smps := s.activeSamples b (s.getS m)
    let n := cfgBytes b
    let ls := s.me.groupLanes g
    let dec := smps.map fun i => (i, decideSample b (s.seqCtx.slot i) (laneWord ls i))
    let acc := (dec.filter fun p => p.2.1).map Prod.fst
    let rs := acc.map fun i => (cfgXn b i, n)
    Eff.ranges s rs false (Eff.ranges s (acc.map fun i => (cfgX b i, n)) true
      (let s := s.noteRanges rs
       Eff.writeRanges s (acc.map fun i => (cfgX b i, s.readView (cfgXn b i) n)) fun s =>
         let s := s.setSeq (dec.foldl (fun x p => x.setSlot p.1 p.2.2) s.seqCtx)
         .done (s.writeS d (BitVec.ofNat 64 (acc.map fun i => 2 ^ i).sum))))).out

/-- `qst` (R278). -/
def execQst (a m : Reg) (s : State) : Out :=
  (Eff.configured s [a, m] fun b =>
    let smps := maskSamples b (s.getS m)
    Eff.base s a 32 true fun off =>
      match smps.find? fun i => !s.inGrant s.cur.cor (off + 32 * i) 32 || s.inCode s.cur.cor (off + 32 * i) 32 with
      | some i => .trap s cPROT (BitVec.ofNat 64 (off + 32 * i)) false true
      | none =>
        Eff.ranges s (smps.map fun i => (off + 32 * i, 32)) true
          (Eff.writeRanges s (smps.map fun i => (off + 32 * i, (s.seqCtx.slot i).bytes)) Eff.done)).out

end Sys2Proof.Machine
end

