-- ==== Sys2Proof/Machine/Records.lean ====
section
/-! DEFINITION. Liveness, milestone records, the sequencer save area, the trap log, halts and completion records (R95,
R111, R112, R315, R333 to R338, R343). -/

namespace Sys2Proof.Machine

/-! ### Liveness (R285, R337) -/

/-- A liveness entry as the 128-bit number of R337. -/
abbrev Live := Nat

def Live.pc (l : Live) : Nat := l % 2 ^ 32
def Live.s (l : Live) (n : Nat) : Bool := l.testBit (32 + n)
def Live.v (l : Live) (n : Nat) : Bool := l.testBit (64 + n)
def Live.d (l : Live) (n : Nat) : Bool := l.testBit (96 + n)
def Live.p (l : Live) (n : Nat) : Bool := l.testBit (112 + n)
def Live.q (l : Live) : Bool := l.testBit 120

/-- The entry with a PC offset whose masks and q are all set. -/
def Live.all (pc : Nat) : Live := pc % 2 ^ 32 + (2 ^ 121 - 2 ^ 32)

/-- The entry of a barrier at a PC offset, by exact match. -/
def Image.liveEntry (im : Image) (pc : Nat) : Option Live := im.live.find? fun l => Live.pc l == pc

/-- The entry applied at a barrier: with none, everything is saved. -/
def Image.liveAt (im : Image) (pc : Nat) : Live := (im.liveEntry pc).getD (Live.all pc)

/-- An entry with a payload group's registers live (R285). -/
def Live.withGroup (l : Live) (g : BitVec 3) : Live := l ||| (15 <<< (64 + 4 * g.toNat))

/-! ### Milestone records (R338) -/

/-- The residency index of a vtile's record slots. -/
def State.residOf (s : State) (c vt : Nat) : Nat := if c = depotCor then 0 else (s.vtile c vt).resid

/-- The offset of a strand's record slot (R95). -/
def State.recordAt (s : State) (id : StrandId) : Nat := 0x1F0000 + 0x1640 * (4 * s.residOf id.cor id.vt + id.slot)

/-- The control block's seven registers. -/
def Ctl.words (c : Ctl) : List Word := [c.flg, c.vfc, c.mfc0, c.mfc1, c.mfc2, c.mfc3, c.dsc]

/-- A control block from its registers. -/
def Ctl.ofWords (l : List Word) : Ctl :=
  let w (n : Nat) : Word := l.getD n 0
  ⟨w 0, w 1, w 2, w 3, w 4, w 5, w 6⟩

/-- The 0x1640 bytes of a record. -/
def recordBytes (x : Strand) (id : StrandId) (mm pc0 pc1 pc2 : Word) (live : Live) (launch : Bool) : List Byte :=
  let keep (b : Bool) (l : List Byte) : List Byte := if b then l else List.replicate l.length 0
  leBytes 8 mm.toNat ++ leBytes 8 (packPcs pc0 pc1 pc2).toNat ++ leBytes 16 live ++
    leBytes 8 (1 + (if launch then 2 else 0) + x.stage % 16 * 16 + id.slot % 4 * 256 + id.vt % 65536 * 65536) ++
    leBytes 8 (id.cor % 2 ^ 32) ++ List.replicate 16 0 ++
    (x.ctl.words.flatMap fun w => leBytes 8 w.toNat) ++ List.replicate 8 0 ++
    ((List.range 32).flatMap fun n => keep (n != 0 && Live.s live n) (leBytes 8 (x.getS (BitVec.ofNat 5 n)).toNat)) ++
    ((List.range 32).flatMap fun n => keep (Live.v live n) (lineBytes (x.getV (BitVec.ofNat 5 n)))) ++
    ((List.range 16).flatMap fun n => keep (Live.d live n) (distBytes (x.getD (BitVec.ofNat 4 n)))) ++
    ((List.range 8).flatMap fun n => keep (n != 0 && Live.p live n) (leBytes 8 (x.getP (BitVec.ofNat 3 n)).toNat))

/-- Writes a strand's record into the system area of its tile. -/
def State.writeRecord (s : State) (id : StrandId) (x : Strand) (mm pc0 pc1 pc2 : Word) (live : Live) (launch : Bool) :
    State :=
  let p := s.phys id.cor id.vt
  s.setTile p { s.tile p with
    mem := Mem.write (s.tile p).mem (s.recordAt id) (recordBytes x id mm pc0 pc1 pc2 live launch) }

/-- A record's bytes. -/
def State.readRecord (s : State) (id : StrandId) : List Byte :=
  Mem.readN (s.tile (s.phys id.cor id.vt)).mem (s.recordAt id) 0x1640

/-- A record's field of n bytes. -/
def recordField (b : List Byte) (off n : Nat) : Nat := ofLE ((b.drop off).take n)

/-- The record is valid and is that of this strand and mile marker (R341). -/
def recordMatches (b : List Byte) (id : StrandId) (st : Nat) (mm : Word) : Bool :=
  let status := BitVec.ofNat 64 (recordField b 0x20 8)
  recordField b 0 8 == mm.toNat && bit status 0 && bits status 7 4 == st && bits status 9 8 == id.slot &&
    bits status 31 16 == id.vt && recordField b 0x28 4 == id.cor % 2 ^ 32

/-- The poison of R112. -/
abbrev poison64 : Word := 0xDEADDEADDEADDEAD

def poisonDist : Dist := bytesDist ((List.replicate 32 poison64).flatMap fun w => leBytes 8 w.toNat)

/-- A strand's registers as a liveness entry leaves them: dead ones poisoned (R112). -/
def Strand.poisoned (x : Strand) (live : Live) : Strand :=
  let s : Vector Word 32 := Vector.ofFn fun n => if n.val = 0 ∨ Live.s live n then x.s.get n else poison64
  { x with
    s
    sres := Vector.ofFn fun n => if n.val = 0 ∨ Live.s live n then x.sres.get n else residue poison64
    v := Vector.ofFn fun n => if Live.v live n then x.v.get n else lineOf (List.replicate 8 poison64)
    d := Vector.ofFn fun n => if Live.d live n then x.d.get n else poisonDist
    p := Vector.ofFn fun n => if n.val = 0 ∨ Live.p live n then x.p.get n else poison64 }

/-- A strand restored from a record: registers, control block and position; what a superstep run holds is gone (R335,
R336). -/
def Strand.restored_ (x : Strand) (b : List Byte) : Strand :=
  let pcq := BitVec.ofNat 64 (recordField b 8 8)
  let status := BitVec.ofNat 64 (recordField b 0x20 8)
  let sw (n : Nat) : Word := BitVec.ofNat 64 (recordField b (0x80 + 8 * n) 8)
  Strand.poisoned
    { x with
      pc0 := BitVec.ofNat 64 (bits pcq 20 0), pc1 := BitVec.ofNat 64 (bits pcq 41 21)
      pc2 := BitVec.ofNat 64 (bits pcq 62 42), annul := BitVec.ofNat 2 (bits status 3 2), slots := 0
      ctl := Ctl.ofWords ((List.range 7).map fun n => BitVec.ofNat 64 (recordField b (0x40 + 8 * n) 8))
      s := Vector.ofFn fun n => if n.val = 0 then 0 else sw n
      sres := Vector.ofFn fun n => if n.val = 0 then 0 else residue (sw n)
      v := Vector.ofFn fun n => BitVec.ofNat 512 (recordField b (0x180 + 64 * n) 64)
      d := Vector.ofFn fun n => bytesDist ((b.drop (0x980 + 200 * n)).take 200)
      p := Vector.ofFn fun n => if n.val = 0 then BitVec.allOnes 64 else BitVec.ofNat 64 (recordField b (0x1600 + 8 * n) 8)
      windows := [], rep := none, wait := .none, arrival := none, voted := none, cause := none, seq := 0 }
    (recordField b 0x10 16)

/-- The record of an ended strand is no longer valid (R289). -/
def State.clearRecord (s : State) (id : StrandId) : State :=
  let p := s.phys id.cor id.vt
  let a := s.recordAt id + 0x20
  let b := Mem.read (s.tile p).mem a
  s.setTile p { s.tile p with mem := Mem.write (s.tile p).mem a [b &&& 0xFE] }

/-! ### The sequencer save area (R95, R279) -/

/-- The offset of a vtile's save area. -/
def State.seqArea (s : State) (c vt : Nat) : Nat := 0x1FB200 + 0x600 * s.residOf c vt

/-- The save area's bytes: an unconfigured context has a block of zeros. -/
def SeqCtx.saved (x : SeqCtx) : List Byte :=
  (if x.configured then (x.block ++ List.replicate 512 0).take 512 else List.replicate 512 0) ++
    x.slots.toList.flatMap SeqSlot.bytes

/-- A context from its save area; a block naming no stage count stands for no configuration.  It stays bound (R263). -/
def SeqCtx.ofSaved (bound : Option Nat) (b : List Byte) : SeqCtx :=
  { bound, configured := (b.headD 0) != 0, block := b.take 512
    slots := Vector.ofFn fun n => slotOfBytes ((b.drop (512 + 32 * n)).take 32) }

def State.saveSeq (s : State) (c vt : Nat) : State :=
  let p := s.phys c vt
  s.setTile p { s.tile p with mem := Mem.write (s.tile p).mem (s.seqArea c vt) (s.vtile c vt).seq.saved }

def State.restoreSeq (s : State) (c vt : Nat) : State :=
  let v := s.vtile c vt
  let x := SeqCtx.ofSaved v.seq.bound (Mem.readN (s.tile (s.phys c vt)).mem (s.seqArea c vt) 0x600)
  s.setVtile c vt { v with seq := x }

/-! ### Interrupts and records in host-visible memory -/

/-- The tile that the depot's accesses to far memory are counted for: one of its own on die C0 (R393). -/
def State.depotTile (s : State) : Nat := s.depot.columns.headD 0

/-- Counts a far access of the depot's at its home controller (R44, R393). -/
def State.noteDepot (s : State) (pa n : Nat) : State := s.noteLines s.depotTile pa n

/-- The oldest of the depot's writes to peers leaves, once none is under way and a tag is free; one whose aperture is gone is
dropped (R350). -/
def State.sendWrites (s : State) : State :=
  match s.fabric.writes with
  | [] => s
  | w :: r =>
    if s.fabric.open_.any fun t => t.use == .post then s
    else
      match s.apertureAt w.pasid w.va with
      | some a =>
        ((s.openTrans a.pkg .wr a.pasid (a.target + (w.va - a.va)) w.bytes.length 1 w.bytes .post).map fun t =>
          t.noteDepot (peerPa a.pkg (a.target + (w.va - a.va))) w.bytes.length).getD s
      | none => s.onFabric fun f => { f with writes := r }

/-- The oldest write has been answered. -/
def State.wroteOne (s : State) : State := (s.onFabric fun f => { f with writes := f.writes.drop 1 }).sendWrites

/-- A write for a record of a corridor, or of the depot's own, has still to be answered by a peer. -/
def State.owesWrite (s : State) (who : Nat) : Bool := s.fabric.writes.any fun w => w.who == who

/-- The depot writes device memory under an address space, where it translates; behind an aperture the package that holds it
does, one write after the other (R350).  `who` is the corridor whose record it is, or the depot's own number. -/
def State.writeVa (s : State) (who pasid : Nat) (ctx : Option Nat) (va : Nat) (bs : List Byte) : Option State :=
  if (s.apertureAt pasid va).isSome then
    some (s.onFabric fun f => { f with writes := f.writes ++ [⟨who, pasid, va, bs⟩] }).sendWrites
  else
    match walk s pasid ctx ⟨false, true, false⟩ va with
    | .ok e => some ((s.noteDepot (e.pa va) bs.length).farWrite (e.pa va) bs)
    | .error _ => none

/-- A function's registers. -/
def State.func (s : State) (fn : Nat) : Func := KMap.getD s.host.funcs fn Func.reset
def State.setFunc (s : State) (fn : Nat) (f : Func) : State :=
  { s with host := { s.host with funcs := KMap.set s.host.funcs fn f } }

/-- The device writes host memory (R362). -/
def State.hostWrite (s : State) (prefix_ : Option Nat) (addr : Nat) (bs : List Byte) : State :=
  { s with host := { s.host with writes := s.host.writes ++ [⟨prefix_, addr, bs⟩] } }

/-- The payload of a post is written to the host address that is registered for its vector, if one is (R364); it carries no prefix
(assumption 95). -/
def State.postPayload (s : State) (fn vec : Nat) (payload : Option Word) : State :=
  match payload, KMap.get? (s.func fn).vecAddr vec with
  | some w, some a => s.hostWrite none a.toNat (leBytes 8 w.toNat)
  | _, _ => s

/-- Posts an MSI-X interrupt, after the payload that `ipost` writes; a masked vector is left pending (R364). -/
def State.post (s : State) (fn vec : Nat) (payload : Option Word) : State :=
  if 64 < fn ∨ (if fn = 0 then 2048 else 64) ≤ vec then
    { s with host := { s.host with droppedPosts := s.host.droppedPosts + 1 } }
  else
    let s := s.postPayload fn vec payload
    let f := s.func fn
    s.setFunc fn { f with
      posted := if f.masked.contains vec then f.posted else f.posted ++ [(vec, payload)]
      pendingVec := if f.masked.contains vec && !f.pendingVec.contains vec then f.pendingVec ++ [vec] else f.pendingVec }

/-- An event for the depot's strands (R374). -/
def State.depotEvent (s : State) (n : Nat) : State :=
  s.mapStrands fun id x =>
    if isDepotId id then { x with depot := { x.depot with evt := x.depot.evt ||| BitVec.ofNat 64 (2 ^ n) } } else x

/-! ### The trap log (R334) -/

/-- The eight words of a trap or halt record. -/
def trapWords (t : TrapInfo) (st : Nat) (mm : Word) (agn : BitVec 4) (halt : Bool) (n : Nat) : List Word :=
  let w (x : Nat) : Word := BitVec.ofNat 64 x
  [w (t.cause.toNat + (if halt then 0 else causeClass t.cause) * 2 ^ 8 + t.vt % 2 ^ 16 * 2 ^ 16 + t.slot % 4 * 2 ^ 32 +
      st % 16 * 2 ^ 34 + (if t.s2 then 2 ^ 38 else 0) + (if t.wr then 2 ^ 39 else 0) + (if halt then 2 ^ 40 else 0)),
   mm, t.pc0 &&& 0x1FFFFF, t.pc1 &&& 0x1FFFFF, w (t.annul.toNat + bits t.pc2 20 0 * 4), t.addr, t.chain,
   w (agn.toNat + n % 2 ^ 32 * 2 ^ 32)]

/-- The bytes of words. -/
def wordBytes (l : List Word) : List Byte := l.flatMap fun w => leBytes 8 w.toNat

/-- The depot writes one record to a corridor's trap log. -/
def State.logTrap (s : State) (c st : Nat) (t : TrapInfo) (mm : Word) (agn : BitVec 4) (halt : Bool) : State :=
  let k := s.cor c
  let n := k.trapCount
  let va := bits (k.word 4) 47 0 + 64 * (n % 2 ^ bits (k.word 4) 51 48)
  let s := ((s.writeVa c k.pasid k.ctx va (wordBytes (trapWords t st mm agn halt n))).getD s).depotEvent 1
  s.setCor c { s.cor c with trapCount := n + 1 }

/-! ### Discarding what a run holds (R238, R330, R336) -/

/-- Every slot, command, lease and waiting place of some strands is dropped (R238). -/
def State.dropMatrix (s : State) (f : StrandId → Bool) : State :=
  { s with
    tiles := s.tiles.map fun p => (p.1, { p.2 with
      queue := p.2.queue.filter fun c => !f c.id
      cmdRunning := match p.2.cmdRunning with | some c => if f c.id then none else some c | none => none
      acc := p.2.acc.filter fun a => !f a.2.owner
      lease := match p.2.lease with | some l => if f l.1 then none else some l | none => none
      leaseQueue := p.2.leaseQueue.filter fun l => !f l.1 })
    strands := (s.mapStrands fun id y => if f id then { y with handles := [], serial := 0 } else y).strands }

/-- A strand without what a superstep run holds outside its registers: commands, posted entries, held operations; popped
source-0x02 entries return in arrival order (R63, R336). -/
def Strand.discarded (x : Strand) : Strand :=
  let keep := fun (m : MailEntry) => m.source == 2
  let back := x.popped ++ x.mailbox.filter keep
  { x with
    fifo := [], running := [], pushing := none, held := [], popped := [], mailbox := back, mailWaiting := x.mailWaiting.filter keep }

/-- The strands of a stage on a vtile. -/
def State.strandIds (s : State) (c vt st : Nat) : List StrandId :=
  (s.strands.filter fun p => decide (p.1.cor = c ∧ p.1.vt = vt ∧ p.2.stage = st)).map Prod.fst

/-- What a tile holds of a stage run is dropped: verge entries but the arrived cross-stage data, fetch list, commands,
counts and votes (R336). -/
def State.discardTile (s : State) (c vt st : Nat) : State :=
  let x := s.stageTile c vt st
  let s := s.dropRecords c vt st x.fetch
  let s := s.setStageTile c vt st { x with
    loc := [], inbound := [], bcast := [], outbound := [], cross := [], farlog := [], fetch := [], pending := 0
    reported := false, voteCast := false, tileCause := none, crossVoted := 0 }
  let s := s.mapStrands fun id y => if id.cor = c ∧ id.vt = vt ∧ y.stage = st then y.discarded else y
  s.dropMatrix fun id => id.cor == c && id.vt == vt && (s.strand id).stage == st

/-! ### Ending a corridor (R315, R333) -/

/-- The two words of a completion record. -/
def completionWords (status : Nat) (cause : BitVec 8) (st vt : Nat) (mm : Word) : List Word :=
  [BitVec.ofNat 64 (status + cause.toNat * 256 + st % 16 * 65536 + vt % 65536 * 2 ^ 32), mm]

/-- Every strand of a corridor stops and what its supersteps hold is discarded. -/
def State.stopCorridor (s : State) (c : Nat) (next : CorState) (done : List Word) : State :=
  let k := s.cor c
  let s := (List.range k.image.vtiles).foldl (fun s vt =>
    (k.image.stagesOn vt).foldl (fun s st => s.discardTile c vt st) s) s
  let s := s.mapStrands fun id y =>
    if id.cor = c ∧ y.status ≠ .ended then
      { y with status := .stopped, wait := .none, windows := [], cause := none, voted := none }
    else y
  s.setCor c { s.cor c with state := next, completion := some done }

/-- The corridor halts with a cause of a stage (R333). -/
def State.haltCorridor (s : State) (c st : Nat) (cause : BitVec 8) (vt : Nat) (mm : Word) : State :=
  s.stopCorridor c .halted (completionWords 1 cause st vt mm)

/-- The lowest vtile of a stage. -/
def Image.lowest (im : Image) (st : Nat) : Nat := (im.members st).headD 0

/-! ### Debug halts (R343) -/

/-- A strand stands at a boundary where a host halt may stop it (R159). -/
def Strand.haltable (x : Strand) : Bool := x.windows.isEmpty && x.rep.isNone

/-- A strand halts: its wait is cancelled and its halt record written. -/
def State.haltStrand (s : State) (id : StrandId) (code : Option Word) : State :=
  let x := s.strand id
  let t := s.trapInfo id 0 0 false false
  let g := s.stage id.cor x.stage
  let p := s.phys id.cor id.vt
  let s := s.setTile p { s.tile p with leaseQueue := (s.tile p).leaseQueue.filter fun l => decide (l.1 ≠ id) }
  let s := s.setStrand id { x with status := .halted, wait := .none, pushing := none, stepping := false, halting := false, haltCode := code }
  s.logTrap id.cor x.stage { t with chain := code.getD t.chain } g.mm g.agn true

/-- A strand halts now if it may, else at its next permitted boundary: one that has arrived halts after phase 9, one whose run an
abort or a pre-emption has stopped once it runs again. -/
def State.askHalt (s : State) (id : StrandId) : State :=
  let x := s.strand id
  match x.status with
  | .running => if x.haltable then s.haltStrand id none else s.setStrand id { x with halting := true }
  | .arriving => s.setStrand id { x with halting := true }
  | .arrived => s.setStrand id { x with halting := true }
  | .trapped => s.setStrand id { x with halting := true }
  | .stopped => s.setStrand id { x with halting := true }
  | .parked => s.setStrand id { x with halting := true }
  | .halted => s
  | .ended => s

/-- The status with which a strand of a corridor runs again: halted while the debugger holds the corridor, but for one that has
still to write its halt record (R343). -/
def State.statusOf (s : State) (c : Nat) (x : Strand) : Status :=
  if (s.cor c).haltedBy && !x.halting then .halted else .running

/-- Every strand of a corridor but those listed is asked to halt, and CYC stops counting. -/
def State.debugHalt (s : State) (c : Nat) (but : List StrandId) : State :=
  let ids := (s.strands.map Prod.fst).filter fun id => id.cor == c && !but.contains id
  let s := ids.foldl State.askHalt s
  s.setCor c { s.cor c with haltedBy := true }

/-- A strand that is to halt at its next permitted boundary halts there; one that steps halts once its instruction has
executed (R343, R345). -/
def State.afterStep (s : State) (id : StrandId) : State :=
  let x := s.strand id
  if x.status == .running && x.haltable && (x.halting || (x.stepping && x.wait == .none)) then s.haltStrand id none else s

end Sys2Proof.Machine
end

