-- ==== Sys2Proof/Machine/Barrier.lean ====
section
/-! DEFINITION. The barrier instructions, `vote` and `bwait` as a strand executes them (R284, R285, R287, R289, R291,
R293, R294). -/

namespace Sys2Proof.Machine

/-- Every scalar register that a liveness entry saves has the right residue (step 2 of R284). -/
def Strand.savedOk (x : Strand) (live : Live) : Bool :=
  (List.range 32).all fun n => !Live.s live n || x.resOk (BitVec.ofNat 5 n)

/-- The arrival that a barrier instruction of the strand executing makes. -/
def State.arrivalOf (s : State) (kind : BarKind) (op : BitVec 5) (g : BitVec 3) : Arrival :=
  { kind, pc := s.me.pc0, op, group := g
    lanes := match kind with
      | .red => s.me.groupLanes g
      | .finRed => s.me.groupLanes g
      | _ => []
    chain := chainWord (s.chainAt s.cur s.me.pc0) }

/-- The strand begins to arrive: its lease is released and the strike horizon counts from here (steps 4 to 7 of R284;
the event ARRIVAL ends the arrival once its commands have completed). -/
def State.arrive (s : State) (a : Arrival) : State :=
  let s := s.releaseLease s.cur
  let g := s.stage s.cur.cor s.me.stage
  let s := s.setStage s.cur.cor s.me.stage { g with horizonAt := s.clock + 1024 }
  s.onMe fun x => { x with status := .arriving, arrival := some a, wait := .none }

/-- A barrier instruction (R284). -/
def Eff.barrier (s : State) (kind : BarKind) (op : BitVec 5) (g : BitVec 3) : Eff :=
  Eff.noSlot s (Eff.noBody s (Eff.corridorOnly s
    (if !s.me.allLanded then .stall s .windows
     else
       let t := s.onMe Strand.endWindows
       let live := t.image.liveAt t.me.pc0.toNat
       Eff.check t (t.me.savedOk live) cRESIDUE
         (Eff.check t t.me.handles.isEmpty cACC_LIVE (.settled (t.arrive (t.arrivalOf kind op g)))))))

/-- `bar` (R284). -/
def execBar (s : State) : Out := (Eff.barrier s .bar 0 0).out

/-- `bar.red` (R287). -/
def execBarRed (g : BitVec 3) (op : BitVec 5) (s : State) : Out := (Eff.barrier s .red op g).out

/-- `bar.end` (R289). -/
def execBarEnd (s : State) : Out := (Eff.barrier s .fin 0 0).out

/-- `bar.endr` (R289). -/
def execBarEndr (g : BitVec 3) (op : BitVec 5) (s : State) : Out := (Eff.barrier s .finRed op g).out

/-- `vote` (R291): the first one of the superstep stands. -/
def execVote (s : State) : Out :=
  (Eff.corridorOnly s (.done (s.onMe fun x =>
    { x with voted := match x.voted with
        | some v => some v
        | none => some (s.trapInfo s.cur cVOTE 0 false false) }))).out

/-- The tile's delivered mark for a stage (R293). -/
def State.deliveredMark (s : State) (c vt st : Nat) : Word := KMap.getD (s.vtile c vt).delivered st 0

/-- A wait for commit m of a stage is over: its delivered mark has come so far, or the stage has ended and every delivery of
its last commit has landed (R59, R294). -/
def State.waitOver (s : State) (c vt st : Nat) (m : Word) : Bool :=
  let d := s.deliveredMark c vt st
  decide (m.toNat ≤ d.toNat) || ((s.stage c st).ended && d == (s.stage c st).mm)

/-- `bwait` (R293, R294). -/
def execBwait (a b : Reg) (s : State) : Out :=
  let st := bits (s.getS a) 3 0
  let m := s.getS b
  let c := s.cur.cor
  (Eff.corridorOnly s (Eff.residues s [a, b]
    (if bits (s.getS a) 63 4 ≠ 0 ∨ s.image.stages ≤ st then .trap s cILLEGAL 0 false false
     else if st = s.me.stage then
       (if m.toNat ≤ (s.stage c st).mm.toNat then .done s else .trap s cILLEGAL 0 false false)
     else if s.waitOver c s.cur.vt st m then .done s
     else .settled (s.onMe fun x => { x with wait := .stage st m })))).out

end Sys2Proof.Machine
end

