-- ==== Sys2Proof/Machine/Vector.lean ====
section
/-! DEFINITION. Vector lane arithmetic, compares, conversion, reductions and dot products (R209 to R216). -/

namespace Sys2Proof.Machine

/-- Every lane of width w: computed where enabled, kept elsewhere; the flags are the OR over the enabled lanes (R209). -/
def mapLanes (w : Nat) (en : Nat → Bool) (old : Line) (f : Nat → Nat × Flags) : Line × Flags :=
  let rs := (List.range (512 / w)).map fun i => if en i then f i else (lane old w i, 0)
  (BitVec.ofNat 512 (packLanes w (rs.map Prod.fst)), (rs.map Prod.snd).foldl (· ||| ·) 0)

/-- A vector result with its flags, under a mask (R209). -/
def Eff.lanes (s : State) (d : Reg) (m : BitVec 3) (w : Nat) (f : Nat → Nat × Flags) : Eff :=
  let r := mapLanes w (s.enabled m) (s.getV d) f
  .done ((s.writeV d r.1).addFlags r.2)

/-- A lane operation on type t: on exact integers or on exact floating values a, b and c, c being the old lane (R210). -/
def laneOp (t : Elem) (c : FCtl) (x : Mod) (fi : Nat → Int → Int → Int → Int) (ff : XR → XR → XR → XR × Flags)
    (a b old : Nat) : Nat × Flags :=
  match t with
  | .int f => deliverInt f x (fi f.width (f.read a) (f.read b) (f.read old))
  | .flt f => deliverFlt f c x (ff (f.input c a) (f.input c b) (f.input c old))

/-- The two-source lane operations. -/
def Eff.arith (s : State) (o : V3) (x : Mod) (fi : Nat → Int → Int → Int → Int) (ff : XR → XR → XR → XR × Flags) : Eff :=
  let w := laneWidth o.t
  let a := s.getV o.a
  let b := s.getV o.b
  let old := s.getV o.d
  Eff.lanes s o.d o.m w fun i => laneOp (elemOf o.t) s.me.fctl x fi ff (lane a w i) (lane b w i) (lane old w i)

/-- The bitwise and shift operations on lanes of width w (R211). -/
def Eff.bitwise (s : State) (o : V3) (f : Nat → Nat → Nat → Nat) : Eff :=
  let w := laneWidth o.t
  let a := s.getV o.a
  let b := s.getV o.b
  Eff.lanes s o.d o.m w fun i => (f w (lane a w i) (lane b w i), 0)

/-- Two lanes compared: the result of `f` on -1, 0 or 1, `unord` for an unordered pair, and whether that is invalid
(R212). -/
def compareLanes (t : Elem) (c : FCtl) (f : Int → Bool) (unord signals : Bool) (a b : Nat) : Bool × Flags :=
  match t with
  | .int g =>
    let d := g.read a - g.read b
    (f (if d < 0 then -1 else if d = 0 then 0 else 1), 0)
  | .flt g =>
    match XR.cmp (g.input c a) (g.input c b) with
    | some r => (f r, 0)
    | none => (unord, if signals then flInvalid else 0)

/-- A predicate from its bits. -/
def bitsOf (l : List Bool) : Word := BitVec.ofNat 64 (packLanes 1 (l.map fun b => if b then 1 else 0))

/-- A compare into a predicate register (R212). -/
def Eff.compare (s : State) (o : VCmp) (f : Int → Bool) (unord signals : Bool) : Eff :=
  let w := laneWidth o.t
  let a := s.getV o.a
  let b := s.getV o.b
  let rs := (List.range (512 / w)).map fun i =>
    if s.enabled o.m i then compareLanes (elemOf o.t) s.me.fctl f unord signals (lane a w i) (lane b w i) else (false, 0)
  .done ((s.writeP o.d (bitsOf (rs.map Prod.fst))).addFlags ((rs.map Prod.snd).foldl (· ||| ·) 0))

/-! ### Reductions (R215) -/

/-- A value of a reduction's tree: empty, or the exact value of its last combine with the flags so far. -/
abbrev RedNode := Option (XR × Flags)

/-- A node's value as its parent reads it: rounded to the lane type (R215). -/
def settle (f : Fmt) (c : FCtl) (n : XR × Flags) : XR × Flags :=
  let r := f.round c false n.1
  (f.read c.b8inf r.1, n.2 ||| r.2)

/-- Combines two nodes. -/
def combineNodes (g : XR × Flags → XR × Flags → XR × Flags) (a b : RedNode) : RedNode :=
  match a, b with
  | none, y => y
  | x, none => x
  | some x, some y => some (g x y)

/-- One addition of a reduction, of its operands as they are rounded to the lane type. -/
def addNodes (f : Fmt) (c : FCtl) (x y : XR × Flags) : XR × Flags :=
  let p := settle f c x
  let q := settle f c y
  let r := XR.add c.rm p.1 q.1
  (r.1, p.2 ||| q.2 ||| r.2)

/-- The lesser or greater of two lanes, which needs no rounding and sets no flag. -/
def pickNodes (high : Bool) (x y : XR × Flags) : XR × Flags := (XR.pickMinMax high x.1 y.1, 0)

/-- One level of the pairwise tree. -/
def treeLevel {α : Type} (g : α → α → α) : List α → List α
  | a :: b :: r => g a b :: treeLevel g r
  | l => l

/-- The pairwise tree of up to 2^k leaves. -/
def treeFold {α : Type} (g : α → α → α) : Nat → List α → List α
  | 0, l => l
  | k + 1, l => treeFold g k (treeLevel g l)

/-- The root of the tree. -/
def treeRoot {α : Type} (g : α → α → α) (d : α) (l : List α) : α := (treeFold g 7 l).headD d

/-- A floating reduction's exact root. -/
def floatTree (g : XR × Flags → XR × Flags → XR × Flags) (empty : XR) (l : List (Option XR)) : XR × Flags :=
  (treeRoot (combineNodes g) none (l.map fun o => o.map fun x => (x, 0))).getD (empty, 0)

/-- A reduction's result goes to lane 0, and 0 to the others. -/
def Eff.reduced (s : State) (d : Reg) (w : Nat) (r : Nat × Flags) : Eff :=
  .done ((s.writeV d (BitVec.ofNat 512 (r.1 % 2 ^ w))).addFlags r.2)

/-- The enabled lanes of a vector, none where disabled. -/
def State.contributing (s : State) (o : V2) : List (Option Nat) :=
  let w := laneWidth o.t
  (List.range (512 / w)).map fun i => if s.enabled o.m i then some (lane (s.getV o.a) w i) else none

/-- A reduction's result; with every lane disabled it sets no flag (R226). -/
def Eff.reducedOf (s : State) (o : V2) (r : Nat × Flags) : Eff :=
  Eff.reduced s o.d (laneWidth o.t) (r.1, if (s.contributing o).all Option.isNone then 0 else r.2)

/-- `vred.add`, `vred.min` and `vred.max`: integers by `fi` on the list of values, floating lanes by the tree. -/
def Eff.reduce (s : State) (o : V2) (x : Mod) (fi : IFmt → List Int → Int)
    (ff : Fmt → XR × Flags → XR × Flags → XR × Flags) (empty : XR) : Eff :=
  let c := s.me.fctl
  let ls := s.contributing o
  let r :=
    match elemOf o.t with
    | .int f => deliverInt f x (fi f ((ls.filterMap id).map f.read))
    | .flt f => deliverFlt f c x (floatTree (ff f) empty (ls.map fun l => l.map (f.input c)))
  Eff.reducedOf s o r

/-- The least element of a list, or `d`. -/
def leastOf (d : Int) : List Int → Int
  | [] => d
  | x :: r => r.foldl min x

/-- The greatest element of a list, or `d`. -/
def greatestOf (d : Int) : List Int → Int
  | [] => d
  | x :: r => r.foldl max x

/-- The sequential sum: the exact value of the last addition, and the flags. -/
def sequentialSum (f : Fmt) (c : FCtl) (acc : XR × Flags) (l : List XR) : XR × Flags :=
  l.foldl (fun n x =>
    let p := settle f c n
    let r := XR.add c.rm p.1 x
    (r.1, p.2 ||| r.2)) acc

/-! ### Dot products (R216) -/

/-- The exact sum of the old lane and k products of floating lanes. -/
def dotTerms (f : Fmt) (c : FCtl) (acc : XR) (ps : List (Nat × Nat)) : XR × Flags :=
  let ms := ps.map fun p => XR.mul (f.input c p.1) (f.input c p.2)
  let r := XR.sum c.rm (acc :: ms.map Prod.fst)
  (r.1, (ms.map Prod.snd).foldl (· ||| ·) r.2)

/-- The exact integer sum of products. -/
def dotInt (f : IFmt) (acc : Int) (ps : List (Nat × Nat)) : Int := (ps.map fun p => f.read p.1 * f.read p.2).foldl (· + ·) acc

/-- `vdot4` and `vdot2` (R216). -/
def Eff.dot (s : State) (o : V3) (x : Mod) (k : Nat) : Eff :=
  let w := laneWidth o.t
  let a := s.getV o.a
  let b := s.getV o.b
  let old := s.getV o.d
  let c := s.me.fctl
  Eff.lanes s o.d o.m 32 fun i =>
    let ps := (List.range k).map fun j => (lane a w (k * i + j), lane b w (k * i + j))
    match elemOf o.t with
    | .int f => let g : IFmt := ⟨32, f.signed⟩; deliverInt g x (dotInt f (g.read (lane old 32 i)) ps)
    | .flt f => deliverFlt fmtF32 c x (dotTerms f c (fmtF32.input c (lane old 32 i)) ps)

/-- `vadd` (R210). -/
def execVadd (o : V3) (x : Mod) (s : State) : Out :=
  (Eff.arith s o x (fun _ a b _ => a + b)
    (fun a b _ => XR.add s.me.fctl.rm a b)).out

/-- `vsub` (R210). -/
def execVsub (o : V3) (x : Mod) (s : State) : Out :=
  (Eff.arith s o x (fun _ a b _ => a - b)
    (fun a b _ => XR.sub s.me.fctl.rm a b)).out

/-- `vmul` (R210). -/
def execVmul (o : V3) (x : Mod) (s : State) : Out :=
  (Eff.arith s o x (fun _ a b _ => a * b)
    (fun a b _ => XR.mul a b)).out

/-- `vmulh` (R210). Integer types alone (R208). -/
def execVmulh (o : V3) (x : Mod) (s : State) : Out :=
  (Eff.arith s o x (fun w a b _ => a * b / (2 ^ w : Nat))
    (fun a b _ => XR.mul a b)).out

/-- `vfma` (R210). -/
def execVfma (o : V3) (x : Mod) (s : State) : Out :=
  (Eff.arith s o x (fun _ a b c => a * b + c)
    (fun a b c => XR.fma s.me.fctl.rm a b c)).out

/-- `vfms` (R210). -/
def execVfms (o : V3) (x : Mod) (s : State) : Out :=
  (Eff.arith s o x (fun _ a b c => a * b - c)
    (fun a b c => XR.fma s.me.fctl.rm a b c.neg)).out

/-- `vfnma` (R210). -/
def execVfnma (o : V3) (x : Mod) (s : State) : Out :=
  (Eff.arith s o x (fun _ a b c => -(a * b) - c)
    (fun a b c => XR.fma s.me.fctl.rm a.neg b c.neg)).out

/-- `vfnms` (R210). -/
def execVfnms (o : V3) (x : Mod) (s : State) : Out :=
  (Eff.arith s o x (fun _ a b c => -(a * b) + c)
    (fun a b c => XR.fma s.me.fctl.rm a.neg b c)).out

/-- `vmin` (R210). -/
def execVmin (o : V3) (x : Mod) (s : State) : Out :=
  (Eff.arith s o x (fun _ a b _ => min a b)
    (fun a b _ => (XR.pickMinMax false a b, 0))).out

/-- `vmax` (R210). -/
def execVmax (o : V3) (x : Mod) (s : State) : Out :=
  (Eff.arith s o x (fun _ a b _ => max a b)
    (fun a b _ => (XR.pickMinMax true a b, 0))).out

/-- `vabd` (R210). -/
def execVabd (o : V3) (x : Mod) (s : State) : Out :=
  (Eff.arith s o x (fun _ a b _ => ((a - b).natAbs : Int))
    (fun a b _ => ((XR.sub s.me.fctl.rm a b).1.abs, (XR.sub s.me.fctl.rm a b).2))).out

/-- `vavg` (R210). -/
def execVavg (o : V3) (x : Mod) (s : State) : Out :=
  (Eff.arith s o x (fun _ a b _ => (a + b + 1) / 2)
    (fun a b _ => ((XR.add s.me.fctl.rm a b).1.scale (-1), (XR.add s.me.fctl.rm a b).2))).out

/-- `vand` (R211). -/
def execVand (o : V3) (s : State) : Out :=
  (Eff.bitwise s o (fun _ a b => a &&& b)).out

/-- `vor` (R211). -/
def execVor (o : V3) (s : State) : Out :=
  (Eff.bitwise s o (fun _ a b => a ||| b)).out

/-- `vxor` (R211). -/
def execVxor (o : V3) (s : State) : Out :=
  (Eff.bitwise s o (fun _ a b => a ^^^ b)).out

/-- `vandn` (R211). -/
def execVandn (o : V3) (s : State) : Out :=
  (Eff.bitwise s o (fun w a b => a &&& ((2 ^ w - 1) ^^^ b))).out

/-- `vshl` (R211). -/
def execVshl (o : V3) (s : State) : Out :=
  (Eff.bitwise s o (fun w a b => a <<< (b % w))).out

/-- `vshr` (R211). -/
def execVshr (o : V3) (s : State) : Out :=
  (Eff.bitwise s o (fun w a b => a >>> (b % w))).out

/-- `vsra` (R211). -/
def execVsra (o : V3) (s : State) : Out :=
  (Eff.bitwise s o (fun w a b => lowBits w ((IFmt.mk w true).read a / (2 ^ (b % w) : Nat)))).out

/-- `vrol` (R211). -/
def execVrol (o : V3) (s : State) : Out :=
  (Eff.bitwise s o (fun w a b => a <<< (b % w) ||| a >>> (w - b % w))).out

/-- `vcmp.eq` (R212). -/
def execVcmpEq (o : VCmp) (s : State) : Out :=
  (Eff.compare s o (· == 0) false false).out

/-- `vcmp.lt` (R212). -/
def execVcmpLt (o : VCmp) (s : State) : Out :=
  (Eff.compare s o (· == -1) false true).out

/-- `vcmp.le` (R212). -/
def execVcmpLe (o : VCmp) (s : State) : Out :=
  (Eff.compare s o (· != 1) false true).out

/-- `vcmp.ne` (R212). -/
def execVcmpNe (o : VCmp) (s : State) : Out :=
  (Eff.compare s o (· != 0) true false).out

/-- `vsel` (R213): the selector chooses, and every lane is written. -/
def execVsel (o : V3) (s : State) : Out :=
  let w := laneWidth o.t
  (Eff.done (s.writeV o.d (lanesLine w fun i => if s.enabled o.m i then lane (s.getV o.a) w i else lane (s.getV o.b) w i))).out

/-- `vcvt` (R214). -/
def execVcvt (o : VCvt) (x : Mod) (s : State) : Out :=
  let ws := laneWidth o.src
  let wd := laneWidth o.dst
  let m := min (512 / ws) (512 / wd)
  let rs := (List.range (512 / wd)).map fun i =>
    if m ≤ i then (0, 0)
    else if s.enabled o.m i then convert (elemOf o.src) (elemOf o.dst) s.me.fctl x (lane (s.getV o.a) ws i)
    else (lane (s.getV o.d) wd i, 0)
  (Eff.done ((s.writeV o.d (BitVec.ofNat 512 (packLanes wd (rs.map Prod.fst)))).addFlags
    ((rs.map Prod.snd).foldl (· ||| ·) 0))).out

/-- `vred.add` (R215). -/
def execVredAdd (o : V2) (x : Mod) (s : State) : Out :=
  (Eff.reduce s o x (fun _ l => l.sum) (fun f => addNodes f s.me.fctl) (XR.zero false)).out

/-- `vred.min` (R215). -/
def execVredMin (o : V2) (x : Mod) (s : State) : Out :=
  (Eff.reduce s o x (fun f l => leastOf f.hi l) (fun _ => pickNodes false) (.inf false)).out

/-- `vred.max` (R215). -/
def execVredMax (o : V2) (x : Mod) (s : State) : Out :=
  (Eff.reduce s o x (fun f l => greatestOf f.lo l) (fun _ => pickNodes true) (.inf true)).out

/-- `vred.addo` (R215): floating types alone (R208). -/
def execVredAddo (o : V2) (x : Mod) (s : State) : Out :=
  let c := s.me.fctl
  let w := laneWidth o.t
  (Eff.reducedOf s o (match elemOf o.t with
  | .flt f => deliverFlt f c x
      (sequentialSum f c (f.input c (lane (s.getV o.d) w 0), 0) ((s.contributing o).filterMap id |>.map (f.input c)))
  | .int f => deliverInt f x (((s.contributing o).filterMap id).map f.read).sum)).out

/-- `vdot4` (R216). -/
def execVdot4 (o : V3) (x : Mod) (s : State) : Out :=
  (Eff.dot s o x 4).out

/-- `vdot2` (R216). -/
def execVdot2 (o : V3) (x : Mod) (s : State) : Out :=
  (Eff.dot s o x 2).out

end Sys2Proof.Machine
end

