-- ==== Sys2Proof/Machine/VecMem.lean ====
section
/-! DEFINITION. Vector memory, lane movement, special functions, the generator and the distribution tables (R217 to
R225). -/

namespace Sys2Proof.Machine

/-! ### Vector memory (R217, R218) -/

/-- The offsets of the enabled bytes of a line. -/
def State.enabledBytes (s : State) (m : BitVec 3) (off : Nat) : List Nat :=
  ((List.range 64).filter fun i => s.enabled m i).map (off + ·)

/-- What stands in the way of an access to some bytes: a mark first, then a byte not landed. -/
def State.stagedBytes (s : State) (offs : List Nat) : Staged :=
  let l := offs.map fun a => s.stagedAt s.cur.cor s.cur.vt s.me.stage a 1
  match l.find? fun x => match x with | .marked _ => true | _ => false with
  | some x => x
  | none => if l.contains .notLanded then .notLanded else .ready

/-- Goes on when bytes can be accessed (R172, R217). -/
def Eff.bytesReady (s : State) (offs : List Nat) (wr : Bool) (k : Eff) : Eff :=
  match s.stagedBytes offs with
  | .marked va => .trap s cSTAGE_FAULT (BitVec.ofNat 64 va) false wr
  | .notLanded => .stall s .staged
  | .ready => k

/-- The reads of some single bytes are noted (R97). -/
def State.noteBytes (s : State) (offs : List Nat) : State :=
  offs.foldl (fun s a => s.noteRead s.cur.cor s.cur.vt s.me.stage a 1) s

/-- Writes single bytes of the view. -/
def State.writeBytes (s : State) (l : List (Nat × Byte)) : State := l.foldl (fun s p => s.writeView p.1 [p.2]) s

/-- The lanes that a gather or scatter performs, with their offsets, after the checks in ascending lane order (R218). -/
def Eff.laneOffsets (s : State) (o : V3) (wr : Bool) (base : Nat) (k : List (Nat × Nat) → Eff) : Eff :=
  let w := laneWidth o.t
  let step (acc : Except Eff (List (Nat × Nat))) (i : Nat) : Except Eff (List (Nat × Nat)) :=
    match acc with
    | .error e => .error e
    | .ok l =>
      let off := base + lane (s.getV o.b) w i * (w / 8)
      if !s.inGrant s.cur.cor off (w / 8) || (wr && s.inCode s.cur.cor off (w / 8)) then
        .error (.trap s cPROT (BitVec.ofNat 64 off) false wr)
      else
        match s.stagedAt s.cur.cor s.cur.vt s.me.stage off (w / 8) with
        | .marked va => .error (.trap s cSTAGE_FAULT (BitVec.ofNat 64 va) false wr)
        | .notLanded => .error (.stall s .staged)
        | .ready =>
          let ls := distinct ((l.map fun p => p.2 / 64) ++ [off / 64])
          if wr && !s.isDepot && !s.room s.cur.cor s.cur.vt s.me.stage (newLines s.mine.loc ls) then
            .error (.trap s cDELTA_FULL (BitVec.ofNat 64 off) false true)
          else .ok (l ++ [(i, off)])
  match ((List.range (512 / w)).filter fun i => s.enabled o.m i).foldl step (.ok []) with
  | .error e => e
  | .ok l => k l

/-- The base of a gather or scatter, checked under orders 1 to 5 of R30 (R218). -/
def Eff.laneBase (s : State) (o : V3) (wr : Bool) (k : Nat → Eff) : Eff :=
  Eff.base s o.a (laneWidth o.t / 8) wr k

/-! ### Lane movement (R219, R220) -/

/-- Moves raw lanes: lane i of the destination is `f i` where enabled. -/
def Eff.moved (s : State) (d : Reg) (m : BitVec 3) (w : Nat) (f : Nat → Nat) : Eff := Eff.lanes s d m w fun i => (f i, 0)

/-! ### The generator (R223) -/

/-- The hash of a 32-bit counter under a key. -/
def hash32 (k0 k1 c : Nat) : Nat :=
  let m := 2 ^ 32
  let x := ((c ^^^ k0) * 0x9E3779B1) % m
  let x := x ^^^ (x >>> 15)
  let x := ((x ^^^ k1) * 0x85EBCA77) % m
  let x := x ^^^ (x >>> 13)
  let x := ((x + k0) * 0xC2B2AE3D) % m
  x ^^^ (x >>> 16)

/-- Hashes the enabled lanes and delivers each through `f`. -/
def Eff.generate (s : State) (o : R3) (m : BitVec 3) (f : Nat → Nat) : Eff :=
  let k := s.getS o.b
  Eff.moved s o.d m 32 fun i => f (hash32 (bits k 31 0) (bits k 63 32) (lane (s.getV o.a) 32 i))

/-! ### Distribution tables (R224, R225) -/

/-- One dimension's extent, block, owners and local extent. -/
def tableDim (t : List Word) (d : Nat) : Nat × Nat × Nat × Nat :=
  let w := t.getD (1 + d) 0
  (bits w 15 0, bits w 31 16, bits w 47 32, bits w 63 48)

/-- The owner and the local element of coordinates under a table of n dimensions, from dimension d on; none where a
coordinate reaches its extent. -/
def locate (t : List Word) (x : Word) : Nat → Nat → Nat → Nat → Option (Nat × Nat)
  | 0, _, owner, loc => some (owner, loc)
  | n + 1, d, owner, loc =>
    let p := tableDim t d
    let xd := bits x (16 * d + 15) (16 * d)
    if p.1 ≤ xd then none
    else
      let o := xd / p.2.1 % p.2.2.1
      let l := xd / (p.2.1 * p.2.2.1) * p.2.1 + xd % p.2.1
      locate t x n (d + 1) (owner * p.2.2.1 + o) (loc * p.2.2.2 + l)

/-- The vtile and the tile offset that a table gives coordinates (R225): none raises PROT. -/
def tablePlace (t : List Word) (x : Word) : Option (Nat × Nat) :=
  let h := t.getD 0 0
  if bits h 18 16 = 0 then none
  else
    match locate t x (bits h 18 16) 0 0 0 with
    | none => none
    | some (o, l) => some (bits h 15 0 + o, bits h 44 24 + l * 2 ^ bits h 23 20)

/-- Goes on with the place that the coordinates in a register have under a table. -/
def Eff.place (s : State) (o : R2) (t : BitVec 5) (k : Nat → Nat → Word) : Eff :=
  match tablePlace (KMap.getD s.image.dtabs t.toNat []) (s.getS o.a) with
  | none => .trap s cPROT 0 false false
  | some (vt, off) => .done (s.writeS o.d (k vt off))

/-- `vld` (R217): disabled bytes keep the value at issue. -/
def execVld (o : LdOp) (m : BitVec 3) (s : State) : Out :=
  let ea := s.ea o.a o.off 64
  (Eff.address s ea o.a onlyLocal 64 64 false fun p =>
    match p with
    | .loc off =>
      let offs := s.enabledBytes m off
      Eff.issued (State.postInc · o.a o.inc 64) <| Eff.bytesReady s offs false
        (let s := s.noteBytes offs
         let old := s.getV o.d
         let mem := ofLE (s.readView off 64)
         let new := lanesLine 8 fun i => if s.enabled m i then mem >>> (8 * i) % 256 else lane old 8 i
         .done ((s.postInc o.a o.inc 64).open_ o.la [(.v o.d, .v new)] none true))
    | _ => .trap s cPROT ea false false).out

/-- `vst` (R217): only the enabled bytes are written. -/
def execVst (o : StOp) (m : BitVec 3) (s : State) : Out :=
  let ea := s.ea o.a o.off 64
  (Eff.address s ea o.a onlyLocal 64 64 true fun p =>
    match p with
    | .loc off =>
      let offs := s.enabledBytes m off
      Eff.bytesReady s offs true
        (if offs.isEmpty || s.localRoom off 64 then
          .done (s.writeBytes (offs.map fun a => (a, BitVec.ofNat 8 (lane (s.getV o.s) 8 (a - off)))))
        else .trap s cDELTA_FULL ea false true)
    | _ => .trap s cPROT ea false true).out

/-- `vgat` (R218). -/
def execVgat (o : V3) (s : State) : Out :=
  let w := laneWidth o.t
  (Eff.laneBase s o false fun base => Eff.laneOffsets s o false base fun l =>
    let s := s.noteBytes (l.map Prod.snd)
    Eff.moved s o.d o.m w fun i =>
      match l.find? fun p => p.1 == i with
      | some p => ofLE (s.readView p.2 (w / 8))
      | none => 0).out

/-- `vsct` (R218): a higher lane wins. -/
def execVsct (o : V3) (s : State) : Out :=
  let w := laneWidth o.t
  (Eff.laneBase s o true fun base => Eff.laneOffsets s o true base fun l =>
    .done (l.foldl (fun s p => s.writeView p.2 (leBytes (w / 8) (lane (s.getV o.d) w p.1))) s)).out

/-- `vbc` (R219). -/
def execVbc (o : V2) (s : State) : Out :=
  (Eff.moved s o.d o.m (laneWidth o.t) fun _ => (s.getS o.a).toNat).out

/-- `vins` (R219). -/
def execVins (o : V3) (s : State) : Out :=
  let w := laneWidth o.t
  let n := (s.getS o.b).toNat % (512 / w)
  (Eff.moved s o.d o.m w fun i => if i = n then (s.getS o.a).toNat else lane (s.getV o.d) w i).out

/-- `vext` (R219): sign-extended for i types, zero-extended for all others. -/
def execVext (o : R3) (t : BitVec 5) (s : State) : Out :=
  let w := laneWidth t
  let x := lane (s.getV o.a) w ((s.getS o.b).toNat % (512 / w))
  (Eff.value s o.d (match elemOf t with
    | .int f => BitVec.ofInt 64 (f.read x)
    | .flt _ => BitVec.ofNat 64 x)).out

/-- `vidx` (R219). -/
def execVidx (o : V3) (s : State) : Out :=
  (Eff.moved s o.d o.m (laneWidth o.t) fun i => (s.getS o.a).toNat + i * (s.getS o.b).toNat).out

/-- `vperm` (R220). -/
def execVperm (o : V3) (s : State) : Out :=
  let w := laneWidth o.t
  (Eff.moved s o.d o.m w fun i => lane (s.getV o.a) w (lane (s.getV o.b) w i % (512 / w))).out

/-- `vzip` (R220). -/
def execVzip (o : V3) (s : State) : Out :=
  let w := laneWidth o.t
  (Eff.moved s o.d o.m w fun i => if i % 2 = 0 then lane (s.getV o.a) w (i / 2) else lane (s.getV o.b) w (i / 2)).out

/-- `vuzp` (R220). -/
def execVuzp (o : V3) (s : State) : Out :=
  let w := laneWidth o.t
  let n := 512 / w
  (Eff.moved s o.d o.m w fun i => if i < n / 2 then lane (s.getV o.a) w (2 * i) else lane (s.getV o.b) w (2 * i - n)).out

/-- `vrot` (R220). -/
def execVrot (o : V3) (s : State) : Out :=
  let w := laneWidth o.t
  (Eff.moved s o.d o.m w fun i => lane (s.getV o.a) w ((i + (s.getS (o.b)).toNat) % (512 / w))).out

/-- `vsf` (R221, R222). -/
def execVsf (o : V2) (f : BitVec 3) (x : Mod) (s : State) : Out :=
  let w := laneWidth o.t
  (Eff.lanes s o.d o.m w fun i =>
    match elemOf o.t with
    | .flt g => g.special false s.me.fctl x f (lane (s.getV o.a) w i)
    | .int _ => (0, 0)).out

/-- `vsf.fast` (R221, R222). -/
def execVsfFast (o : V2) (f : BitVec 3) (x : Mod) (s : State) : Out :=
  let w := laneWidth o.t
  (Eff.lanes s o.d o.m w fun i =>
    match elemOf o.t with
    | .flt g => g.special true s.me.fctl x f (lane (s.getV o.a) w i)
    | .int _ => (0, 0)).out

/-- `vrng` (R223). -/
def execVrng (o : R3) (m : BitVec 3) (s : State) : Out :=
  (Eff.generate s o m id).out

/-- `vrng.f` (R223): exact, so no flag. -/
def execVrngF (o : R3) (m : BitVec 3) (s : State) : Out :=
  (Eff.generate s o m fun out => (fmtF32.round .rne false (.fin false (out / 256) (-24))).1).out

/-- `gaddr` (R225). -/
def execGaddr (o : R2) (t : BitVec 5) (s : State) : Out :=
  (Eff.place s o t fun vt off => BitVec.ofNat 64 (0x4000000000000000 + vt * 2097152 + off)).out

/-- `gowner` (R225). -/
def execGowner (o : R2) (t : BitVec 5) (s : State) : Out :=
  (Eff.place s o t fun vt _ => BitVec.ofNat 64 vt).out

end Sys2Proof.Machine
end

