-- ==== Sys2Proof/Machine/Distribution.lean ====
section
/-! DEFINITION. Distribution elements, their pairing and condensation, and the instructions on them (R135, R244 to
R262). -/

namespace Sys2Proof.Machine

/-! ### Elements (R135) -/

/-- The value of a point. -/
def DPoint.value (p : DPoint) : XR := f32 p.val

/-- The canonical NaN of FP32. -/
abbrev nan32 : BitVec 32 := 0x7FC00000

/-- The canonical NaN element. -/
def DElem.nan : DElem := Vector.ofFn fun q => ⟨nan32, if q.val = 0 then 0xFFFF else 0⟩

/-- The points of non-zero weight. -/
def DElem.points (e : DElem) : List DPoint := e.toList.filter fun p => p.w != 0

/-- The sum of the weights. -/
def DElem.weight (e : DElem) : Nat := (e.toList.map fun p => p.w.toNat).sum

/-- A point of non-zero weight holds NaN. -/
def DElem.isNan (e : DElem) : Bool := e.points.any fun p => p.value.isNan

/-- An element in canonical form where it is void or NaN (R247). -/
def DElem.canonical (e : DElem) : DElem := if e.points.isEmpty then DElem.void else if e.isNan then .nan else e

/-- An element from its four points. -/
def DElem.ofList (l : List DPoint) : DElem := Vector.ofFn fun q => l.getD q.val ⟨0, 0⟩

/-- Element e is enabled by the mask predicate. -/
def State.elems (s : State) (d : BitVec 4) (m : BitVec 3) (f : Nat → DElem → DElem) : Vector DElem 8 :=
  Vector.ofFn fun e => if s.enabled m e.val then f e.val ((s.getD d).elems.get e) else (s.getD d).elems.get e

/-- The enabled elements of a mask, ascending. -/
def State.enabledElems (s : State) (m : BitVec 3) : List Nat := (List.range 8).filter fun e => s.enabled m e

/-- Element e of a register. -/
def Dist.elem (x : Dist) (e : Nat) : DElem := x.elems.toList.getD e DElem.void

/-- Writes a distribution register: its enabled elements with their flags, and a whole header (R244, R247). -/
def Eff.dist (s : State) (d : BitVec 4) (m : BitVec 3) (mask : BitVec 16) (align approx : Bool)
    (f : Nat → DElem × Flags) : Eff :=
  .done ((s.writeD d ⟨s.elems d m fun e _ => (f e).1, mask, align, approx⟩).addFlags
    ((s.enabledElems m).foldl (fun a e => a ||| (f e).2) 0))

/-- The header that a lineage option gives a fresh register (R248). -/
def lineage (lin : BitVec 5) : BitVec 16 × Bool :=
  if lin.toNat < 16 then (BitVec.ofNat 16 (2 ^ lin.toNat), true) else (0, false)

/-! ### Operations on points (R250, R251) -/

/-- A delivered point value with its flags. -/
def point32 (r : XR × Flags) : BitVec 32 × Flags := let v := fl32 r.1; (v.1, r.2 ||| v.2)

/-- The lesser or greater value; a NaN operand gives NaN. -/
def distPick (high : Bool) (a b : XR) : XR × Flags :=
  if a.isNan || b.isNan then (.nan, 0) else (XR.pickMinMax high a b, 0)

/-- A candidate: its value and its exact weight. -/
abbrev Cand := BitVec 32 × Nat

/-- A value comes before another in ascending order, -0 before +0. -/
def before32 (a b : BitVec 32) : Bool :=
  XR.lt (f32 a) (f32 b) || ((f32 a).isZero && (f32 b).isZero && (f32 a).sign && !(f32 b).sign)

/-- Inserts a candidate before those of equal value. -/
def insertCand (x : Cand) : List Cand → List Cand
  | [] => [x]
  | y :: r => if before32 y.1 x.1 then y :: insertCand x r else x :: y :: r

/-- Sorts by value, equal values by index. -/
def sortCands (l : List Cand) : List Cand := l.foldr insertCand []

/-! ### Condensation (R252, R253) -/

/-- A value rounded to FP64. -/
def r64 (x : XR) : XR := f64 (fl64 x).1

def add64 (a b : XR) : XR := r64 (XR.add rmRNE a b).1
def mul64 (a b : XR) : XR := r64 (XR.mul a b).1
def div64 (a b : XR) : XR := r64 (XR.div a b).1
def nat64 (n : Nat) : XR := r64 (.fin false n 0)

/-- The cost of merging two neighbours. -/
def mergeCost (a b : Cand) : XR :=
  let x := f32 a.1
  let y := f32 b.1
  let d := if XR.eq x y then XR.zero false else r64 (XR.sub rmRNE x y).1
  mul64 (div64 (nat64 (a.2 * b.2)) (nat64 (a.2 + b.2))) (mul64 d d)

/-- The costs of a list's neighbours. -/
def mergeCosts : List Cand → List XR
  | a :: b :: r => mergeCost a b :: mergeCosts (b :: r)
  | _ => []

/-- The lowest position of least cost. -/
def leastCost (l : List XR) : Nat :=
  ((List.range l.length).find? fun i => l.all fun y => XR.le (l.getD i .nan) y).getD 0

/-- The value of a merged point: none where it is NaN. -/
def mergedValue (a b : Cand) : Option (BitVec 32) :=
  let x := f32 a.1
  let y := f32 b.1
  if XR.eq x y then some a.1
  else if x.isInf && y.isInf then none
  else if x.isInf then some a.1
  else if y.isInf then some b.1
  else some (fl32 (div64 (add64 (mul64 (nat64 a.2) x) (mul64 (nat64 b.2) y)) (nat64 (a.2 + b.2)))).1

/-- Merges at a position. -/
def mergeAt : Nat → List Cand → Option (List Cand)
  | 0, a :: b :: r => (mergedValue a b).map fun v => (v, a.2 + b.2) :: r
  | n + 1, a :: r => (mergeAt n r).map (a :: ·)
  | _, l => some l

/-- Merges until four points remain; `fuel` bounds the merges. -/
def mergeDown : Nat → List Cand → Option (List Cand)
  | 0, l => some l
  | f + 1, l =>
    if l.length ≤ 4 then some l
    else
      match mergeAt (leastCost (mergeCosts l)) l with
      | none => none
      | some l => mergeDown f l

/-- n / d rounded to the nearest integer, ties to even. -/
def roundDiv (n d : Nat) : Nat :=
  let q := n / d
  let r := n % d
  if d < 2 * r ∨ (2 * r = d ∧ q % 2 = 1) then q + 1 else q

/-- A weight renormalised against the largest. -/
def renormal (w top : Nat) : BitVec 16 :=
  if w = 0 then 0 else BitVec.ofNat 16 (if roundDiv (65535 * w) top = 0 then 1 else roundDiv (65535 * w) top)

/-- WARD condensation of sorted points. -/
def ward (l : List Cand) : DElem :=
  match mergeDown l.length l with
  | none => .nan
  | some l =>
    let top := (l.map Prod.snd).foldl max 0
    let last := (l.getLastD (0, 0)).1
    DElem.ofList ((l ++ List.replicate (4 - l.length) (last, 0)).map fun (p : Cand) => ⟨p.1, renormal p.2 top⟩)

/-- The points that share mass with quarter b: their values and the shared mass in quarters of a unit. -/
def quarter (l : List Cand) (total b : Nat) : List Cand :=
  let step (acc : Nat × List Cand) (p : Cand) : Nat × List Cand :=
    let lo := max (4 * acc.1) (b * total)
    let hi := min (4 * (acc.1 + p.2)) ((b + 1) * total)
    (acc.1 + p.2, if lo < hi then acc.2 ++ [(p.1, hi - lo)] else acc.2)
  (l.foldl step (0, [])).2

/-- The value of one quarter: none where it is NaN; of points that are zeros of both signs the first (assumption 94). -/
def quarterValue (l : List Cand) (total : Nat) : Option (BitVec 32) :=
  match l with
  | [] => some 0
  | p :: r =>
    if r.all fun q => XR.eq (f32 p.1) (f32 q.1) then some p.1
    else
      let infs := l.filter fun q => (f32 q.1).isInf
      match infs with
      | q :: qs => if qs.all fun x => (f32 x.1).sign == (f32 q.1).sign then some q.1 else none
      | [] =>
        let sum := l.foldl (fun acc q => add64 acc (mul64 (r64 (.fin false q.2 (-2))) (f32 q.1))) (XR.zero false)
        some (fl32 (div64 sum (r64 (.fin false total (-2))))).1

/-- QUANT condensation of sorted points. -/
def quant (l : List Cand) : DElem :=
  let total := (l.map Prod.snd).sum
  let vs := (List.range 4).map fun b => quarterValue (quarter l total b) total
  if vs.all Option.isSome then DElem.ofList (vs.map fun v => ⟨v.getD 0, 0xFFFF⟩) else .nan

/-- Condenses candidates in index order, under DSC.cmode. -/
def condense (cmode : Bool) (l : List Cand) : DElem :=
  let l := l.filter fun p => p.2 != 0
  if l.isEmpty then DElem.void
  else if l.any fun p => (f32 p.1).isNan then .nan
  else if cmode then quant (sortCands l) else ward (sortCands l)

/-! ### Pairing (R249) -/

/-- Point by point (R250). -/
def pointwise (f : XR → XR → XR × Flags) (a b : DElem) : DElem × Flags :=
  let ps := (a.toList.zip b.toList).map fun p => (point32 (f p.1.value p.2.value), p.1.w)
  ((DElem.ofList (ps.map fun p => ⟨p.1.1, p.2⟩)).canonical,
    ps.foldl (fun acc p => if p.2 = 0 then acc else acc ||| p.1.2) 0)

/-- Every point with every point (R251). -/
def fullPairing (cmode : Bool) (f : XR → XR → XR × Flags) (a b : DElem) : DElem × Flags :=
  let cs := a.toList.flatMap fun p => b.toList.map fun q => (point32 (f p.value q.value), p.w.toNat * q.w.toNat)
  (condense cmode (cs.map fun c => (c.1.1, c.2)), cs.foldl (fun acc c => if c.2 = 0 then acc else acc ||| c.1.2) 0)

/-- The weights of two elements agree. -/
def sameWeights (a b : DElem) : Bool := a.toList.map DPoint.w == b.toList.map DPoint.w

/-- The binary operations under the judgement of R249. -/
def Eff.pair (s : State) (o : D3) (f : XR → XR → XR × Flags) : Eff :=
  let a := s.getD o.a
  let b := s.getD o.b
  let full := fullPairing (bit s.me.ctl.dsc 0) f
  if a.mask &&& b.mask = 0 then
    Eff.dist s o.d o.m (a.mask ||| b.mask) false (a.approx || b.approx) fun e => full (a.elem e) (b.elem e)
  else if a.mask = b.mask && a.align && b.align &&
      (s.enabledElems o.m).all fun e => sameWeights (a.elem e) (b.elem e) then
    Eff.dist s o.d o.m a.mask true (a.approx || b.approx) fun e => pointwise f (a.elem e) (b.elem e)
  else if bit s.me.ctl.dsc 1 then .trap s cDEPX 0 false false
  else
    Eff.dist (s.addFlags flDepx) o.d o.m (a.mask ||| b.mask) false true fun e => full (a.elem e) (b.elem e)

/-- The mixture of two elements (R255). -/
def mixture (cmode : Bool) (a b : DElem) : DElem :=
  let wa := a.weight
  let wb := b.weight
  let k (w : Nat) : Nat := if wa = 0 ∨ wb = 0 then 1 else w
  condense cmode ((a.toList.map fun p => (p.val, p.w.toNat * k wb)) ++ (b.toList.map fun p => (p.val, p.w.toNat * k wa)))

/-- Every point of an element and a scalar (R256). -/
def scaledElemBy (f : XR → XR × Flags) (a : DElem) : DElem × Flags :=
  let ps := a.toList.map fun p => (point32 (f p.value), p.w)
  ((DElem.ofList (ps.map fun p => ⟨p.1.1, p.2⟩)).canonical,
    ps.foldl (fun acc p => if p.2 = 0 then acc else acc ||| p.1.2) 0)

/-- `dscl` and `dsht`. -/
def Eff.scaled (s : State) (d a : BitVec 4) (b : Reg) (m : BitVec 3) (f : XR → XR → XR × Flags) : Eff :=
  let x := f32 ((s.getS b).setWidth 32)
  let r := s.getD a
  Eff.dist s d m r.mask r.align r.approx fun e => scaledElemBy (fun v => f v x) (r.elem e)

/-! ### Construction (R248) -/

/-- FP32 lane i of a vector register. -/
def State.lane32 (s : State) (r : Reg) (i : Nat) : BitVec 32 := BitVec.ofNat 32 (lane (s.getV r) 32 i)

/-- Builds the enabled elements of a fresh register. -/
def Eff.construct (s : State) (d : BitVec 4) (m : BitVec 3) (lin : BitVec 5) (f : Nat → DElem × Flags) : Eff :=
  Eff.dist s d m (lineage lin).1 (lineage lin).2 false f

/-- The three points of a normal approximation. -/
def normalElem (mu sg : BitVec 32) : DElem × Flags :=
  let sigma := f32 sg
  if sigma.sign && !sigma.isZero then (.nan, flInvalid)
  else
    let t := point32 (XR.mul (f32 0x3FDDB3D7) sigma.abs)
    let lo := point32 (XR.sub rmRNE (f32 mu) (f32 t.1))
    let hi := point32 (XR.add rmRNE (f32 mu) (f32 t.1))
    ((DElem.ofList [⟨lo.1, 16384⟩, ⟨mu, 65535⟩, ⟨hi.1, 16384⟩, ⟨hi.1, 0⟩]).canonical, t.2 ||| lo.2 ||| hi.2)

/-! ### Extraction (R257, R258) -/

/-- A value of a computation in FP64 with the invalid it has met. -/
abbrev Tracked := XR × Flags

def Tracked.op (r : XR × Flags) (a b : Tracked) : Tracked := (r64 r.1, a.2 ||| b.2 ||| (r.2 &&& flInvalid))
def Tracked.add (a b : Tracked) : Tracked := Tracked.op (XR.add rmRNE a.1 b.1) a b
def Tracked.sub (a b : Tracked) : Tracked := Tracked.op (XR.sub rmRNE a.1 b.1) a b
def Tracked.mul (a b : Tracked) : Tracked := Tracked.op (XR.mul a.1 b.1) a b
def Tracked.div (a b : Tracked) : Tracked := Tracked.op (XR.div a.1 b.1) a b
def Tracked.sqrt (a : Tracked) : Tracked := Tracked.op (XR.sqrt a.1) a a

/-- A sum in order, starting at its first term. -/
def Tracked.sum : List Tracked → Tracked
  | [] => (.zero false, 0)
  | x :: r => r.foldl Tracked.add x

/-- The weighted mean of `f` over the points. -/
def Tracked.mean (l : List DPoint) (f : DPoint → Tracked) : Tracked :=
  Tracked.div (Tracked.sum (l.map fun p => Tracked.mul (nat64 p.w.toNat, 0) (f p)))
    (nat64 (l.map fun p => p.w.toNat).sum, 0)

/-- The final narrowing of a moment. -/
def Tracked.narrow (a : Tracked) : BitVec 32 × Flags := let r := fl32 a.1; (r.1, a.2 ||| r.2)

/-- The two lanes of `dmom` for one element. -/
def moments (f : BitVec 2) (e : DElem) : BitVec 32 × BitVec 32 × Flags :=
  let ps := e.points
  if f = 3 then ((fl32 (.fin false e.weight 0)).1, (fl32 (.fin false ps.length 0)).1, (fl32 (.fin false e.weight 0)).2)
  else if ps.isEmpty || e.isNan then (nan32, nan32, 0)
  else if f = 2 then
    let l := sortCands (ps.map fun p => (p.val, 0))
    ((l.headD (0, 0)).1, (l.getLastD (0, 0)).1, 0)
  else
    let m := Tracked.mean ps fun p => (p.value, 0)
    let d (p : DPoint) : Tracked := Tracked.sub (p.value, 0) (m.1, 0)
    let e2 (p : DPoint) : Tracked := Tracked.mul (d p) (d p)
    let m2 := Tracked.mean ps e2
    if f = 0 then
      let a := Tracked.narrow m
      let b := Tracked.narrow (m2.1, m.2 ||| m2.2)
      (a.1, b.1, a.2 ||| b.2)
    else if m2.1.isZero then (nan32, nan32, 0)
    else
      let m3 := Tracked.mean ps fun p => Tracked.mul (e2 p) (d p)
      let m4 := Tracked.mean ps fun p => Tracked.mul (e2 p) (e2 p)
      let a := Tracked.narrow (Tracked.div m3 (Tracked.mul m2 (Tracked.sqrt m2)))
      let b := Tracked.narrow (Tracked.div m4 (Tracked.mul m2 m2))
      (a.1, b.1, m.2 ||| a.2 ||| b.2)

/-- The points of an element as sorted candidates. -/
def DElem.sorted (e : DElem) : List Cand := sortCands (e.points.map fun p => (p.val, p.w.toNat))

/-- The first point whose cumulative weight reaches p · W. -/
def quantileFrom (p : XR) (total : Nat) : Nat → List Cand → BitVec 32
  | _, [] => nan32
  | c, x :: r =>
    if XR.le (XR.mul p (.fin false total 0)).1 (.fin false (c + x.2) 0) then x.1 else quantileFrom p total (c + x.2) r

/-- One lane of `dqnt`. -/
def quantile (e : DElem) (arg : BitVec 32) : BitVec 32 × Flags :=
  let p := f32 arg
  if p.isNan || XR.lt p (.zero false) || XR.lt .one p then (nan32, flInvalid)
  else if e.points.isEmpty || e.isNan then (nan32, 0)
  else (quantileFrom p e.weight 0 e.sorted, 0)

/-- One lane of `dcdf`. -/
def cumulative (e : DElem) (arg : BitVec 32) : BitVec 32 × Flags :=
  let x := f32 arg
  if x.isNan then (nan32, flInvalid)
  else if e.points.isEmpty || e.isNan then (nan32, 0)
  else
    let below := ((e.points.filter fun p => XR.le p.value x).map fun p => p.w.toNat).sum
    fl32 (XR.div (.fin false below 0) (.fin false e.weight 0)).1

/-- `dqnt` and `dcdf`. -/
def Eff.perElem (s : State) (d : Reg) (a : BitVec 4) (b : Reg) (m : BitVec 3) (f : DElem → BitVec 32 → BitVec 32 × Flags) :
    Eff :=
  let r (e : Nat) := f ((s.getD a).elem e) (s.lane32 b e)
  .done ((s.writeV d (lanesLine 32 fun i =>
    if 8 ≤ i then 0 else if s.enabled m i then (r i).1.toNat else lane (s.getV d) 32 i)).addFlags
      ((s.enabledElems m).foldl (fun acc e => acc ||| (r e).2) 0))

/-! ### Memory (R259, R260) -/

/-- The offsets of the enabled elements' bytes of an image. -/
def State.elemBytesAt (s : State) (m : BitVec 3) (off : Nat) : List Nat :=
  (s.enabledElems m).flatMap fun e => (List.range 24).map fun i => off + 24 * e + i

/-- The header a load gives under a lineage option. -/
def loadedHeader (lin : BitVec 5) (x : Dist) : BitVec 16 × Bool :=
  if lin.toNat < 16 then lineage lin else (x.mask, x.align)

/-- `dld` (R259). -/
def execDld (o : DLdOp) (s : State) : Out :=
  let ea := s.ea o.a o.off 256
  (Eff.address s ea o.a onlyLocal 256 256 false fun p =>
    match p with
    | .loc off =>
      let offs := s.elemBytesAt o.m off ++ (List.range 8).map fun i => off + 192 + i
      Eff.bytesReady s offs false
        (let s := s.noteBytes offs
         let x := bytesDist (s.readView off 256)
         let h := loadedHeader o.lin x
         let v : Dist := ⟨s.elems o.d o.m fun e _ => (x.elem e).canonical, h.1, h.2, x.approx⟩
         .done ((s.postInc o.a o.inc 256).open_ o.la [(.d o.d, .d v)] none true))
    | _ => .trap s cPROT ea false false).out

/-- `dst` (R260). -/
def execDst (o : DStOp) (s : State) : Out :=
  let ea := s.ea o.a o.off 256
  (Eff.address s ea o.a onlyLocal 256 256 true fun p =>
    match p with
    | .loc off =>
      let img := distBytes (s.getD o.s) ++ List.replicate 56 0
      let offs := s.elemBytesAt o.m off ++ (List.range 64).map fun i => off + 192 + i
      Eff.bytesReady s offs true
        (if s.isDepot || s.room s.cur.cor s.cur.vt s.me.stage
            (newLines s.mine.loc (distinct (offs.map fun a => a / 64))) then
          .done (s.writeBytes (offs.map fun a => (a, img.getD (a - off) 0)))
        else .trap s cDELTA_FULL ea false true)
    | _ => .trap s cPROT ea false true).out

/-- `dpt` (R248). -/
def execDpt (d : BitVec 4) (a : Reg) (m : BitVec 3) (lin : BitVec 5) (s : State) : Out :=
  (Eff.construct s d m lin fun e =>
    let v := s.lane32 a e
    ((DElem.ofList [⟨v, 65535⟩, ⟨v, 0⟩, ⟨v, 0⟩, ⟨v, 0⟩]).canonical, 0)).out

/-- `dpte` (R248). -/
def execDpte (d : BitVec 4) (g : BitVec 3) (m : BitVec 3) (lin : BitVec 5) (s : State) : Out :=
  (Eff.construct s d m lin fun e =>
    ((DElem.ofList ((List.range 4).map fun q =>
      ⟨s.lane32 (groupReg g (if e < 4 then 0 else 1)) (4 * (e % 4) + q),
       BitVec.ofNat 16 (lane (s.getV (groupReg g 2)) 16 (4 * e + q))⟩)).canonical, 0)).out

/-- `dpm` (R248). -/
def execDpm (d : BitVec 4) (a b : Reg) (m : BitVec 3) (lin : BitVec 5) (s : State) : Out :=
  (Eff.construct s d m lin fun e => normalElem (s.lane32 a e) (s.lane32 b e)).out

/-- `dadd` (R254). -/
def execDadd (o : D3) (s : State) : Out := (Eff.pair s o (XR.add rmRNE)).out

/-- `dsub` (R254). -/
def execDsub (o : D3) (s : State) : Out := (Eff.pair s o (XR.sub rmRNE)).out

/-- `dmul` (R254). -/
def execDmul (o : D3) (s : State) : Out := (Eff.pair s o XR.mul).out

/-- `ddiv` (R254). -/
def execDdiv (o : D3) (s : State) : Out := (Eff.pair s o XR.div).out

/-- `dmin` (R254). -/
def execDmin (o : D3) (s : State) : Out := (Eff.pair s o (distPick false)).out

/-- `dmax` (R254). -/
def execDmax (o : D3) (s : State) : Out := (Eff.pair s o (distPick true)).out

/-- `dmix` (R255). -/
def execDmix (o : D3) (s : State) : Out :=
  let a := s.getD o.a
  let b := s.getD o.b
  (Eff.dist s o.d o.m (a.mask ||| b.mask) false (a.approx || b.approx) fun e =>
    (mixture (bit s.me.ctl.dsc 0) (a.elem e) (b.elem e), 0)).out

/-- `dscl` (R256). -/
def execDscl (d a : BitVec 4) (b : Reg) (m : BitVec 3) (s : State) : Out := (Eff.scaled s d a b m XR.mul).out

/-- `dsht` (R256). -/
def execDsht (d a : BitVec 4) (b : Reg) (m : BitVec 3) (s : State) : Out := (Eff.scaled s d a b m (XR.add rmRNE)).out

/-- `dmom` (R257). -/
def execDmom (d : Reg) (a : BitVec 4) (f : BitVec 2) (m : BitVec 3) (s : State) : Out :=
  let r (e : Nat) := moments f ((s.getD a).elem e)
  (Eff.done ((s.writeV d (lanesLine 32 fun i =>
    if !s.enabled m (i / 2) then lane (s.getV d) 32 i
    else if i % 2 = 0 then (r (i / 2)).1.toNat else (r (i / 2)).2.1.toNat)).addFlags
      ((s.enabledElems m).foldl (fun acc e => acc ||| (r e).2.2) 0))).out

/-- `dqnt` (R258). -/
def execDqnt (d : Reg) (a : BitVec 4) (b : Reg) (m : BitVec 3) (s : State) : Out := (Eff.perElem s d a b m quantile).out

/-- `dcdf` (R258). -/
def execDcdf (d : Reg) (a : BitVec 4) (b : Reg) (m : BitVec 3) (s : State) : Out := (Eff.perElem s d a b m cumulative).out

/-- `dtgr` (R261). -/
def execDtgr (d : Reg) (a : BitVec 4) (s : State) : Out := (Eff.done (s.writeS d (s.getD a).header)).out

/-- `dtgw` (R261). -/
def execDtgw (d a : BitVec 4) (m : BitVec 3) (lin : BitVec 5) (s : State) : Out :=
  let x := s.getD a
  (Eff.dist s d m (lineage lin).1 (lineage lin).2 x.approx fun e => ((x.elem e).canonical, 0)).out

/-- `dmov` (R261). -/
def execDmov (d a : BitVec 4) (m : BitVec 3) (s : State) : Out :=
  let x := s.getD a
  (Eff.dist s d m x.mask x.align x.approx fun e => ((x.elem e).canonical, 0)).out

end Sys2Proof.Machine
end

