-- ==== Sys2Proof/Machine/EvMatrix.lean ====
section
/-! DEFINITION. The matrix unit's events: lease grants, slot allocations, the start and the completion of a command
(R230 to R233, R236, R239, R241). -/

namespace Sys2Proof.Machine

/-- An instruction that has waited completes for a strand. -/
def State.complete (s : State) (id : StrandId) (f : State → State) : State :=
  (retire (f { s with cur := id })).afterStep id

/-- `LEASE_GRANT` (R230): a free lease goes to the first waiter, whose `mlease` completes. -/
def execLeaseGrant (tile : Nat) (s : State) : Out :=
  let t := s.tile tile
  .next (match t.lease, t.leaseQueue with
    | none, (id, n) :: r =>
      let s' := s.setTile tile { t with leaseQueue := r }
      if (s.strand id).wait = .lease n then (s'.setLease id n).complete id (fun s => s) else s'
    | _, _ => s)

/-- The effect of an allocating instruction. -/
def allocating (i : Instr) (s : State) : Option Eff :=
  match i with
  | .mmma o => some (Eff.mmma s o)
  | .ald h a => some (Eff.move s 3 h a)
  | .azero h => some (Eff.azero s h)
  | _ => none

/-- `SLOT_ALLOCATE` (R236): the allocating instruction of a blocked strand issues again, now that a slot is free. -/
def execSlotAllocate (id : StrandId) (s : State) : Out :=
  let p := s.phys id.cor id.vt
  .next (if (s.strand id).wait = .slot ∧ (s.strand id).status = .running ∧ (s.tile p).freeSlot.isSome then
      let t := { s with cur := id }
      match t.fetched with
      | .run i =>
        match allocating i t with
        | some e => e.finish.afterStep id
        | none => s
      | _ => s
    else s)

/-- The ranges of tile memory that a command reads or writes, and whether it writes them. -/
def MCmd.ranges (x : MCmd) : List (Nat × Nat) × Bool :=
  if x.op = 1 then
    match descOf x.d0a x.d1a false with
    | some d => (d.runs d.cols 8, true)
    | none => ([], true)
  else (x.reads, x.op == 2)

/-- The offset of the first byte of some ranges that a test holds for. -/
def firstByte (rs : List (Nat × Nat)) (f : Nat → Nat → Bool) : Option Nat :=
  match rs with
  | [] => none
  | r :: rest =>
    if f r.1 r.2 then some (((List.range r.2).find? fun i => f (r.1 + i) 1).getD 0 + r.1) else firstByte rest f

/-- A command stops with a fault: a cause of the strand that queued it, at the command's position; an earlier cause of
that strand stands (R232).  `page` is the page that the service of a STAGE_FAULT asks for (R43, R332). -/
def State.failCommand (s : State) (x : MCmd) (cause : BitVec 8) (addr : Nat) (wr : Bool) (page : Option Nat) : State :=
  if isDepotId x.id then s.depotRaise x.id cause (BitVec.ofNat 64 addr)
  else
    let s := if cause = cECC then s.charge x.id.cor x.id.vt (s.strand x.id).stage 0 else s
    s.onStrand x.id fun y =>
      { y with cause := match y.cause with
          | some c => some c
          | none => match y.voted with
            | some v => some v
            | none => some { x.trap with cause, addr := BitVec.ofNat 64 addr, wr, page } }

/-- An uncorrectable error meets the command that a tile's unit runs, at a local offset, or in its accumulator memory: it stops
with ECC (R97, R232). -/
def State.commandError (s : State) (tile off : Nat) : State :=
  match (s.tile tile).cmdRunning with
  | none => s
  | some x => (s.setTile tile { s.tile tile with cmdRunning := none }).failCommand x cECC off false none

/-- `MATRIX_COMMAND_RUN` (R231, R232): the unit starts the head of its queue once the staged bytes it needs have landed;
it samples the control registers, and reads its operands from the strand's view at issue (R48). -/
def execMatrixCommandRun (tile : Nat) (s : State) : Out :=
  let t := s.tile tile
  .next (match t.cmdRunning, t.queue with
    | none, x :: r =>
      let id := x.id
      let st := (s.strand id).stage
      let staged := (s.stageTile id.cor id.vt st).staged
      let popped := s.setTile tile { t with queue := r }
      let depot := isDepotId id
      let marked := if depot then none else firstByte x.ranges.1 fun o n => (markIn staged o n).isSome
      let bad := if depot then none else firstByte x.reads fun o n => poisoned t.poison o n
      match marked, bad with
      | some a, _ => popped.failCommand x cSTAGE_FAULT a x.ranges.2 (markIn staged a 1)
      | none, some a => popped.failCommand x cECC a false none
      | none, none =>
        if x.ranges.1.any fun q => s.stagedAt id.cor id.vt st q.1 q.2 == .notLanded then s
        else
          let c := (s.strand id).ctl
          let y := x.compute c x.view (KMap.getD t.acc x.slot ⟨id, []⟩)
          popped.setTile tile { popped.tile tile with
            cmdRunning := some { x with ctl := c, result := y.1, flags := y.2 } }
    | _, _ => s)

/-- A command's results: free values where a strand wrote its source bytes meanwhile (R48, R239). -/
def MCmd.results (x : MCmd) (n : Nat) : List (Nat × BitVec 32) :=
  if x.tainted then
    (List.range x.result.length).map fun i => ((x.result.getD i (0, 0)).1, (Config.freeWord (n + i)).setWidth 32)
  else x.result

/-- The flags of a command; of an undefined result, free ones among those a command can set. -/
def MCmd.allFlags (x : MCmd) (n : Nat) : Flags :=
  if x.tainted then x.flags ||| ((Config.freeWord n).setWidth 7 &&& 0x1D) else x.flags

/-- Writes the words of a command one after another; none where a verge entry is missing. -/
def State.commandWrites (s : State) (id : StrandId) (ws : List (Nat × BitVec 32)) : Option State :=
  let st := (s.strand id).stage
  ws.foldl (fun acc w =>
    match acc with
    | none => none
    | some u =>
      let o := (u.stageTile id.cor id.vt st).loc
      if isDepotId id || u.room id.cor id.vt st (newLines o (linesOf w.1 4)) then
        some (u.putLocal id.cor id.vt st w.1 (leBytes 4 w.2.toNat))
      else none) (some s)

/-- The values of a slot after a command. -/
def AccSlot.update (a : AccSlot) (op : Nat) (ws : List (Nat × BitVec 32)) : AccSlot :=
  if op = 4 then { a with vals := [] }
  else { a with vals := ws ++ a.vals.filter fun p => !(ws.any fun w => w.1 == p.1) }

/-- `MATRIX_COMMAND_DONE` (R233, R241): the results are delivered, the flags ORed into FLG. -/
def execMatrixCommandDone (tile : Nat) (s : State) : Out :=
  let t := s.tile tile
  .next (match t.cmdRunning with
    | none => s
    | some x =>
      let ws := x.results s.free
      let fl := x.allFlags (s.free + x.result.length)
      let u := s.setTile tile { t with cmdRunning := none }
      let u := if x.tainted then { u with free := s.free + x.result.length + 1 } else u
      let flagged (u : State) : State := u.onStrand x.id fun y => y.addFlags fl
      if x.op = 1 ∨ x.op = 2 then
        match u.commandWrites x.id ws with
        | some v => flagged v
        | none => u.failCommand x cDELTA_FULL 0 true none
      else
        match KMap.get? t.acc x.slot with
        | none => u
        | some a => flagged (u.setTile tile { u.tile tile with acc := KMap.set (u.tile tile).acc x.slot (a.update x.op ws) }))

end Sys2Proof.Machine
end

