-- ==== Sys2Proof/Machine/EvCopy.lean ====
section
/-! DEFINITION. Events of loads in flight, remote deltas, the lay-by, the copy engine and the mailbox (R48, R60, R77 to
R88, R158, R179, R293). -/

namespace Sys2Proof.Machine

/-! ### Windows and far reads (R60, R158) -/

/-- Changes one window of a strand. -/
def Strand.onWindow (x : Strand) (w : Nat) (f : Window → Window) : Strand :=
  { x with windows := x.windows.map fun y => if y.id = w then f y else y }

/-- `WINDOW_DATA_LANDS` (R158): the data of a window is there. -/
def execWindowDataLands (id : StrandId) (w : Nat) (s : State) : Out :=
  let x := s.strand id
  .next (if x.windows.any fun y => y.id == w && y.read.isNone && !y.landed && !s.readOpen id w then
      (s.setStrand id ((x.onWindow w fun y => { y with landed := true }).closeWindows)).afterStep id
    else s)

/-- No DRAIN request of a stage is unanswered. -/
def State.drainsAnswered (s : State) (c st : Nat) : Bool :=
  !(s.fabric.open_.any fun t => match t.use with | .drain d e => d == c && e == st | _ => false)

/-- An entry of an earlier commit of the stage is unwritten on a line of the range, as far as this package knows: while another
one still drains its part, none can be read (R60). -/
def State.unwritten (s : State) (c st pa n : Nat) : Bool :=
  (s.spread c && !(s.stage c st).farDone) || ((peerOf pa).isSome && !s.drainsAnswered c st) ||
    (s.stage c st).farLeft.any fun f => (linesOf pa n).any fun l => f.lines.contains l

/-- A read of far bytes that hold an uncorrectable error makes the reading tile vote abort, with the address read (R97, R334). -/
def State.noteFarRead (s : State) (c vt st va pa n : Nat) : State :=
  if c ≠ depotCor && poisoned s.far.poison pa n then s.tileVote c vt st (tileTrap vt cECC (BitVec.ofNat 64 va) false false) else s

/-- The data of a read come to its window. -/
def State.readBack (s : State) (id : StrandId) (w : Nat) (bs : List Byte) : State :=
  s.onStrand id fun x => x.onWindow w fun y => { y with read := none, writes := y.writes.map fun p => (p.1, destValue p.1 bs) }

/-- `FAR_READ_SERVE` (R60): once the stage's earlier commits have been written there, the home controller reads, that of a peer
through a transaction. -/
def execFarReadServe (id : StrandId) (w : Nat) (s : State) : Out :=
  let x := s.strand id
  .next (match (x.windows.find? fun y => y.id == w).bind Window.read with
    | none => s
    | some r =>
      if s.unwritten id.cor x.stage r.pa r.size then s
      else
        match peerOf r.pa with
        | none =>
          if !s.reaches (s.phys id.cor id.vt) r.pa then s
          else (s.readBack id w (s.farRead r.pa r.size)).noteFarRead id.cor id.vt x.stage r.va r.pa r.size
        | some pkg =>
          ((s.openTrans pkg .rd 0 (r.pa % paSpan) r.size 0 [] (.read id w r.va)).map fun t =>
            t.onStrand id fun x => x.onWindow w fun y => { y with read := none }).getD s)

/-! ### Remote deltas (R85, R99) -/

/-- Adds to a tile's pending-byte count of a stage. -/
def State.addPending (s : State) (c vt st : Nat) (n : Int) : State :=
  let x := s.stageTile c vt st
  s.setStageTile c vt st { x with pending := x.pending + n }

/-- A receiving tile takes a remote write of its stage into its verge buffer, or drops it with DELTA_FULL; a write to a byte
that the stage has marked there raises STAGE_FAULT, and a write of an aborted run is dropped uncounted (R75, R85, R99,
R330). -/
def State.acceptDelta (s : State) (c st sender : Nat) (w : Sent) : State :=
  if (s.stage c st).decision = some false then s
  else
    let s := s.addPending c w.target st (-(w.count : Int))
    let y := s.stageTile c w.target st
    match w.bytes.findSome? fun p => markIn y.staged p.1 1 with
    | some va => s.tileVote c w.target st (tileTrap w.target cSTAGE_FAULT (BitVec.ofNat 64 va) false true)
    | none =>
      let d : Delta := ⟨sender, w.slot, w.seq, w.bytes⟩
      let t := s.setStageTile c w.target st
        (if w.bcast then { y with bcast := y.bcast ++ [d] } else { y with inbound := y.inbound ++ [d] })
      if t.fits c w.target st then t
      else s.tileVote c w.target st (tileTrap w.target cDELTA_FULL 0 false true)

/-- `REMOTE_DELTA_ACCEPT` (R85): the oldest write that vtile n sent reaches its receiver; one for another package leaves
in a transaction (R349, R358). -/
def execRemoteDeltaAccept (c st n : Nat) (s : State) : Out :=
  let x := s.stageTile c n st
  .next (match x.outbound with
    | [] => s
    | w :: r =>
      let t := s.setStageTile c n st { x with outbound := r }
      if s.onPackage c w.target then
        if s.joined (s.phys c n / 144) (s.phys c w.target / 144) then t.acceptDelta c st n w else s
      else
        match t.openTrans (t.homePackage c w.target) .wr c (tspaceVa w.target 0) w.count 0
            (wireBytes n w.slot w.seq w.mm w.run st (if w.bcast then 1 else 0) w.count w.bytes []) (.delta c st n) with
        | some u => u
        | none => s)

/-! ### The lay-by (R179, R293) -/

/-- `LAYBY_WAKE` (R293, R179). -/
def execLaybyWake (id : StrandId) (s : State) : Out :=
  let x := s.strand id
  .next (if x.status ≠ .running then s
    else
      match x.wait with
      | .mail d => if x.mailbox.isEmpty then s else s.complete id fun s => s.writeS d x.mailCount
      | .mailTimed d _ => if x.mailbox.isEmpty then s else s.complete id fun s => s.writeS d x.mailCount
      | .stage st m =>
        if s.waitOver id.cor id.vt st m then s.complete id fun s => s else s
      | _ => s)

/-- `MBW_TIMEOUT` (R179). -/
def execMbwTimeout (id : StrandId) (s : State) : Out :=
  let x := s.strand id
  .next (match x.wait with
    | .mailTimed d t => if x.status = .running ∧ t ≤ s.clock then s.complete id fun s => s.writeS d x.mailCount else s
    | _ => s)

/-! ### The copy engine: what it reads and where it writes (R81) -/

/-- What a command finds at an element: something; that it must wait; that a peer's answer is needed; or a failure with
its cause, address and stage. -/
inductive Found (α : Type) where
  | ok (a : α)
  | wait
  | ask (pkg pasid va n : Nat) (op : BitVec 5)
  | probe (a : Aperture) (va : Nat) (k : XKind)
  | fail (cause : BitVec 8) (addr : Word) (s2 : Bool)

/-- The elements before the first that is not there, and that one. -/
def Found.split {α : Type} : List (Found α) → List α × Option (Found α)
  | [] => ([], none)
  | .ok a :: r => let p := Found.split r; (a :: p.1, p.2)
  | e :: _ => ([], some e)

/-- A stable sort by a number. -/
def insertBy {α : Type} (f : α → Nat) (x : α) : List α → List α
  | [] => [x]
  | y :: r => if f x ≤ f y then x :: y :: r else y :: insertBy f x r
def sortBy {α : Type} (f : α → Nat) (l : List α) : List α := l.foldr (insertBy f) []

/-- A range of the issuing tile, read from the view at issue. -/
def State.localSource (s : State) (id : StrandId) (c : CopyCmd) (off n : Nat) : Found (List Byte) :=
  match s.stagedAt id.cor id.vt (s.strand id).stage off n with
  | .marked va => .fail cSTAGE_FAULT (BitVec.ofNat 64 va) false
  | .notLanded => .wait
  | .ready => .ok (Mem.readN c.view off n)

/-- What a peer answered for element i, else the question. -/
def CopyCmd.answer (c : CopyCmd) (pkg pasid va i : Nat) (op : BitVec 5) : Found (List Byte) :=
  match KMap.get? c.got i with
  | some b => .ok b
  | none => .ask pkg pasid va i op

/-- The bytes of one source element (R39, R75, R81); another tile of the package is reached over the lightway (R9). -/
def State.sourceElem (s : State) (id : StrandId) (c : CopyCmd) (i : Nat) (ea : Word) : Found (List Byte) :=
  let n := c.esize
  let st := (s.strand id).stage
  let p := s.phys id.cor id.vt
  match ({ s with cur := id } : State).checkAddr ea true anySpace 1 n false with
  | .bad _ => .fail cPROT ea false
  | .ok (.loc off) => s.localSource id c off n
  | .ok (.tsp vt off) =>
    if isDepotId id then .ok (s.viewBytes id.cor vt 0 off n)
    else if s.onPackage id.cor vt then
      match s.stagedAt id.cor vt st off n with
      | .marked va => .fail cSTAGE_FAULT (BitVec.ofNat 64 va) false
      | .notLanded => .wait
      | .ready =>
        if s.joined (p / 144) (s.phys id.cor vt / 144) then .ok (Mem.readN (s.tile (s.phys id.cor vt)).mem off n) else .wait
    else c.answer (s.homePackage id.cor vt) id.cor ea.toNat i (BitVec.ofNat 5 st)
  | .ok (.far va) =>
    match s.farAt id.cor p va ⟨true, false, !isDepotId id⟩ with
    | .bad f => .fail f.cause (BitVec.ofNat 64 va) f.s2
    | .probe a => .probe a va ⟨true, false, !isDepotId id⟩
    | .at_ pa cls =>
      if cls = 1 then .fail cPROT (BitVec.ofNat 64 va) false
      else if s.unwritten id.cor st pa n then .wait
      else
        match peerOf pa with
        | some pkg => c.answer pkg 0 (pa % paSpan) i 0
        | none => if s.reaches p pa then .ok (s.farRead pa n) else .wait

/-- The source elements of a command, in visiting order; those of an exchange are its blocks (R86). -/
def State.sourceElems (s : State) (id : StrandId) (c : CopyCmd) : List (Found (List Byte)) :=
  if c.exchange then
    (List.range (s.participants id).length).map fun j => s.localSource id c (c.w1.toNat + j * c.w0.toNat) c.w0.toNat
  else if bits c.w0 7 0 = 4 then (elemOffsets c.shape).map fun _ => .ok (leBytes c.esize c.w1.toNat)
  else
    let l := elemOffsets c.shape
    (List.range l.length).map fun i => s.sourceElem id c i (c.w1 + BitVec.ofInt 64 (l.getD i (0, 0)).1)

/-- Where a destination element lies. -/
inductive DestAt where
  | loc (off : Nat)
  | tsp (vt off : Nat)
  | bcast (vt off : Nat)
  | far (pa : Nat) (cls : BitVec 2)

/-- A range of the issuing tile as a destination. -/
def State.localDest (s : State) (id : StrandId) (off n : Nat) : Found DestAt :=
  match s.stagedAt id.cor id.vt (s.strand id).stage off n with
  | .marked va => .fail cSTAGE_FAULT (BitVec.ofNat 64 va) false
  | .notLanded => .wait
  | .ready => .ok (.loc off)

/-- A byte of another tile of the package as a destination: one that the stage has marked there raises STAGE_FAULT (R75). -/
def State.remoteDest (s : State) (id : StrandId) (vt off n : Nat) (d : DestAt) : Found DestAt :=
  match markIn (s.stageTile id.cor vt (s.strand id).stage).staged off n with
  | some va => .fail cSTAGE_FAULT (BitVec.ofNat 64 va) false
  | none => .ok d

/-- The place of one destination element (R39, R81). -/
def State.destElem (s : State) (id : StrandId) (n : Nat) (ea : Word) : Found DestAt :=
  match ({ s with cur := id } : State).checkAddr ea true anySpace 1 n true with
  | .bad _ => .fail cPROT ea false
  | .ok (.loc off) => s.localDest id off n
  | .ok (.tsp vt off) => if isDepotId id then .ok (.tsp vt off) else s.remoteDest id vt off n (.tsp vt off)
  | .ok (.far va) =>
    match s.farAt id.cor (s.phys id.cor id.vt) va ⟨false, true, !isDepotId id⟩ with
    | .bad f => .fail f.cause (BitVec.ofNat 64 va) f.s2
    | .probe a => .probe a va ⟨false, true, !isDepotId id⟩
    | .at_ pa cls => if cls = 2 then .fail cPROT (BitVec.ofNat 64 va) false else .ok (.far pa cls)

/-- Adds an address and bytes to a destination. -/
def Found.with {α : Type} (e : Found α) (ea : Word) (bs : List Byte) : Found (α × Word × List Byte) :=
  match e with
  | .ok a => .ok (a, ea, bs)
  | .wait => .wait
  | .ask p q v n o => .ask p q v n o
  | .probe a v k => .probe a v k
  | .fail c a x => .fail c a x

/-- The destinations of a command with the bytes for each (R81, R82, R84, R86). -/
def State.destElems (s : State) (id : StrandId) (c : CopyCmd) (bs : List (List Byte)) :
    List (Found (DestAt × Word × List Byte)) :=
  if c.exchange then
    let ps := s.participants id
    let off := c.w2.toNat + (ps.idxOf id.vt) * c.w0.toNat
    (List.range ps.length).map fun j =>
      let vt := ps.getD j 0
      (if vt = id.vt then s.localDest id off c.w0.toNat else s.remoteDest id vt off c.w0.toNat (.tsp vt off)).with c.w2
        (bs.getD j [])
  else
    match bits c.w0 7 0 with
    | 3 => []
    | 5 => []
    | 2 =>
      let os := c.bcastOffsets
      (bcastTargets c.w2).flatMap fun t =>
        (List.range os.length).map fun i =>
          let off := (os.getD i 0).toNat
          (s.remoteDest id t off c.esize (.bcast t off)).with (BitVec.ofNat 64 off) (bs.getD i [])
    | _ =>
      let l := elemOffsets c.shape
      (List.range l.length).map fun i =>
        let ea := c.w2 + BitVec.ofInt 64 (l.getD i (0, 0)).2
        (s.destElem id c.esize ea).with ea (bs.getD i [])

/-! ### Writing (R53, R54, R85) -/

/-- Adds bytes to a list of remote writes, merging with the last one of the same command and target. -/
def addSent (l : List Sent) (w : Sent) : List Sent :=
  match l.getLast? with
  | some x =>
    if x.target = w.target ∧ x.slot = w.slot ∧ x.seq = w.seq ∧ x.bcast = w.bcast ∧ x.mm = w.mm ∧ x.run = w.run then
      l.dropLast ++ [{ x with bytes := Overlay.over x.bytes w.bytes, count := x.count + w.count }]
    else l ++ [w]
  | none => [w]

/-- Adds bytes to a far-store log, merging with the last entry of the same command. -/
def addFarLog (l : List FarLog) (f : FarLog) : List FarLog :=
  match l.getLast? with
  | some x =>
    if x.vt = f.vt ∧ x.slot = f.slot ∧ x.seq = f.seq then
      l.dropLast ++ [{ x with bytes := Overlay.over x.bytes f.bytes, cells := x.cells ++ f.cells }]
    else l ++ [f]
  | none => [f]

/-- One destination element is written; none where a verge entry is missing.  The number is that of the bytes sent to
other tiles of the stage. -/
def State.putElem (s : State) (id : StrandId) (c : CopyCmd) (d : DestAt) (bs : List Byte) : Option (State × Nat) :=
  let st := (s.strand id).stage
  let x := s.stageTile id.cor id.vt st
  let fit (t : State) : Option (State × Nat) := if t.fits id.cor id.vt st then some (t, 0) else none
  let sent (vt off : Nat) (b : Bool) (n : Nat) : Sent :=
    ⟨vt, id.slot, c.seq, (s.stage id.cor st).mm, (s.stage id.cor st).run, runCells off bs, b, n⟩
  match d with
  | .loc off =>
    let t := s.putLocal id.cor id.vt st off bs
    if isDepotId id then some (t, 0) else fit t
  | .tsp vt off =>
    if isDepotId id then some (s.putLocal id.cor vt 0 off bs, 0)
    else if s.sameStage id.cor vt st then
      some (s.setStageTile id.cor id.vt st { x with outbound := addSent x.outbound (sent vt off false bs.length) },
        bs.length)
    else fit (s.setStageTile id.cor id.vt st { x with cross := addSent x.cross (sent vt off false 0) })
  | .bcast vt off =>
    if vt = id.vt then
      fit (s.setStageTile id.cor id.vt st { x with bcast := x.bcast ++ [⟨id.vt, id.slot, c.seq, runCells off bs⟩] })
    else
      some (s.setStageTile id.cor id.vt st { x with outbound := addSent x.outbound (sent vt off true bs.length) },
        bs.length)
  | .far pa cls =>
    if isDepotId id then
      match peerOf pa with
      | some pkg =>
        (s.openTrans pkg .wr 0 (pa % paSpan) bs.length 0 bs (.store id)).map fun t =>
          (t.onStrand id fun y => { y with inflight := y.inflight + 1 }, 0)
      | none => some (s.farWrite pa bs, 0)
    else if cls = 0 then
      fit (s.setStageTile id.cor id.vt st { x with
        farlog := addFarLog x.farlog ⟨(s.stage id.cor st).mm, id.vt, id.slot, c.seq, runCells pa bs, [], []⟩ })
    else fit (s.hold id c.seq (.store pa bs))

/-- Elements written in visiting order (R80; assumption 80): the state, the bytes sent, the place and the address of the one that
found no entry. -/
def State.putElems (s : State) (id : StrandId) (c : CopyCmd) (l : List (DestAt × Word × List Byte)) :
    State × Nat × Option (Nat × Word) :=
  l.zipIdx.foldl (fun a e =>
    match a.2.2 with
    | some _ => a
    | none =>
      match a.1.putElem id c e.1.1 e.1.2.2 with
      | some p => (p.1, a.2.1 + p.2, none)
      | none => (a.1, a.2.1, some (e.2, e.1.2.1))) (s, 0, none)

/-! ### Commands (R43, R77, R81) -/

/-- Replaces or, with none, removes the running command with a place in program order. -/
def Strand.setRunning (x : Strand) (n : Nat) (c : Option CopyCmd) : Strand :=
  { x with running := x.running.flatMap fun k => if k.seq = n then c.toList else [k] }

/-- A command stops with a fault: it posts nothing, its unsent bytes leave the count, and the tile votes abort; a depot
strand takes the exception (R43, R85). -/
def State.stopCommand (s : State) (id : StrandId) (c : CopyCmd) (sent : Nat) (cause : BitVec 8) (addr : Word)
    (s2 wr : Bool) : State :=
  let st := (s.strand id).stage
  let s := s.onStrand id fun x => x.setRunning c.seq none
  if isDepotId id then s.depotRaise id cause addr
  else
    (s.addPending id.cor id.vt st (-((c.unsent : Int) - sent))).tileVote id.cor id.vt st
      (tileTrap id.vt cause addr s2 wr)

/-- A command waits for an answer of a peer: it is asked for, unless the question is open. -/
def State.askPeer (s : State) (id : StrandId) (c : CopyCmd) (e : Found Unit) : State :=
  match e with
  | .ask pkg pasid va n op =>
    if s.fabric.open_.any fun t => match t.use with | .element i q k => decide (i = id ∧ q = c.seq ∧ k = n) | _ => false then s
    else (s.openTrans pkg .rd pasid va c.esize op [] (.element id c.seq n)).getD s
  | .probe a va k => if s.probing id then s else (s.probe id a va c.esize k).getD s
  | .fail cause addr s2 => s.stopCommand id c 0 cause addr s2 false
  | _ => s

/-- Forgets what an element holds. -/
def Found.void {α : Type} (e : Found α) : Found Unit :=
  match e with
  | .ok _ => .ok ()
  | .wait => .wait
  | .ask p q v n o => .ask p q v n o
  | .probe a v k => .probe a v k
  | .fail c a x => .fail c a x

/-- Free bytes from a number on, in place of bytes of an undefined result. -/
def freeBytes (n : Nat) : List (List Byte) → List (List Byte)
  | [] => []
  | b :: r => ((List.range b.length).map fun i => Config.freeByte (n + i)) :: freeBytes (n + b.length) r

/-- The physical lines of far memory that a command's first n elements touch, of sources (false) or destinations (true). -/
def State.farLinesOf (s : State) (id : StrandId) (c : CopyCmd) (wr : Bool) (n : Nat) : List Nat :=
  if c.exchange then []
  else
    let base := if wr then c.w2 else c.w1
    if bits base 63 62 ≠ 2 then []
    else
      distinct (((elemOffsets c.shape).take n).flatMap fun p =>
        match s.farAt id.cor (s.phys id.cor id.vt) (bits (base + BitVec.ofInt 64 (if wr then p.2 else p.1)) 47 0)
            ⟨!wr, wr, !isDepotId id⟩ with
        | .at_ pa _ => linesOf pa c.esize
        | _ => [])

/-- The pages of far memory that a command's elements lie in, its sources first. -/
def CopyCmd.pages (c : CopyCmd) : List Nat :=
  let kind := bits c.w0 7 0
  let far (base : Word) (f : Int × Int → Int) : List Nat :=
    if bits base 63 62 = 2 then (elemOffsets c.shape).map fun p => bits (base + BitVec.ofInt 64 (f p)) 47 12 * 4096 else []
  if c.exchange then []
  else distinct ((if kind = 4 then [] else far c.w1 Prod.fst) ++ if kind = 1 ∨ kind = 4 then far c.w2 Prod.snd else [])

/-- The engine translates some pages one after another, as far as the die's walk queue has room: the state and the number
translated (R41). -/
def State.notePages (s : State) (c tile : Nat) : List Nat → State × Nat
  | [] => (s, 0)
  | va :: r =>
    if s.walkFull c tile va then (s, 0)
    else
      let q := (s.noteFar c tile va).notePages c tile r
      (q.1, q.2 + 1)

/-- The first n source elements have been read: their lines are counted at the home controllers, and read errors noted (R44,
R97). -/
def State.noteSources (s : State) (id : StrandId) (c : CopyCmd) (n : Nat) : State :=
  let st := (s.strand id).stage
  let p := s.phys id.cor id.vt
  if c.exchange then s.noteRead id.cor id.vt st c.w1.toNat (n * c.w0.toNat)
  else if bits c.w0 7 0 = 4 then s
  else
    ((elemOffsets c.shape).take n).foldl (fun s q =>
      let a := c.w1 + BitVec.ofInt 64 q.1
      if bits c.w1 63 62 = 2 then
        match s.farAt id.cor p (bits a 47 0) ⟨true, false, !isDepotId id⟩ with
        | .at_ pa _ => s.noteFarRead id.cor id.vt st (bits a 47 0) pa c.esize
        | _ => s
      else
        let vt := if bits c.w1 63 62 = 1 then bits a 36 21 else id.vt
        s.noteReadOf id.cor vt id.vt st (bits a 20 0) c.esize)
      ((s.farLinesOf id c false n).foldl (fun s l => s.noteLines p (64 * l) 64) s)

/-- The first n destination elements have been written: their far lines are counted at the home controllers.  On a versioned page
a line counts here, where the engine writes it, and once more when its far-store-log entry drains: R44 lists both and does not say
that the first leaves out what the second counts (assumption 94). -/
def State.noteDests (s : State) (id : StrandId) (c : CopyCmd) (n : Nat) : State :=
  let kind := bits c.w0 7 0
  if kind = 1 ∨ kind = 4 then
    (s.farLinesOf id c true n).foldl (fun s l => s.noteLines (s.phys id.cor id.vt) (64 * l) 64) s
  else s

/-- What a completed command reports (R87): the digest of DIGEST, else the bytes moved. -/
def CopyCmd.report (c : CopyCmd) (bs : List (List Byte)) : Word :=
  match bits c.w0 7 0 with
  | 5 => crc64 c.w2 bs.flatten
  | 2 => BitVec.ofNat 64 (c.count * c.esize * (bits c.w2 47 37 + 1))
  | _ => BitVec.ofNat 64 (c.count * c.esize)

/-- SEND's bytes fill its reserved egress lines at the command's place in program order (R83); a depot strand's leave at
once. -/
def State.egress (s : State) (id : StrandId) (c : CopyCmd) (bs : List (List Byte)) : State :=
  if c.exchange || bits c.w0 7 0 != 3 then s
  else if isDepotId id then
    s.onStrand id fun x => { x with released := x.released ++ [.send (bits c.w2 11 0) bs.flatten] }
  else s.hold id c.seq (.send (bits c.w2 11 0) bs.flatten)

/-- The command as its strand's engine holds it. -/
def State.setCommand (s : State) (id : StrandId) (c : CopyCmd) : State := s.onStrand id fun x => x.setRunning c.seq (some c)

/-- A started command whose pages are translated is carried out as soon as every byte it needs is there: all sources are read
before any destination is written (R81). -/
def State.perform (s : State) (id : StrandId) (c : CopyCmd) : State :=
  let src := Found.split (s.sourceElems id c)
  match src.2 with
  | some (.fail cause addr s2) => (s.noteSources id c src.1.length).stopCommand id c 0 cause addr s2 false
  | some e => s.askPeer id c e.void
  | none =>
    let bs := if c.tainted then freeBytes s.free src.1 else src.1
    let dst := Found.split (s.destElems id c bs)
    let go (t : State) : State × Nat × Option (Nat × Word) :=
      ((if c.tainted then { t with free := t.free + bs.flatten.length } else t).noteSources id c bs.length).putElems id c dst.1
    match dst.2 with
    | some (.fail cause addr s2) =>
      let r := go s
      match r.2.2 with
      | some a => (r.1.noteDests id c a.1).stopCommand id c r.2.1 cDELTA_FULL a.2 false true
      | none => (r.1.noteDests id c dst.1.length).stopCommand id c r.2.1 cause addr s2 true
    | some e => s.askPeer id c e.void
    | none =>
      let r := go s
      match r.2.2 with
      | some a => (r.1.noteDests id c a.1).stopCommand id c r.2.1 cDELTA_FULL a.2 false true
      | none =>
        ((r.1.noteDests id c dst.1.length).setCommand id { c with done := true, tainted := false, view := [], got := [], payload := c.report bs }).egress id c bs

/-- A started command goes on: the pages of its elements are translated first (R41). -/
def State.proceed (s : State) (id : StrandId) (c : CopyCmd) : State :=
  let l := c.pages
  let q := s.notePages id.cor (s.phys id.cor id.vt) (l.drop c.walked)
  let d := { c with walked := c.walked + q.2 }
  let t := if q.2 = 0 then q.1 else q.1.setCommand id d
  if d.walked < l.length then t else t.perform id d

/-- The strand whose command the engine of a tile starts next: the first after the one it served last, in physical slots 0 to 3;
the first search of all begins at slot 0 (R77; assumption 81). -/
def State.engineNext (s : State) (p : Nat) : Option StrandId :=
  let t := s.tile p
  (((List.range 4).map fun i => (t.engineLast + 1 + i) % 4).filterMap fun q => s.strandAt p q).find? fun id =>
    !(s.strand id).fifo.isEmpty

/-- The commands that the engine of a tile runs. -/
def State.engineBusy (s : State) (p : Nat) : Nat := ((s.onTile p).map fun id => (s.strand id).running.length).sum

/-- The engine takes the head command of the next strand where a context is free, or goes on with a command it has
started (R77). -/
def State.runCommand (s : State) (id : StrandId) (n : Nat) (kind : CopyCmd → Bool) : State :=
  let x := s.strand id
  let p := s.phys id.cor id.vt
  match x.running.find? fun c => c.seq == n && !c.done with
  | some c => if kind c then s.proceed id c else s
  | none =>
    match x.fifo with
    | [] => s
    | c :: r =>
      if c.seq = n ∧ kind c ∧ s.engineBusy p < 8 ∧ s.engineNext p = some id then
        let t := s.setTile p { s.tile p with engineLast := s.physSlot id }
        (t.setStrand id { x with fifo := r, running := x.running ++ [c] }).proceed id c
      else s

/-- The command is of a kind of R78. -/
def CopyCmd.isKind (k : Nat) (c : CopyCmd) : Bool := !c.exchange && bits c.w0 7 0 == k

/-- `COPY` (R81). -/
def execCopy (id : StrandId) (n : Nat) (s : State) : Out := .next (s.runCommand id n (CopyCmd.isKind 1))

/-- `BCAST` (R82). -/
def execBcast (id : StrandId) (n : Nat) (s : State) : Out := .next (s.runCommand id n (CopyCmd.isKind 2))

/-- `SEND` (R83). -/
def execSend (id : StrandId) (n : Nat) (s : State) : Out := .next (s.runCommand id n (CopyCmd.isKind 3))

/-- `FILL` (R84). -/
def execFill (id : StrandId) (n : Nat) (s : State) : Out := .next (s.runCommand id n (CopyCmd.isKind 4))

/-- `DIGEST` (R84). -/
def execDigest (id : StrandId) (n : Nat) (s : State) : Out := .next (s.runCommand id n (CopyCmd.isKind 5))

/-- `EXCHANGE` (R86). -/
def execExchange (id : StrandId) (n : Nat) (s : State) : Out := .next (s.runCommand id n fun c => c.exchange)

/-! ### Completion (R88) -/

/-- An entry is posted, or waits while the mailbox is full (R87, R88). -/
def Strand.postMail (x : Strand) (tag : BitVec 16) (status source : BitVec 8) (payload : Word) : Strand :=
  let m : MailEntry := ⟨tag, status, source, payload, x.nextMail⟩
  let x := { x with nextMail := x.nextMail + 1 }
  if x.mailbox.length < 16 && x.mailWaiting.isEmpty then { x with mailbox := x.mailbox ++ [m] }
  else { x with mailWaiting := x.mailWaiting ++ [m] }

/-- Every byte that a command sent to other tiles has been accepted. -/
def State.allAccepted (s : State) (id : StrandId) (n : Nat) : Bool :=
  let st := (s.strand id).stage
  !((s.stageTile id.cor id.vt st).outbound.any fun w => w.slot == id.slot && w.seq == n) &&
    !(s.fabric.open_.any fun t => match t.use with
        | .delta c g vt => decide (c = id.cor ∧ g = st ∧ vt = id.vt)
        | _ => false)

/-- Cells with free bytes from a number on. -/
def freshCells (n : Nat) (o : Overlay) : Overlay := (List.range o.length).map fun i => ((o.getD i (0, 0)).1, Config.freeByte (n + i))

/-- The selected members of a list get free bytes from a number on; the number that follows. -/
def freshen {α : Type} (sel : α → Bool) (get : α → Overlay) (set : α → Overlay → α) : Nat → List α → List α × Nat
  | n, [] => ([], n)
  | n, a :: r =>
    if sel a then
      let q := freshen sel get set (n + (get a).length) r
      (set a (freshCells n (get a)) :: q.1, q.2)
    else
      let q := freshen sel get set n r
      (a :: q.1, q.2)

/-- What a command has written, wherever it is held on a tile of its stage, becomes free bytes. -/
def State.freshTile (s : State) (id : StrandId) (c : CopyCmd) (vt : Nat) : State :=
  let st := (s.strand id).stage
  let x := s.stageTile id.cor vt st
  let sent (w : Sent) : Bool := vt == id.vt && w.slot == id.slot && w.seq == c.seq
  let delta (d : Delta) : Bool := d.vt == id.vt && d.slot == id.slot && d.seq == c.seq
  let a := freshen sent Sent.bytes (fun w o => { w with bytes := o }) s.free x.outbound
  let b := freshen sent Sent.bytes (fun w o => { w with bytes := o }) a.2 x.cross
  let d := freshen delta Delta.bytes (fun w o => { w with bytes := o }) b.2 x.inbound
  let e := freshen delta Delta.bytes (fun w o => { w with bytes := o }) d.2 x.bcast
  let f := freshen (fun g : FarLog => vt == id.vt && g.slot == id.slot && g.seq == c.seq) FarLog.bytes
    (fun w o => { w with bytes := o }) e.2 x.farlog
  { (s.setStageTile id.cor vt st { x with outbound := a.1, cross := b.1, inbound := d.1, bcast := e.1, farlog := f.1 }) with
    free := f.2 }

/-- The bytes of a held operation, free ones from a number on. -/
def HeldOp.fresh (n : Nat) : HeldOp → HeldOp
  | .store pa bs => .store pa ((List.range bs.length).map fun i => Config.freeByte (n + i))
  | .send q bs => .send q ((List.range bs.length).map fun i => Config.freeByte (n + i))
  | h => h

/-- A strand has written the source of a command that had been carried out and not completed: its result is undefined all the
same (R48; assumption 14).  What another package already holds stays. -/
def State.spoilResult (s : State) (id : StrandId) (c : CopyCmd) : State :=
  let st := (s.strand id).stage
  let s := ((s.cor id.cor).image.members st).foldl (fun s vt => s.freshTile id c vt) s
  let own := (Found.split (s.destElems id c [])).1.filterMap fun e => match e.1 with | .loc off => some off | _ => none
  let n := if c.exchange then c.w0.toNat else c.esize
  let s := own.foldl (fun s off =>
    { (s.putLocal id.cor id.vt st off ((List.range n).map fun i => Config.freeByte (s.free + i))) with free := s.free + n }) s
  let t := s.onStrand id fun x => { x with held := x.held.map fun p => if p.1 = c.seq then (p.1, p.2.fresh s.free) else p }
  { t with free := s.free + 65536 }

/-- `COMMAND_COMPLETE` (R88). -/
def execCommandComplete (id : StrandId) (n : Nat) (s : State) : Out :=
  let x := s.strand id
  .next (match x.running.find? fun c => c.seq == n && c.done with
    | none => s
    | some c =>
      let ordered := !c.exchange && bit c.w0 8
      if !s.allAccepted id n || (ordered && (x.fifo ++ x.running).any fun k => decide (k.seq < n)) then s
      else
        let s := if c.tainted then s.spoilResult id c else s
        let payload := if c.tainted then Config.freeWord (s.free - 1) else c.payload
        s.onStrand id fun x =>
          let y := x.setRunning n none
          if !c.exchange && bit c.w0 9 then y.postMail (BitVec.ofNat 16 (bits c.w0 31 16)) 0 1 payload else y)

/-- `MAILBOX_POST` (R88). -/
def execMailboxPost (id : StrandId) (s : State) : Out :=
  let x := s.strand id
  .next (match x.mailWaiting with
    | [] => s
    | m :: r =>
      if x.mailbox.length < 16 then s.setStrand id { x with mailbox := x.mailbox ++ [m], mailWaiting := r } else s)

end Sys2Proof.Machine
end

