-- ==== Sys2Proof/Machine/EvStage.lean ====
section
/-! DEFINITION. The stager: fetching units, forwarding drained lines into staged copies, landing (R51, R52, R71 to R76,
R88). -/

namespace Sys2Proof.Machine

/-! ### Committed bytes of a tile (R96) -/

/-- The 256-byte lines of some cells. -/
def dirtyLines (o : Overlay) : List Nat := distinct ((o.lines.map fun l => l / 4))

/-- The 8-byte words that cells write whole. -/
def wholeWord (o : Overlay) (w : Nat) : Bool := (cellsIn o w 8).length == 8

/-- Committed bytes are written into a tile's memory: dirty bits are set, and a word written whole loses its poison
(R96, R97). -/
def Tile.commit (t : Tile) (o : Overlay) : Tile :=
  { t with
    mem := Mem.apply t.mem o
    dirty := t.dirty ++ (dirtyLines o).filter fun l => !t.dirty.contains l
    poison := t.poison.filter fun w => !wholeWord o w }

/-- The words of a line that cells write some byte of. -/
def wordsIn (o : Overlay) (line : Nat) : List Nat :=
  ((List.range 8).map fun i => line * 64 + 8 * i).filter fun w => !(cellsIn o w 8).isEmpty

/-- Words of a tile's memory report an uncorrectable error from now on (R367). -/
def State.poisonTile (s : State) (p : Nat) (ws : List Nat) : State :=
  if ws.isEmpty then s else s.setTile p { s.tile p with poison := distinct ((s.tile p).poison ++ ws) }

/-- A staged unit that has not landed keeps what a later commit, or the unit of a later entry, wrote over its bytes (R54,
R76). -/
def FetchUnit.cover (o : Overlay) (u : FetchUnit) : FetchUnit :=
  match u.st with
  | .landed _ _ => u
  | _ => { u with covered := u.covered ++ (cellsIn o u.dest 4096).map Prod.fst }

/-- A commit writes bytes to a vtile's memory. -/
def State.commitBytes (s : State) (c vt : Nat) (o : Overlay) : State :=
  let p := s.phys c vt
  let s := s.setTile p ((s.tile p).commit o)
  if o.isEmpty then s
  else
    (List.range 16).foldl (fun s st =>
      let x := s.stageTile c vt st
      if x.staged.isEmpty then s else s.setStageTile c vt st { x with staged := x.staged.map (FetchUnit.cover o) }) s

/-! ### Units -/

/-- Replaces unit n of a tile's staged units and fetch list taken together. -/
def StageTile.setUnit (x : StageTile) (n : Nat) (u : FetchUnit) : StageTile :=
  if n < x.staged.length then { x with staged := listSet x.staged n u }
  else { x with fetch := listSet x.fetch (n - x.staged.length) u }

/-- The entry of a unit is filled: all of its units have landed or are marked. -/
def entryFilled (l : List FetchUnit) (u : FetchUnit) : Bool :=
  l.all fun v => !v.notify || v.index != u.index || v.slot != u.slot ||
    (match v.st with | .landed _ _ => true | .marked _ => true | _ => false)

/-- Posts the stager notices of the filled entries of a running superstep, one for each run of it (R88, R89). -/
def State.notices (s : State) (c vt st : Nat) : State :=
  let l := (s.stageTile c vt st).staged
  let due := l.filter fun u => u.notify && !u.posted && u.first && entryFilled l u
  due.foldl (fun s u =>
    let bad := l.any fun v => v.notify && v.index == u.index && (match v.st with | .marked _ => true | _ => false)
    let s := s.onStrand ⟨c, vt, u.slot⟩ fun x => x.postMail (BitVec.ofNat 16 u.index) (if bad then 1 else 0) 3 u.ea
    let x := s.stageTile c vt st
    s.setStageTile c vt st { x with
      staged := x.staged.map fun v => if v.index = u.index ∧ v.slot = u.slot then { v with posted := true } else v }) s

/-- The notices that a running superstep owes. -/
def State.noticesNow (s : State) (c vt st : Nat) : State :=
  if (s.stage c st).phase = .compute then s.notices c vt st else s

/-- A directory record of a unit's frame in the tile's die (R74). -/
def State.addRecord (s : State) (c vt st frame : Nat) (u : FetchUnit) : State :=
  let k := s.phys c vt / 144
  let d := s.die k
  s.setDie k { d with directory := d.directory ++ [⟨frame, c, vt, st, u.key, []⟩] }

/-- The lines of a unit are counted, each at its own home controllers (R44). -/
def State.noteUnit (s : State) (p pa : Nat) : State :=
  (List.range 64).foldl (fun s i => s.noteLines p (pa + 64 * i) 64) s

/-- A unit that its translation failed: it is marked, or, once the commit has passed that drops its mark, it is over and its
bytes stay as the commits left them (R75).  The mark keeps the cause and not the stage of translation that failed: the spec does
not say whether the record of a STAGE_FAULT names stage 2, and the model's never does (assumption 94). -/
def FetchUnit.failed (u : FetchUnit) (cause : BitVec 8) : FetchUnit :=
  { u with st := if u.overdue then .landed 0 [] else .marked cause }

/-- A unit is marked (R75). -/
def State.markUnit (s : State) (c vt st n : Nat) (u : FetchUnit) (cause : BitVec 8) : State :=
  (s.setStageTile c vt st ((s.stageTile c vt st).setUnit n (u.failed cause))).noticesNow c vt st

/-- The unit is being fetched from a peer. -/
def State.fetching (s : State) (c vt st : Nat) (unit : UnitKey) : Bool :=
  s.fabric.open_.any fun t => match t.use with | .staged a b e d => decide (a = c ∧ b = vt ∧ e = st ∧ d = unit) | _ => false

/-- What the stager does with a unit whose turn it is (R73 to R75); none while the unit is held, for one while an entry of an
earlier commit is unwritten on it (R60).  One of the fetch list for the next superstep gets a directory
record and is registered at its home, so that the commit's lines are forwarded to it (R74); one that was held until its commit
was complete for far memory needs neither. -/
def State.stageUnit (s : State) (c vt st n : Nat) (u : FetchUnit) : Option State :=
  let x := s.stageTile c vt st
  let p := s.phys c vt
  let late := decide (n < x.staged.length)
  let k : XKind := ⟨true, false, true⟩
  if s.walkFull c p u.va then none
  else
    let t := s.noteFar c p u.va
    match s.farAt c p u.va k with
    | .bad f => some (t.markUnit c vt st n u f.cause)
    | .probe a => if s.probing ⟨c, vt, u.slot⟩ then none else s.probe ⟨c, vt, u.slot⟩ a u.va 4096 k
    | .at_ pa cls =>
      if cls = 1 then some (t.markUnit c vt st n u cPROT)
      else if s.unwritten c st pa 4096 || (late && !(s.stage c st).farDone) ||
          (!late && decide (4096 ≤ (s.die (p / 144)).directory.length)) then none
      else
        let keep (t : State) : State := if late then t else t.addRecord c vt st (pa / 4096) u
        match peerOf pa with
        | none =>
          if !((List.range 64).all fun i => s.reaches p (pa + 64 * i)) then none
          else
            let t := t.setStageTile c vt st ((t.stageTile c vt st).setUnit n { u with st := .fetched (pa / 4096) (s.farRead pa 4096) })
            some (((keep t).noteUnit p pa).noteFarRead c vt st u.va pa 4096)
        | some pkg =>
          if s.fetching c vt st u.key then none
          else
            ((keep t).openTrans pkg .rd 0 (pa % paSpan) 4096 (if late then 0 else 2) [] (.staged c vt st u.key)).map fun t =>
              t.noteUnit p pa

/-- The units that the stager of a die may begin: the next of each list on its tiles that is not held, with its tile counted
on the die, its place in append order, and what becomes of it. -/
def State.stagerUnits (s : State) (d : Nat) : List (Nat × Nat × (Nat × Nat × Nat × Nat) × Bool × State) :=
  s.stageTiles.filterMap fun e =>
    let c := e.1.1
    let vt := e.1.2.1
    let st := e.1.2.2
    let l := e.2.staged ++ e.2.fetch
    let p := s.phys c vt
    if p / 144 ≠ d then none
    else
      match (List.range l.length).find? fun n =>
          match l[n]? with | some u => u.st == .queued && !s.fetching c vt st u.key | none => false with
      | none => none
      | some n => (l[n]?).bind fun u => (s.stageUnit c vt st n u).map fun t => (p % 144, u.order, (c, vt, st, n), u.last, t)

/-- The unit that the stager of a die begins next: on the first tile from its turn on that has one, the one appended first;
the turn passes to the next tile with the last unit of an entry (R73; assumption 82). -/
def State.stagerNext (s : State) (d : Nat) : Option ((Nat × Nat × Nat × Nat) × State) :=
  let turn := (s.die d).stagerTurn
  let key (e : Nat × Nat × (Nat × Nat × Nat × Nat) × Bool × State) : Nat := (e.1 + 144 - turn) % 144
  let l := s.stagerUnits d
  (l.foldl (fun acc e =>
    match acc with
    | none => some e
    | some b => if key e < key b ∨ key e = key b ∧ e.2.1 < b.2.1 then some e else some b) none).map fun e =>
      let t := e.2.2.2.2
      (e.2.2.1, t.setDie d { t.die d with stagerTurn := if e.2.2.2.1 then (e.1 + 1) % 144 else e.1 })

/-- `STAGER_UNIT_FETCH` (R73 to R75): n counts the tile's staged units, then those of the fetch list. -/
def execStagerUnitFetch (c vt st n : Nat) (s : State) : Out :=
  .next (match s.stagerNext (s.phys c vt / 144) with
    | some r => if r.1 = (c, vt, st, n) then r.2 else s
    | none => s)

/-! ### Forwards (R51, R74) -/

/-- Lays one far line into a staged copy. -/
def FetchUnit.patch (line : Nat) (bs : List Byte) (u : FetchUnit) : FetchUnit :=
  match u.st with
  | .fetched f b =>
    if f = line / 64 then { u with st := .fetched f (b.take (64 * (line % 64)) ++ bs ++ b.drop (64 * (line % 64) + 64)) } else u
  | _ => u

/-- Some tile with a staged copy of a line of this package has no path to its home (R9, R348). -/
def State.copiesCut (s : State) (line : Nat) : Bool :=
  s.stageTiles.any fun e => !s.reaches (s.phys e.1.1 e.1.2.1) (64 * line) &&
    (e.2.staged ++ e.2.fetch).any fun u => match u.st with | .fetched f _ => f == line / 64 | _ => false

/-- A line comes into the staged copies of its frame on the tiles of this package. -/
def State.patchCopies (s : State) (line : Nat) (bs : List Byte) : State :=
  { s with stageTiles := s.stageTiles.map fun e =>
      (e.1, { e.2 with fetch := e.2.fetch.map (FetchUnit.patch line bs), staged := e.2.staged.map (FetchUnit.patch line bs) }) }

/-- The directory records of a corridor's stage, die by die. -/
def State.records (s : State) (c st : Nat) : List (Nat × DirRec) :=
  (List.range 4).flatMap fun d => ((s.die d).directory.filter fun r => r.cor == c && r.stage == st).map fun r => (d, r)

/-- `STAGED_COPY_FORWARD` (R74): record n of the stage receives the oldest drained line of its frame, once there is a path for it
(R9, R348). -/
def execStagedCopyForward (c st n : Nat) (s : State) : Out :=
  .next (match (s.records c st)[n]? with
    | none => s
    | some (d, r) =>
      match r.due with
      | [] => s
      | line :: rest =>
        if !s.reaches (s.phys c r.vt) (64 * line) then s else
        let bs := s.farRead (64 * line) 64
        let x := s.stageTile c r.vt st
        let f (u : FetchUnit) : FetchUnit := if u.key = r.unit then u.patch line bs else u
        let s := s.setStageTile c r.vt st { x with fetch := x.fetch.map f, staged := x.staged.map f }
        let e := s.die d
        s.setDie d { e with directory := e.directory.map fun q => if q = r then { q with due := rest } else q })

/-! ### Landing (R52, R74) and notices (R88) -/

/-- The unit's directory record, if it has one, has no line to forward. -/
def State.forwarded (s : State) (c vt st : Nat) (u : FetchUnit) : Bool :=
  !((s.records c st).any fun p => p.2.vt == vt && p.2.unit == u.key && !p.2.due.isEmpty)

/-- The cells that a unit writes. -/
def FetchUnit.cells (u : FetchUnit) (bs : List Byte) : Overlay := (runCells u.dest bs).filter fun c => !u.covered.contains c.1

/-- The snapshot of a command that was issued while the unit was owed takes the bytes that land. -/
def CopyCmd.landed (st : Nat) (u : FetchUnit) (own : Overlay) (o : Overlay) (c : CopyCmd) : CopyCmd :=
  if c.owed.contains (st, u.key) then
    { c with view := Mem.apply c.view (o.filter fun p => (cellAt own p.1).isNone)
             owed := c.owed.erase (st, u.key) }
  else c

/-- The snapshot of a matrix command that was issued while the unit was owed takes the bytes that land. -/
def MCmd.landed (st : Nat) (u : FetchUnit) (own : Overlay) (o : Overlay) (c : MCmd) : MCmd :=
  if c.owed.contains (st, u.key) then
    { c with view := Mem.apply c.view (o.filter fun p => (cellAt own p.1).isNone)
             owed := c.owed.erase (st, u.key) }
  else c

/-- The commands of a vtile that were issued while a unit was owed take its bytes into their views (R48, R52). -/
def State.landCommands (s : State) (c vt st : Nat) (u : FetchUnit) (o : Overlay) : State :=
  let own (n : Nat) : Overlay := (s.stageTile c vt n).loc
  let m (k : MCmd) : MCmd := if k.id.cor = c ∧ k.id.vt = vt then k.landed st u (own (s.strand k.id).stage) o else k
  let p := s.phys c vt
  let t := s.tile p
  let s := s.setTile p { t with queue := t.queue.map m, cmdRunning := t.cmdRunning.map m }
  s.mapStrands fun id y =>
    if id.cor = c ∧ id.vt = vt then
      let f := CopyCmd.landed st u (own y.stage) o
      { y with fifo := y.fifo.map f, running := y.running.map f, pushing := y.pushing.map f }
    else y

/-- Units of earlier entries on a vtile that have not landed keep off the bytes of a unit that has (R76; assumption 82). -/
def State.coverEarlier (s : State) (c vt st n : Nat) (u : FetchUnit) (o : Overlay) : State :=
  (List.range 16).foldl (fun s t =>
    let x := s.stageTile c vt t
    let f (i : Nat) : Option FetchUnit := (x.staged[i]?).map fun v =>
      if v.order < u.order ∨ (t = st ∧ i < n) then v.cover o else v
    if x.staged.isEmpty then s else s.setStageTile c vt t { x with staged := (List.range x.staged.length).filterMap f }) s

/-- A unit's bytes become contents of the tile. -/
def State.landUnit (s : State) (c vt st n frame : Nat) (bs : List Byte) (u : FetchUnit) : State :=
  let p := s.phys c vt
  let o := u.cells bs
  let s := bumpCounter s (p / 144) 2 64
  let s := s.setTile p ((s.tile p).commit o)
  let x := s.stageTile c vt st
  let s := s.setStageTile c vt st (x.setUnit n { u with st := .landed frame [], covered := [] })
  let s := (s.coverEarlier c vt st n u o).landCommands c vt st u o
  (s.dropRecords c vt st [u]).noticesNow c vt st

/-- The commit that staged the units of a list has been handed to its home controllers, and where other packages take part
all of it has been written there. -/
def State.mayLand (s : State) (c st : Nat) : Bool :=
  let g := s.stage c st
  !(g.decision == some true) && (!s.spread c || g.farDone)

/-- Unit n of those staged for the superstep that runs lands if it can: the commit has drained and its line forwards have been
made (R74). -/
def State.tryLand (s : State) (c vt st n : Nat) : State :=
  match (s.stageTile c vt st).staged[n]? with
  | none => s
  | some u =>
    match u.st with
    | .fetched frame bs =>
      if !s.mayLand c st || s.unwritten c st (frame * 4096) 4096 || !s.forwarded c vt st u then s
      else s.landUnit c vt st n frame bs u
    | _ => s

/-- `STAGED_UNIT_LANDS` (R74). -/
def execStagedUnitLands (c vt st n : Nat) (s : State) : Out := .next (s.tryLand c vt st n)

/-- A run of a superstep starts on a tile: units that have been filled land, and the notices of filled entries are posted (R88,
R89). -/
def State.startNotices (s : State) (c vt st : Nat) : State :=
  ((List.range (s.stageTile c vt st).staged.length).foldl (fun s n => s.tryLand c vt st n) s).noticesNow c vt st

end Sys2Proof.Machine
end

