-- ==== Sys2Proof/Machine/Junction.lean ====
section
/-! DEFINITION. What a stage's tiles and junctions know of it: its strands, its recorded causes, the reduction, and the
messages of junctions of several packages (R287, R288, R329, R331, R358). -/

namespace Sys2Proof.Machine

/-! ### The parties of a stage -/

/-- The strands of a stage that still take part, on this package. -/
def State.stageIds (s : State) (c st : Nat) : List StrandId :=
  (s.strands.filter fun p => decide (p.1.cor = c ∧ p.2.stage = st) && p.2.status != .ended).map Prod.fst

/-- The vtiles of a stage that lie on this package. -/
def State.stageVts (s : State) (c st : Nat) : List Nat := ((s.cor c).image.members st).filter (s.onPackage c)

/-- Changes a stage. -/
def State.onStage (s : State) (c st : Nat) (f : Stage → Stage) : State := s.setStage c st (f (s.stage c st))

/-- Every strand of the stage has arrived, and there is one on this package. -/
def State.allArrived (s : State) (c st : Nat) : Bool :=
  !(s.stageIds c st).isEmpty && (s.stageIds c st).all fun id => (s.strand id).status == .arrived

/-- The phase in which a superstep begins on this package: with no strand of the stage here, its junction only waits for the
others (R358). -/
def State.firstPhase (s : State) (c st : Nat) : Phase := if (s.stageIds c st).isEmpty then .quiesce else .compute

/-- The stage's pending bytes on this package (R85). -/
def State.pendingSum (s : State) (c st : Nat) : Int := ((s.stageVts c st).map fun vt => (s.stageTile c vt st).pending).sum

/-! ### Causes (R329, R331) -/

/-- The cause that a strand has recorded. -/
def Strand.recorded (x : Strand) : Option TrapInfo := match x.cause with | some c => some c | none => x.voted

/-- The causes recorded in a stage on this package. -/
def State.causes (s : State) (c st : Nat) : List TrapInfo :=
  ((s.stageIds c st).filterMap fun id => (s.strand id).recorded) ++
    (s.stageVts c st).filterMap fun vt => (s.stageTile c vt st).tileCause

/-- The key of the first cause. -/
def TrapInfo.key (t : TrapInfo) : Nat :=
  t.vt * 65536 + (if t.tileKind then 32768 else 0) + t.slot * 256 + t.cause.toNat

/-- The lesser of two causes. -/
def TrapInfo.first (a b : Option TrapInfo) : Option TrapInfo :=
  match a, b with
  | some x, some y => if y.key < x.key then some y else some x
  | some x, none => some x
  | none, y => y

/-- The first cause of a list. -/
def firstCause (l : List TrapInfo) : Option TrapInfo := l.foldl (fun a t => TrapInfo.first a (some t)) none

/-- The cause-class summary. -/
def summaryOf (l : List TrapInfo) : BitVec 16 :=
  l.foldl (fun a t => a ||| BitVec.ofNat 16 (2 ^ causeClass t.cause)) 0

/-- A cause of the whole stage is recorded against its lowest vtile, as a tile cause; a package that does not hold that
vtile keeps it at the lowest it holds. -/
def State.stageVote (s : State) (c st : Nat) (cause : BitVec 8) : State :=
  let vt := (s.stageVts c st).headD 0
  s.tileVote c vt st (tileTrap (((s.cor c).image.members st).headD 0) cause 0 false false)

/-! ### Reduction (R287, R288) -/

/-- Two partial results of one lane. -/
def redStep (op : BitVec 5) (a b : Int) : Int :=
  match op.toNat with
  | 0 => a + b
  | 1 => if a ≤ b then a else b
  | 2 => if a ≤ b then b else a
  | 3 => (BitVec.ofInt 64 a ||| BitVec.ofInt 64 b).toInt
  | _ => (BitVec.ofInt 64 a &&& BitVec.ofInt 64 b).toInt

/-- The strands that contribute a payload, ascending in (vtile, slot). -/
def State.contributors (s : State) (c st : Nat) : List (StrandId × Arrival) :=
  sortBy (fun p => p.1.vt * 4 + p.1.slot) ((s.stageIds c st).filterMap fun id =>
    match (s.strand id).arrival with
    | some a => if a.kind = .red ∨ a.kind = .finRed then some (id, a) else none
    | none => none)

/-- A partial reduction: its operation, the lowest contributor, the lanes exact, and the cause that the contributor would record if
its operation turned out to differ (R288). -/
structure Partial where
  op : BitVec 5
  vt : Nat
  slot : Nat
  lanes : List Int
  info : TrapInfo
  deriving DecidableEq, Repr

/-- Joins two partial reductions of one operation. -/
def Partial.join (a b : Partial) : Partial := { a with lanes := List.zipWith (redStep a.op) a.lanes b.lanes }

/-- The reduction over contributors. -/
def reduceAll (l : List Partial) : Option Partial :=
  match l with
  | [] => none
  | p :: r => some (r.foldl Partial.join p)

/-- The first contribution whose operation differs from that of the lowest. -/
def odd_ (l : List Partial) : Option Partial :=
  match l with
  | [] => none
  | p :: r => r.find? fun q => q.op != p.op

/-- The contributions of this package. -/
def State.partials (s : State) (c st : Nat) : List Partial :=
  (s.contributors c st).map fun p =>
    ⟨p.2.op, p.1.vt, p.1.slot, p.2.lanes.map BitVec.toInt, { s.trapInfo p.1 cILLEGAL 0 false false with chain := p.2.chain }⟩

/-- The reduced lanes. -/
def Partial.words (p : Partial) : List Word := p.lanes.map (BitVec.ofInt 64)

/-- The exact sum of some lane lies outside the signed range. -/
def Partial.overflow (p : Partial) : Bool :=
  p.op == 0 && p.lanes.any fun x => decide (x < -(2 ^ 63) ∨ 2 ^ 63 ≤ x)

/-! ### Junctions across packages (R318, R358) -/

/-- Every plane of the corridor has been placed by some package (R318). -/
def State.planesKnown (s : State) (c : Nat) : Bool :=
  let k := s.cor c
  bits (k.word 13) 24 14 == k.image.z ||
    (List.range k.image.z).all fun z => (KMap.get? s.fabric.planes (k.group, c, z)).isSome

/-- A rank with its lowest set bit cleared. -/
def parentRank (r : Nat) : Nat := r &&& (r - 1)

/-- This package's rank. -/
def State.myRank (s : State) (c : Nat) : Nat := (s.ranks c).idxOf s.fabric.pkg

/-- The package of the parent junction; none at the root. -/
def State.parent (s : State) (c : Nat) : Option Nat :=
  if s.myRank c = 0 then none else (s.ranks c)[parentRank (s.myRank c)]?

/-- The packages of the child junctions. -/
def State.children (s : State) (c : Nat) : List Nat :=
  let l := s.ranks c
  ((List.range l.length).filter fun r => decide (0 < r ∧ parentRank r = s.myRank c)).filterMap fun r => l[r]?

/-- A junction message (R358).  Its kind names one round over the tree: an even number goes up when a package and its
children are done, the odd one after it comes down when the whole stage is.  The rounds are: 0 pending bytes and the end
of quiesce, 2 the vote and the decision, 4 the decision on every tile, 6 every tile drained or emptied, 8 the causes
serviced, 10 and 12 the far drain, 14 the cross-stage data landed, 16 the corridor at rest; 32 names planes placed, 34 a
corridor that halts.  `cont`: some strand of the stage goes on after the barrier.  The spec names the fields and gives no
layout (assumption 18). -/
structure Junc where
  kind : Nat
  group : Nat
  mm : Word
  run : Nat
  pending : Int
  cont : Bool
  cause : Option TrapInfo
  summary : BitVec 16
  red : Option Partial
  deriving DecidableEq, Repr

/-- A message of a kind that reports nothing else. -/
def State.plain (s : State) (c st kind : Nat) : Junc :=
  ⟨kind, (s.cor c).group, (s.stage c st).mm, (s.stage c st).run, 0, false, none, 0, none⟩

/-- The 51 bytes of a cause with its position. -/
def TrapInfo.bytes (t : TrapInfo) : List Byte :=
  leBytes 1 1 ++ leBytes 1 t.cause.toNat ++ leBytes 4 t.vt ++ leBytes 1 t.slot ++
    leBytes 1 ((if t.tileKind then 1 else 0) + (if t.s2 then 2 else 0) + (if t.wr then 4 else 0)) ++
    leBytes 1 t.annul.toNat ++ [t.pc0, t.pc1, t.pc2, t.addr, t.chain].flatMap (fun w => leBytes 8 w.toNat) ++
    List.replicate 2 0

/-- A cause from its 51 bytes, at a place of some bytes. -/
def TrapInfo.ofBytes (b : List Byte) (o : Nat) : TrapInfo :=
  let f (i n : Nat) : Nat := recordField b (o + i) n
  let w (i : Nat) : Word := BitVec.ofNat 64 (f i 8)
  let flags := BitVec.ofNat 8 (f 7 1)
  { cause := BitVec.ofNat 8 (f 1 1), vt := f 2 4, slot := f 6 1, tileKind := flags.getLsbD 0, pc0 := w 9, pc1 := w 17, pc2 := w 25
    annul := BitVec.ofNat 2 (f 8 1), addr := w 33, chain := w 41, s2 := flags.getLsbD 1, wr := flags.getLsbD 2, page := none }

/-- The bytes of a message. -/
def Junc.bytes (j : Junc) : List Byte :=
  leBytes 1 j.kind ++ leBytes 2 j.group ++ leBytes 8 j.mm.toNat ++ leBytes 4 j.run ++
    leBytes 8 (BitVec.ofInt 64 j.pending).toNat ++ leBytes 1 (if j.cont then 1 else 0) ++ leBytes 2 j.summary.toNat ++
    (match j.cause with
     | none => List.replicate 51 0
     | some t => t.bytes) ++
    (match j.red with
     | none => []
     | some p => leBytes 1 p.op.toNat ++ leBytes 4 p.vt ++ leBytes 1 p.slot ++
         (p.lanes.flatMap fun x => leBytes 16 (BitVec.ofInt 128 x).toNat) ++ p.info.bytes)

/-- The message of some bytes. -/
def Junc.ofBytes (b : List Byte) : Junc :=
  let f (o n : Nat) : Nat := recordField b o n
  let w (o : Nat) : Word := BitVec.ofNat 64 (f o 8)
  { kind := f 0 1, group := f 1 2, mm := w 3, run := f 11 4, pending := (w 15).toInt, cont := f 23 1 == 1
    summary := BitVec.ofNat 16 (f 24 2)
    cause := if f 26 1 = 0 then none else some (TrapInfo.ofBytes b 26)
    red := if b.length ≤ 77 then none
      else some ⟨BitVec.ofNat 5 (f 77 1), f 78 4, f 82 1, (List.range 32).map fun i => (BitVec.ofNat 128 (f (83 + 16 * i) 16)).toInt,
        TrapInfo.ofBytes b 595⟩ }

/-- The last message of a kind that a package sent for the stage. -/
def State.heard (s : State) (c st pkg kind : Nat) : Option Junc :=
  (KMap.get? (s.stage c st).children (pkg, kind)).map Junc.ofBytes

/-- The children's messages of one kind, once each has sent one. -/
def State.heardAll (s : State) (c st kind : Nat) : Option (List Junc) :=
  (s.children c).foldr (fun p acc =>
    match acc, s.heard c st p kind with
    | some l, some j => some (j :: l)
    | _, _ => none) (some [])

/-- A message of the stage to a package has not been acknowledged: the next one waits for it, so that they arrive in
order. -/
def State.telling (s : State) (c st pkg : Nat) : Bool :=
  s.fabric.open_.any fun t => t.pkg == pkg && (match t.use with | .junction d e => d == c && e == st | _ => false)

/-- Sends a message to junctions, and keeps it under this package's own number; none where a link to them is not free. -/
def State.tell (s : State) (c st : Nat) (j : Junc) (pkgs : List Nat) : Option State :=
  if pkgs.isEmpty then some s
  else if pkgs.any fun p => s.telling c st p then none
  else
    let s := s.onStage c st fun g => { g with children := KMap.set g.children (s.fabric.pkg, j.kind) j.bytes }
    pkgs.foldl (fun acc p => acc.bind fun s => s.openTrans p .jct c st j.bytes.length 0 j.bytes (.junction c st)) (some s)

/-- The message was the last one of its kind that this package sent. -/
def State.told (s : State) (c st : Nat) (j : Junc) : Bool :=
  KMap.get? (s.stage c st).children (s.fabric.pkg, j.kind) == some j.bytes

/-- One round over the junction tree (R24, R358).  Once every child has reported, `up` is what this package reports of
itself and of them, if it is done; the root goes on where `pass` allows it and sends the answer down, and a junction below
it reports up and goes on with the answer that comes down. -/
def State.round (s : State) (c st kind : Nat) (up : List Junc → Option Junc) (pass : Junc → Bool)
    (go : Junc → State → State) : State :=
  let on (j : Junc) : State := ((s.tell c st j (s.children c)).map (go j)).getD s
  match (s.heardAll c st kind).bind up with
  | none => s
  | some j =>
    match s.parent c with
    | none => if pass j then on { j with kind := kind + 1 } else s
    | some p =>
      match s.heard c st p (kind + 1) with
      | some d => on { d with kind := kind + 1 }
      | none => if s.told c st j then s else (s.tell c st j [p]).getD s

/-- A round that only waits until every package is done. -/
def State.meet (s : State) (c st kind : Nat) (done : Bool) (go : State → State) : State :=
  s.round c st kind (fun _ => if done then some (s.plain c st kind) else none) (fun _ => true) fun _ => go

/-- Some other package has recorded a cause against the superstep that runs: in its vote, or in the decision. -/
def State.peerAborts (s : State) (c st : Nat) : List Junc :=
  let g := s.stage c st
  (g.children.filterMap fun p =>
    if p.1.1 ≠ s.fabric.pkg ∧ (p.1.2 = 2 ∨ p.1.2 = 3) then some (Junc.ofBytes p.2) else none).filter fun j =>
      j.cause.isSome && j.mm == g.mm && j.run == g.run

/-- The first cause that other packages have reported. -/
def State.peerAbort (s : State) (c st : Nat) : Option TrapInfo :=
  firstCause ((s.peerAborts c st).filterMap Junc.cause)

/-- The messages that belong to what is still to come once a superstep has been committed, or runs again. -/
def Stage.laterMessages (g : Stage) (committed : Bool) : KMap (Nat × Nat) (List Byte) :=
  g.children.filter fun p =>
    let j := Junc.ofBytes p.2
    decide (g.mm.toNat < j.mm.toNat) || (!committed && j.mm == g.mm && (decide (g.run < j.run) || decide (10 ≤ p.1.2)))

end Sys2Proof.Machine
end

