-- ==== Sys2Proof/Machine/EvBarrier.lean ====
section
/-! DEFINITION. Events of a superstep's end: arrival, quiesce, the strike horizon, vote and decision (R24, R26, R57, R284
to R288, R329, R331, R341, R358). -/

namespace Sys2Proof.Machine

/-- `ARRIVAL` (R284, R85): a strand whose commands have completed has arrived; the last one of its tile reports the
tile's count, and the last one of the stage begins the quiesce phase. -/
def execArrival (id : StrandId) (s : State) : Out :=
  let x := s.strand id
  let st := x.stage
  .next (if x.status = .arriving ∧ x.fifo.isEmpty ∧ x.running.isEmpty ∧ (s.matrixOf id).isEmpty then
      let s := s.setStrand id { x with status := .arrived }
      let mates := (s.stageIds id.cor st).filter fun i => i.vt == id.vt
      let s := if mates.all fun i => (s.strand i).status == .arrived then
          s.setStageTile id.cor id.vt st { s.stageTile id.cor id.vt st with reported := true }
        else s
      if s.allArrived id.cor st && (s.stage id.cor st).phase == .compute then
        s.onStage id.cor st fun g => { g with phase := .quiesce }
      else s
    else s)

/-- Nothing that the stage has sent is under way: cross-stage writes, released operations, egress, drains (R58, R62,
R85). -/
def State.nothingUnderWay (s : State) (c st : Nat) : Bool :=
  let mine (id : StrandId) : Bool := id.cor == c && (s.strand id).stage == st
  !(s.travelling.any fun t => t.cor == c && t.stage == st) &&
    (s.strands.all fun p => !(p.1.cor == c && p.2.stage == st) || (p.2.released.isEmpty && p.2.inflight == 0)) &&
    !(s.atomics.any fun a => mine a.id) &&
    !(s.host.sendQueues.any fun q => q.2.inflight.any fun m => mine m.id) &&
    !(s.fabric.open_.any fun t => match t.use with
        | .drain d g => d == c && g == st
        | .cross d g => d == c && g == st
        | .amo id _ => mine id
        | .store id => mine id
        | _ => false)

/-- `QUIESCE` (R24, R85, R358): with every tile reported and the sum zero, the strike horizon begins.  Where other packages
take part the far drain of the commit before has ended too, so that the parts of two commits never meet. -/
def execQuiesce (c st : Nat) (s : State) : Out :=
  let g := s.stage c st
  .next (if g.phase ≠ .quiesce || !s.planesKnown c || !s.nothingUnderWay c st || (s.spread c && !g.farDone) then s
    else
      s.round c st 0
        (fun l => some { s.plain c st 0 with pending := s.pendingSum c st + (l.map Junc.pending).sum })
        (fun j => decide (j.pending = 0)) fun _ t => t.onStage c st fun g => { g with phase := .horizon })

/-- `LINK_TIMEOUT` (R26, R348): a stage that has spent 10 ms in the quiesce phase, or whose accesses have waited as long
for a pair of dies without a lit circuit, aborts with LINK. -/
def execLinkTimeout (c st : Nat) (s : State) : Out :=
  let g := s.stage c st
  .next (if (g.phase = .quiesce ∧ !(s.stageIds c st).isEmpty) ∨ (g.phase = .compute ∧ s.dark) then s.stageVote c st cLINK
    else s)

/-- Two of the keys of R54's step 2 write one byte of a tile (R57). -/
def StageTile.conflict (x : StageTile) : Bool :=
  let keys : List (Nat × Overlay) :=
    (0, x.loc) :: x.inbound.map fun d => (1 + d.vt * 4 + d.slot, d.bytes)
  let cells := keys.flatMap fun k => k.2.map fun p => (k.1, p.1)
  cells.any fun a => cells.any fun b => decide (a.2 = b.2 ∧ a.1 ≠ b.1)

/-- A record that a strand of a resumed stage was restored from does not match the stage (R341). -/
def State.staleRecord (s : State) (c vt st : Nat) : Bool :=
  (s.strandIds c vt st).any fun id =>
    (s.strand id).restored && !recordMatches (s.readRecord id) id st (s.stage c st).mm

/-- A tile casts its vote: what has arrived across stages belongs to this commit, and what the tile checks now is
checked (R57, R58, R341). -/
def State.castVote (s : State) (c st : Nat) (vt : Nat) : State :=
  let x := s.stageTile c vt st
  let s := s.setStageTile c vt st { x with voteCast := true, crossVoted := x.crossIn.length }
  let s := if (s.cor c).conflictCheck && x.conflict then
      s.tileVote c vt st (tileTrap vt cWRITE_CONFLICT 0 false false)
    else s
  if (s.stage c st).resumed && s.staleRecord c vt st then s.tileVote c vt st (tileTrap vt cMILESTONE 0 false false) else s

/-- `STRIKE_HORIZON` (R24): 1,024 cycles after the stage's last issue every tile votes. -/
def execStrikeHorizon (c st : Nat) (s : State) : Out :=
  let g := s.stage c st
  .next (if g.phase = .horizon ∧ g.horizonAt ≤ s.clock then
      ((s.stageVts c st).foldl (fun s vt => s.castVote c st vt) s).onStage c st fun g =>
        { g with phase := .vote }
    else s)

/-- Some strand of the stage on this package goes on after its barrier (R289). -/
def State.goesOn (s : State) (c st : Nat) : Bool :=
  (s.stageIds c st).any fun id =>
    match (s.strand id).arrival with | some a => a.kind == .bar || a.kind == .red | none => false

/-- What the junctions of this package gather: causes, and the reduction with those of the children. -/
def State.gatherVotes (s : State) (c st : Nat) (l : List Junc) : Junc :=
  let g := s.stage c st
  let ps := s.partials c st ++ l.filterMap Junc.red
  let wrong := l.any fun j => j.mm != g.mm
  let lowest := ((s.cor c).image.members st).headD 0
  let own := s.causes c st ++ (if wrong then [tileTrap lowest cMILESTONE 0 false false] else []) ++
    (match odd_ ps with | some p => [p.info] | none => [])
  { s.plain c st 2 with
    cont := s.goesOn c st || l.any Junc.cont
    cause := TrapInfo.first (firstCause own) (firstCause (l.filterMap Junc.cause))
    summary := l.foldl (fun a j => a ||| j.summary) (summaryOf own)
    red := reduceAll ps }

/-- A tile's cause that came too late for the decision belongs to the next superstep (R26). -/
def State.postpone (s : State) (c st vt : Nat) : State :=
  let x := s.stageTile c vt st
  match x.tileCause with
  | none => s
  | some t => s.setStageTile c vt st { x with tileCause := none, later := some (x.later.getD t) }

/-- The decision stands: commit unless a cause was recorded. -/
def State.decide_ (s : State) (c st : Nat) (j : Junc) : State :=
  let own := s.causes c st
  let s := if j.cause.isNone then (s.stageVts c st).foldl (fun s vt => s.postpone c st vt) s else s
  s.onStage c st fun g =>
    { g with
      decision := some j.cause.isNone, phase := .decided, firstCause := j.cause, summary := j.summary
      causes := own, cont := j.cont
      lanes := j.red.map Partial.words, redOp := (j.red.map Partial.op).getD 0
      redOvf := (j.red.map Partial.overflow).getD false }

/-- `JUNCTION_VOTE` (R24, R287, R329, R358): the votes combine; the root decides, and the others pass theirs up and take
the decision that comes down. -/
def execJunctionVote (c st : Nat) (s : State) : Out :=
  .next (if (s.stage c st).phase ≠ .vote then s
    else s.round c st 2 (fun l => some (s.gatherVotes c st l)) (fun _ => true) fun j t => t.decide_ c st j)

/-- The decision reaches a tile; on abort its strands stop and their waits are cancelled (R330). -/
def State.reachTile (s : State) (c st vt : Nat) (d : Bool) : State :=
  let s := s.setStageTile c vt st { s.stageTile c vt st with decided := some d }
  if d then s
  else s.mapStrands fun id y =>
    if id.cor = c ∧ id.vt = vt ∧ y.stage = st ∧ y.status ≠ .ended then { y with status := .stopped, wait := .none } else y

/-- What this package reports once the decision has reached its tiles: of an aborted run, every cause recorded until its
strands stopped, those of its children among them (R329, R331). -/
def State.gatherCauses (s : State) (c st : Nat) (l : List Junc) : Junc :=
  let g := s.stage c st
  if g.decision = some true then s.plain c st 4
  else
    { s.plain c st 4 with
      cause := TrapInfo.first g.firstCause (TrapInfo.first (firstCause (s.causes c st)) (firstCause (l.filterMap Junc.cause)))
      summary := l.foldl (fun a j => a ||| j.summary) (g.summary ||| summaryOf (s.causes c st)) }

/-- `JUNCTION_DECISION` (R24, R330, R331): the decision reaches a tile; once it has reached every tile of the stage, phase 7
begins; a commit's far writes are outstanding from then on (R60, R62), and of an aborted run every cause is known. -/
def execJunctionDecision (c st vt : Nat) (s : State) : Out :=
  let g := s.stage c st
  .next (match g.decision with
    | none => s
    | some d =>
      if g.phase ≠ .decided then s
      else
        let s := if (s.stageVts c st).contains vt && (s.stageTile c vt st).decided.isNone then s.reachTile c st vt d else s
        s.round c st 4
          (fun l => if (s.stageVts c st).all fun v => (s.stageTile c v st).decided.isSome then some (s.gatherCauses c st l)
            else none)
          (fun _ => true) fun j t => t.onStage c st fun g =>
            if d then { g with phase := .apply, farDone := false, farReady := !t.spread c }
            else { g with phase := .apply, firstCause := j.cause, summary := j.summary, causes := t.causes c st })

end Sys2Proof.Machine
end

