-- ==== Sys2Proof/Machine/FarMem.lean ====
section
/-! DEFINITION. Far and remote loads and stores, accumulates and immediate atomics (R174 to R177). -/

namespace Sys2Proof.Machine

/-- A write of the strand executing to a frame of another package: a transaction that the strand waits for (R354). -/
def Eff.sendPeer (s : State) (pkg pa : Nat) (kind : FabricKind) (op : BitVec 5) (bs : List Byte) (k : State → Eff) : Eff :=
  match s.openTrans pkg kind 0 (pa % paSpan) bs.length op bs (.store s.cur) with
  | none => .stall s .probe
  | some t => k (t.onMe fun x => { x with inflight := x.inflight + 1 })

/-- A far write that a strand makes once it is translated: the log for a versioned page, the held queue for an immediate
one (R175); a depot strand's acts at once (R67). -/
def Eff.putFar (s : State) (ea : Word) (pa : Nat) (cls : BitVec 2) (bs : List Byte) : Eff :=
  if s.isDepot then
    match peerOf pa with
    | some pkg => Eff.sendPeer s pkg pa .wr 0 bs Eff.done
    | none => .done (s.farWrite pa bs)
  else
    let t := if cls = 0 then s.logFar s.cur s.me.seq pa bs else s.hold s.cur s.me.seq (.store pa bs)
    Eff.fitting s (t.bumpSeq s.cur) ea Eff.done

/-- A store to space 00, 01 or 10; one to a byte that its stage has marked on another tile raises STAGE_FAULT (R75, R175). -/
def Eff.storeFar (s : State) (o : StOp) (bs : List Byte) : Eff :=
  let size := bs.length
  let ea := s.ea o.a o.off size
  Eff.address s ea o.a anySpace size size true fun p =>
    match p with
    | .loc off => Eff.writeLocal s ea off bs Eff.done
    | .tsp vt off =>
      if s.isDepot then .done (s.putLocal s.cur.cor vt 0 off bs)
      else
        match markIn (s.stageTile s.cur.cor vt s.me.stage).staged off size with
        | some va => .trap s cSTAGE_FAULT (BitVec.ofNat 64 va) false true
        | none => Eff.fitting s ((s.sendRemote s.cur s.me.seq vt off bs).bumpSeq s.cur) ea Eff.done
    | .far va => Eff.far s va size true [0, 1] fun s pa cls => Eff.putFar s ea pa cls bs

/-- The cells that an accumulate adds to, with the flags of the conversions (R56, R176). -/
def accCells (pa : Nat) (qs : List (BitVec 128 × Flags)) : KMap Nat (BitVec 128) × Flags :=
  ((List.range qs.length).map fun i => (pa + 16 * i, (qs.getD i (0, 0)).1), (qs.map Prod.snd).foldl (· ||| ·) 0)

/-- The accumulates of a line as a DRAIN request carries them: the words that carry an error as a mask, then each cell's place
from a base and its sum (assumption 18). -/
def cellData (base : Nat) (cs : KMap Nat (BitVec 128)) (bad : List Nat) : List Byte :=
  leBytes 1 ((bad.map fun w => 2 ^ (w % 64 / 8)).sum) ++
    cs.flatMap fun p => leBytes 1 (p.1 - base) ++ leBytes 16 p.2.toNat

/-- An accumulate into consecutive cells (R176).  A depot strand's acts at once on the cells. -/
def Eff.accumulate (s : State) (a : Reg) (qs : List (BitVec 128 × Flags)) : Eff :=
  let ea := s.getS a
  let size := 16 * qs.length
  Eff.address s ea a onlyFar size size true fun p =>
    match p with
    | .far va =>
      Eff.far s va size true [2] fun s pa _ =>
        let r := accCells pa qs
        if s.isDepot then
          match peerOf pa with
          | some pkg =>
            Eff.sendPeer s pkg pa .drain 1 (cellData pa r.1 []) fun s => .done (s.addFlags r.2)
          | none =>
            .done ((r.1.foldl (fun s p =>
              s.farWrite p.1 (leBytes 16 (Mem.load s.far.mem p.1 16 + p.2.toNat))) s).addFlags r.2)
        else Eff.fitting s (((s.logCells s.cur s.me.seq r.1).bumpSeq s.cur).addFlags r.2) ea Eff.done
    | _ => .trap s cPROT ea false true

/-- The source-0x02 results outstanding for a strand (R89). -/
def State.amoOutstanding (s : State) (id : StrandId) : Nat :=
  let x := s.strand id
  let isAmo (h : HeldOp) : Bool := match h.bare with | .amo _ _ _ _ _ _ => true | _ => false
  ((x.held.map Prod.snd ++ x.released).filter isAmo).length + (s.atomics.filter fun a => decide (a.id = id)).length
    + (s.amoResults.filter fun a => decide (a.id = id)).length
    + ((x.mailbox ++ x.mailWaiting).filter fun m => m.source == 2).length
    + (s.fabric.open_.filter fun t => match t.use with | .amo i _ => decide (i = id) | _ => false).length

/-- An atomic on an immediate page, held until commit (R177).  A depot strand's executes at the home controller and its
old value goes to the mailbox as any other. -/
def Eff.immediateAtomic (s : State) (o : R3) (op : BitVec 5) (size : Nat) : Eff :=
  let ea := s.getS o.a
  let cas := op == 9
  let operand := if cas then s.getS (o.b + 1) else s.getS o.b
  let compare := if cas then s.getS o.b else 0
  let tag : BitVec 16 := (s.getS o.d).setWidth 16
  Eff.residues s ([o.a, o.b, o.d] ++ if cas then [o.b + 1] else [])
    (Eff.address s ea o.a onlyFar size size true fun p =>
      match p with
      | .far va =>
        Eff.far s va size true [1] fun s pa _ =>
          if 16 ≤ s.amoOutstanding s.cur then .trap s cDELTA_FULL ea false true
          else if s.isDepot then
            .done { s with atomics := s.atomics ++ [⟨s.cur, pa, size, op, operand, compare, tag, false⟩] }
          else
            Eff.fitting s ((s.hold s.cur s.me.seq (.amo pa size op operand compare tag)).bumpSeq s.cur) ea Eff.done
      | _ => .trap s cPROT ea false true)

/-- `ldf.w` (R174). -/
def execLdfW (o : LdOp) (s : State) : Out := (Eff.loadFar s o 4 (.s o.d)).out

/-- `ldf.d` (R174). -/
def execLdfD (o : LdOp) (s : State) : Out := (Eff.loadFar s o 8 (.s o.d)).out

/-- `vldf` (R174). -/
def execVldf (o : LdOp) (s : State) : Out := (Eff.loadFar s o 64 (.v o.d)).out

/-- `stf.w` (R175). -/
def execStfW (o : StOp) (s : State) : Out :=
  (Eff.residues s [o.s, o.a] (Eff.storeFar s o (leBytes 4 (s.getS o.s).toNat))).out

/-- `stf.d` (R175). -/
def execStfD (o : StOp) (s : State) : Out :=
  (Eff.residues s [o.s, o.a] (Eff.storeFar s o (leBytes 8 (s.getS o.s).toNat))).out

/-- `vstf` (R175). -/
def execVstf (o : StOp) (s : State) : Out := (Eff.residues s [o.a] (Eff.storeFar s o (lineBytes (s.getV o.s)))).out

/-- `acc.f32` (R176). -/
def execAccF32 (a b : Reg) (s : State) : Out :=
  (Eff.residues s [a, b] (Eff.accumulate s a [toQ6464 (f32 ((s.getS b).setWidth 32))])).out

/-- `acc.f64` (R176). -/
def execAccF64 (a b : Reg) (s : State) : Out :=
  (Eff.residues s [a, b] (Eff.accumulate s a [toQ6464 (f64 (s.getS b))])).out

/-- `acc.i64` (R176): exact, never saturates. -/
def execAccI64 (a b : Reg) (s : State) : Out :=
  (Eff.residues s [a, b] (Eff.accumulate s a [((s.getS b ++ (0 : BitVec 64) : BitVec 128), 0)])).out

/-- `acc.v16` (R176): sixteen cells in ascending lane order. -/
def execAccV16 (a b : Reg) (s : State) : Out :=
  (Eff.residues s [a] (Eff.accumulate s a
    ((List.range 16).map fun i => toQ6464 (f32 (BitVec.ofNat 32 (lane (s.getV b) 32 i)))))).out

/-- `amoi.w` (R177). -/
def execAmoiW (o : R3) (op : BitVec 5) (s : State) : Out := (Eff.immediateAtomic s o op 4).out

/-- `amoi.d` (R177). -/
def execAmoiD (o : R3) (op : BitVec 5) (s : State) : Out := (Eff.immediateAtomic s o op 8).out

end Sys2Proof.Machine
end

