-- ==== Sys2Proof/Machine/Service.lean ====
section
/-! DEFINITION. The host's part in a translation fault: fault records, page requests; completion records and the notify
word (R315, R332, R362, R363). -/

namespace Sys2Proof.Machine

/-- Raises a vector of a function where it is enabled: [15:0] vector, [16] enable. -/
def State.raiseVec (s : State) (fn : Nat) (v : BitVec 17) : State :=
  if v.getLsbD 16 then s.post fn (v.toNat % 65536) none else s

/-- Where a device VA leads that the depot itself reads or writes: through an aperture as the peer answered, else by the
local tables (R350). -/
def State.deviceAt (s : State) (pasid : Nat) (ctx : Option Nat) (va : Nat) (k : XKind) : FarAt :=
  match s.apertureAt pasid va with
  | some a =>
    match KMap.get? s.fabric.probes (pasid, va / 4096 * 8 + k.code) with
    | none => .probe a
    | some (frame, cls, cause) => if cause = 0 then .at_ (peerPa a.pkg (frame + va % 4096)) cls else .bad ⟨cause, false⟩
  | none =>
    match walk s pasid ctx k va with
    | .error f => .bad f
    | .ok e => if frameLost s (e.pa va) then .bad ⟨cHOME_LOST, false⟩ else .at_ (e.pa va) e.cls

/-- The depot asks a peer for a translation, unless it has. -/
def State.askProbe (s : State) (a : Aperture) (pasid va : Nat) (k : XKind) : State :=
  if s.fabric.open_.any fun t => t.use == .ask pasid (va / 4096) && t.op == BitVec.ofNat 5 k.code then s
  else (s.openTrans a.pkg .probe a.pasid (a.target + (va - a.va)) 1 (BitVec.ofNat 5 k.code) [] (.ask pasid (va / 4096))).getD s

/-- Changes the host interface. -/
def State.onHost (s : State) (f : HostIf → HostIf) : State := { s with host := f s.host }

/-! ### What the depot reads of device memory -/

/-- What the depot has to ask a peer before it knows: the contents of a page, or its translation. -/
inductive Ask where
  | page (a : Aperture) (pasid va : Nat)
  | probe (a : Aperture) (pasid va : Nat) (k : XKind)
  deriving DecidableEq, Repr

/-- The depot asks, unless it has. -/
def State.ask (s : State) : Ask → State
  | .probe a pasid va k => s.askProbe a pasid va k
  | .page a pasid va =>
    let at_ := a.target + (va / 4096 * 4096 - a.va)
    if s.fabric.open_.any fun t => t.use == .fetch pasid (va / 4096) then s
    else ((s.openTrans a.pkg .rd a.pasid at_ 4096 1 [] (.fetch pasid (va / 4096))).map fun t => t.noteDepot (peerPa a.pkg at_) 4096).getD s

/-- What the depot learned of an address space for a record is forgotten, so that the next one is read anew. -/
def State.forgetPages (s : State) (pasid : Nat) : State :=
  { s with fabric := { s.fabric with
      fetched := s.fabric.fetched.filter fun e => e.1.1 != pasid
      probes := s.fabric.probes.filter fun e => e.1.1 != pasid } }

/-- Reads n bytes of device memory, page by page; none as an error where a page cannot be read.  The first number bounds the
pages. -/
def State.readPages (s : State) (pasid : Nat) (ctx : Option Nat) : Nat → Nat → Nat → Except (Option Ask) (List Byte)
  | 0, _, n => if n = 0 then .ok [] else .error none
  | f + 1, va, n =>
    if n = 0 then .ok []
    else
      let k := min n (4096 - va % 4096)
      let page : Except (Option Ask) (List Byte) :=
        match s.apertureAt pasid va with
        | some a =>
          match KMap.get? s.fabric.fetched (pasid, va / 4096) with
          | none => .error (some (.page a pasid va))
          | some (cause, b) => if cause = 0 then .ok ((b.drop (va % 4096)).take k) else .error none
        | none =>
          match walk s pasid ctx ⟨true, false, false⟩ va with
          | .error _ => .error none
          | .ok e => if frameLost s (e.pa va) then .error none else .ok (s.farRead (e.pa va) k)
      match page with
      | .error e => .error e
      | .ok b => (s.readPages pasid ctx f (va + k) (n - k)).map fun r => b ++ r

/-- Reads n bytes of device memory. -/
def State.readVa (s : State) (pasid : Nat) (ctx : Option Nat) (va n : Nat) : Except (Option Ask) (List Byte) :=
  s.readPages pasid ctx (n / 4096 + 2) va n

/-- The cause with which the depot's read of an address that cannot be read fails: that of a peer's answer, or of the walk. -/
def State.readCause (s : State) (pasid : Nat) (ctx : Option Nat) (va : Nat) : BitVec 8 :=
  match s.apertureAt pasid va with
  | some _ => match KMap.get? s.fabric.fetched (pasid, va / 4096) with | some (cause, _) => cause | none => cTXF
  | none => match walk s pasid ctx ⟨true, false, false⟩ va with | .error f => f.cause | .ok _ => cHOME_LOST

/-- Counts the lines of the depot's reads of device memory of this package, page by page (R44, R393). -/
def State.noteReads (s : State) (pasid : Nat) (ctx : Option Nat) (va n : Nat) : State :=
  (List.range ((va + n + 4095) / 4096 - va / 4096)).foldl (fun s i =>
    let a := max va ((va / 4096 + i) * 4096)
    let k := min (va + n) ((va / 4096 + i + 1) * 4096) - a
    match s.apertureAt pasid a, walk s pasid ctx ⟨true, false, false⟩ a with
    | none, .ok e => s.noteDepot (e.pa a) k
    | _, _ => s) s

/-- A range is mapped writable in a class that admits stores; `imm` asks for an immediate page. -/
def State.mappedWritable (s : State) (pasid : Nat) (ctx : Option Nat) (va n : Nat) (imm : Bool) : Except Ask Bool :=
  let k : XKind := ⟨false, true, false⟩
  (List.range ((va + n + 4095) / 4096 - va / 4096)).foldl (fun acc i =>
    match acc with
    | .ok true =>
      let a := (va / 4096 + i) * 4096
      match s.deviceAt pasid ctx a k with
      | .probe ap => .error (.probe ap pasid a k)
      | .bad _ => .ok false
      | .at_ _ cls => .ok (cls != 2 && (!imm || cls == 1))
    | r => r) (.ok true)

/-! ### Device page faults (R363) -/

/-- The records that a function's ring holds. -/
def Func.ring (f : Func) : Nat := 2 ^ bits f.frBase 3 0

/-- The eight words of a fault record. -/
def FaultRec.words (r : FaultRec) (pasid : Nat) : List Word :=
  [BitVec.ofNat 64 (r.seq % 2 ^ 32 + pasid % 2 ^ 20 * 2 ^ 32 + (if r.wr then 2 ^ 52 else 0)), BitVec.ofNat 64 r.va,
   BitVec.ofNat 64 (r.cor % 2 ^ 32 + r.vt % 2 ^ 16 * 2 ^ 32), 0, 0, 0, 0, 0]

/-- The host address of a ring's 64-byte record with a sequence number. -/
def ringAt (base : Word) (seq : Nat) : Nat := bits base 63 12 * 4096 + 64 * (seq % 2 ^ bits base 3 0)

/-- The oldest fault record of a function that waits for a place is written to the function's ring while that has room; the number
bounds the records. -/
def State.flushFaults (s : State) (fn : Nat) : Nat → State
  | 0 => s
  | n + 1 =>
    let f := s.func fn
    if f.frBase = 0 ∨ (f.frHead - f.frTail).toNat ≥ f.ring then s
    else
      match s.host.faults.find? fun r => r.fn == fn && !r.written with
      | none => s
      | some r =>
        let w := { r with seq := f.frHead.toNat, written := true }
        let s := s.onHost fun h => { h with faults := h.faults.map fun q => if q = r then w else q }
        let s := s.hostWrite none (ringAt f.frBase w.seq) (wordBytes (w.words (s.cor r.cor).pasid))
        ((s.setFunc fn { f with frHead := f.frHead + 1 }).raiseVec fn f.frVec).flushFaults fn n

/-- The service of one faulting page begins: a page request where the corridor's queue has two stages; for a page behind an
aperture one that goes to the depot of the package that holds it; else a fault record.  None where the function has no
ring (R332, R351, R362, R363). -/
def State.askPage (s : State) (c st vt va : Nat) (wr : Bool) : Option State :=
  let k := s.cor c
  let page := va / 4096 * 4096
  let known := s.host.pageRequests.any fun r => r.cor == c && r.st == st && r.page == page && !r.done
  let note (s : State) (pasid pkg : Nat) : State :=
    s.onHost fun h => { h with pageRequests := h.pageRequests ++ [⟨c, st, page, pasid, pkg, false⟩] }
  match s.apertureAt k.pasid va with
  | some a =>
    if known then some s
    else
      (s.openTrans a.pkg .probe a.pasid (a.target + (page - a.va)) 4096 (if wr then 10 else 9) [] (.page c st page)).map fun s =>
        note s a.pasid a.pkg
  | none =>
    if k.ctx.isSome then (if known then some s else some (note s k.pasid s.fabric.pkg))
    else if (s.func k.fn).frBase = 0 then none
    else if s.host.faults.any fun r => r.cor == c && r.st == st && r.va == page && !r.answered then some s
    else
      some ((s.onHost fun h => { h with faults := h.faults ++ [⟨0, k.fn, c, st, vt, page, wr, false, false⟩] }).flushFaults
        k.fn 1)

/-- A page that a stage's service asked for has no answer yet. -/
def State.askOpen (s : State) (c st : Nat) : Bool :=
  (s.host.faults.any fun r => r.cor == c && r.st == st && !r.answered) ||
    (s.host.pageRequests.any fun r => r.cor == c && r.st == st && !r.done)

/-- The answered questions of a stage are forgotten. -/
def State.dropAsks (s : State) (c st : Nat) : State :=
  s.onHost fun h => { h with
    faults := h.faults.filter fun r => !(r.cor == c && r.st == st)
    pageRequests := h.pageRequests.filter fun r => !(r.cor == c && r.st == st) }

/-! ### Completion (R315) -/

/-- The device VA of a queue's record (R305). -/
def State.queueVa (s : State) (q : Nat) : Nat := (KMap.getD s.host.notifyPages (q / 64) 0).toNat + 64 * (q % 64)

/-- The PASID of the physical function. -/
def State.pfPasid (s : State) : Nat := (s.func 0).pasid

/-- A word of a queue's record, as this package's memory holds it or as the peer behind an aperture has answered; 0 of a page that
cannot be read (assumption 88). -/
def State.queueWord (s : State) (q n : Nat) : Word :=
  match s.readVa s.pfPasid none (s.queueVa q + 8 * n) 8 with
  | .ok b => BitVec.ofNat 64 (ofLE b)
  | .error _ => 0

/-- A queue's record cannot be read yet: a peer has still to answer for its page, or to take a write of the depot's (R350). -/
def State.queueAway (s : State) (q : Nat) : Bool :=
  match s.readVa s.pfPasid none (s.queueVa q) 64 with
  | .error (some _) => true
  | _ => (s.apertureAt s.pfPasid (s.queueVa q)).isSome && s.owesWrite depotCor

/-- The depot asks for a queue's record, where it may. -/
def State.askQueue (s : State) (q : Nat) : State :=
  match s.readVa s.pfPasid none (s.queueVa q) 64 with
  | .error (some a) => if s.owesWrite depotCor then s else s.ask a
  | _ => s

/-- What the depot learned of a queue's record is forgotten, so that it is read anew. -/
def State.forgetQueue (s : State) : State := s.forgetPages s.pfPasid

/-- Writes a word of a queue's record. -/
def State.setQueueWord (s : State) (q n : Nat) (w : Word) : State :=
  (s.writeVa depotCor s.pfPasid none (s.queueVa q + 8 * n) (leBytes 8 w.toNat)).getD s

/-- One more completion is counted in a queue's notify word, with its status and cause, and the interrupt is posted where
the queue asks for it; R315 names neither its vector nor its payload (assumption 19). -/
def State.countCompletion (s : State) (q : Nat) (done : List Word) : State :=
  let s := s.noteReads s.pfPasid none (s.queueVa q) 64
  let w := s.queueWord q 3
  let st := (done.headD 0).toNat % 65536
  let s := s.setQueueWord q 3 (setBits (setBits w 31 0 (bits w 31 0 + 1)) 47 32 st)
  let cfg := s.queueWord q 4
  if bit cfg 39 then
    ({ s with free := s.free + 2 } : State).post (bits cfg 38 32) ((Config.freeWord s.free).toNat)
      (some (Config.freeWord (s.free + 1)))
  else s

/-- The completions that have been written are counted in their queues, the oldest first, as far as the queues' records can be read;
the number bounds them. -/
def State.flushNotes (s : State) : Nat → State
  | 0 => s
  | n + 1 =>
    match s.host.notes with
    | [] => s
    | (q, done) :: r =>
      if s.owesWrite depotCor then s
      else if s.queueAway q then s.askQueue q
      else
        let s := s.onHost fun h => { h with notes := r }
        ((s.countCompletion q done).forgetQueue).flushNotes n

/-- A queue is notified of a completion, once the record has been written and those before it have been counted (R315). -/
def State.notifyQueue (s : State) (q : Nat) (done : List Word) : State :=
  (s.onHost fun h => { h with notes := h.notes ++ [(q, done)] }).flushNotes (s.host.notes.length + 1)

/-- The depot writes a completion record at a record's completion_va under an address space, then notifies the queue. -/
def State.postCompletion (s : State) (q pasid : Nat) (ctx : Option Nat) (va : Nat) (done : List Word) : State :=
  ((s.writeVa depotCor pasid ctx va (wordBytes done)).getD s).notifyQueue q done

end Sys2Proof.Machine
end

