-- ==== Sys2Proof/Machine/System.lean ====
section
/-! DEFINITION. `fence`, control registers, `trap`, `ebrk`, `yld`, the privileged instructions and words that do not
decode (R68, R107 to R110, R147, R292, R295 to R302, R374). -/

namespace Sys2Proof.Machine

/-! ### Control registers (R107 to R110, R374) -/

/-- Numbers that are ILLEGAL. -/
def csrAbsent (n : Nat) : Bool :=
  decide ((5 ≤ n ∧ n ≤ 7) ∨ n = 14 ∨ n = 15 ∨ (17 ≤ n ∧ n ≤ 23) ∨ (25 ≤ n ∧ n ≤ 31) ∨ (34 ≤ n ∧ n ≤ 47))

/-- Numbers of the depot alone. -/
def csrPrivileged (n : Nat) : Bool := decide ((48 ≤ n ∧ n ≤ 63) ∨ 80 ≤ n)

/-- The RW fields of a register: none has every field RO. -/
def csrMask (n : Nat) : Option Word :=
  match n with
  | 0x08 => some 0x7F
  | 0x09 => some 0xF
  | 0x0A => some 0xFFFFFFFF00001FFF
  | 0x0B => some 0x1FFFFF
  | 0x0C => some 0x1FFFFF
  | 0x0D => some 3
  | 0x10 => some 3
  | 0x30 => some 0x7FFFFFFFFFFFFFFF
  | 0x31 => some 0x7FF
  | 0x32 => some 0xFFFFFFFFFFFFFFFF
  | 0x33 => some 0xFFFFFFFFFFFFFFFF
  | 0x34 => some 0x1FFFFF
  | 0x35 => some 0xFFFFFFFFFFFFFFFF
  | _ => none

/-- SID (R108). -/
def State.sid (s : State) : Word := BitVec.ofNat 64 (s.cur.vt % 65536 + s.cur.slot % 4 * 65536 + s.me.stage % 16 * 262144)

/-- LCO (R108, R317). -/
def State.lco (s : State) : Word :=
  let p := s.image.coords s.cur.vt
  BitVec.ofNat 64 (p.1 % 256 + p.2.1 % 256 * 256 + p.2.2 % 1024 * 65536)

/-- BGS (R108): the stage, the stage count, and the strands and vtiles of the stage as launched. -/
def State.bgs (s : State) : Word :=
  let im := s.image
  let vts := im.members s.me.stage
  let n := (vts.map fun vt => (im.slotsOf vt s.me.stage).length).sum
  BitVec.ofNat 64 (s.me.stage % 16 + (im.stages - 1) % 16 * 16 + n % 2 ^ 21 * 256 + vts.length % 2 ^ 17 * 2 ^ 29)

/-- A register that the spec describes for the strand executing; none where it gives a depot strand no value, and for
BANK_WAIT, whose count rests on the timing of banks (assumption 13). -/
def State.csrValue (s : State) (n : Nat) : Option Word :=
  let x := s.me
  let c := x.ctl
  let d := x.depot
  let corridor (w : Word) : Option Word := if s.isDepot then none else some w
  match n with
  | 0x00 => corridor s.sid
  | 0x01 => corridor (BitVec.ofNat 64 (s.cur.cor % 2 ^ 32))
  | 0x02 => corridor s.lco
  | 0x03 => corridor (s.stage s.cur.cor x.stage).mm
  | 0x04 => corridor s.bgs
  | 0x08 => some c.flg
  | 0x09 => some c.vfc
  | 0x0A => some c.mfc0
  | 0x0B => some c.mfc1
  | 0x0C => some c.mfc2
  | 0x0D => some c.mfc3
  | 0x10 => some c.dsc
  | 0x18 => corridor s.seqCtx.qsc
  | 0x20 => corridor (s.cor s.cur.cor).cyc
  | 0x21 => corridor ((s.stage s.cur.cor x.stage).agn.setWidth 64)
  | 0x30 => some d.epq
  | 0x31 => some d.est
  | 0x32 => some d.ead
  | 0x33 => some d.evt
  | 0x34 => some d.evb
  | 0x35 => some d.dtm
  | n => if 0x40 ≤ n ∧ n ≤ 0x4F then some ((s.die (s.myTile / 144)).counters.toList.getD (n - 0x40) 0) else none

/-- Stores a register of the strand executing; a write of ones clears the events of EVT (W1C). -/
def State.csrStore (s : State) (n : Nat) (w : Word) : State :=
  s.onMe fun x =>
    let m := (csrMask n).getD 0
    let put (old : Word) : Word := (old &&& ~~~m) ||| (w &&& m)
    match n with
    | 0x08 => { x with ctl := { x.ctl with flg := put x.ctl.flg } }
    | 0x09 => { x with ctl := { x.ctl with vfc := put x.ctl.vfc } }
    | 0x0A => { x with ctl := { x.ctl with mfc0 := put x.ctl.mfc0 } }
    | 0x0B => { x with ctl := { x.ctl with mfc1 := put x.ctl.mfc1 } }
    | 0x0C => { x with ctl := { x.ctl with mfc2 := put x.ctl.mfc2 } }
    | 0x0D => { x with ctl := { x.ctl with mfc3 := put x.ctl.mfc3 } }
    | 0x10 => { x with ctl := { x.ctl with dsc := put x.ctl.dsc } }
    | 0x30 => { x with depot := { x.depot with epq := put x.depot.epq } }
    | 0x31 => { x with depot := { x.depot with est := put x.depot.est } }
    | 0x32 => { x with depot := { x.depot with ead := put x.depot.ead } }
    | 0x33 => { x with depot := { x.depot with evt := x.depot.evt &&& ~~~w } }
    | 0x34 => { x with depot := { x.depot with evb := put x.depot.evb } }
    | 0x35 => { x with depot := { x.depot with dtm := put x.depot.dtm } }
    | _ => x

/-- The bank requests that have been delayed on a die since BANK_WAIT was last read are counted; how many they are is a free value
(R110; assumption 13). -/
def State.countBanks (s : State) : State :=
  (bumpCounter s (s.myTile / 144) 7 (Config.freeWord s.free).toNat).nextFree

/-- What a CSR access waits for before it acts (R297). -/
def Eff.csrReady (s : State) (n : Nat) (wr : Bool) (k : State → Eff) : Eff :=
  if n = 0x08 then
    if !s.me.allLanded then .stall s .windows
    else if !s.holds s.cur .matrixIdle then .stall s .matrixIdle
    else k (s.onMe Strand.endWindows)
  else if wr && decide (9 ≤ n ∧ n ≤ 13) && !s.holds s.cur .matrixStarted then .stall s .matrixStarted
  else k s

/-- The four forms (R296): `f` gives the value written, none for `csrr`. -/
def Eff.csr (s : State) (d a : Reg) (n : BitVec 8) (wr : Bool) (f : Word → Word → Word) : Eff :=
  let k := n.toNat
  let described := (s.csrValue k).isSome
  if csrPrivileged k && !s.isDepot then .trap s cPRIV 0 false false
  else if csrAbsent k || (wr && (csrMask k).isNone && !csrPrivileged k) then .trap s cILLEGAL 0 false false
  else
    Eff.residues s (if wr then [a] else [])
      (Eff.csrReady s k wr fun s =>
        if described then
          let s := if k = 0x47 then s.countBanks else s
          let old := (s.csrValue k).getD 0
          let s' := if wr then s.csrStore k (f old (s.getS a)) else s
          .done (s'.writeS d old)
        else .done ((s.writeS d (Config.freeWord s.free)).nextFree))

/-- `csrr` (R296). -/
def execCsrr (d : Reg) (n : BitVec 8) (s : State) : Out := (Eff.csr s d 0 n false fun old _ => old).out

/-- `csrw` (R296). -/
def execCsrw (d a : Reg) (n : BitVec 8) (s : State) : Out := (Eff.csr s d a n true fun _ w => w).out

/-- `csrs` (R296). -/
def execCsrs (d a : Reg) (n : BitVec 8) (s : State) : Out := (Eff.csr s d a n true fun old w => old ||| w).out

/-- `csrc` (R296). -/
def execCsrc (d a : Reg) (n : BitVec 8) (s : State) : Out := (Eff.csr s d a n true fun old w => old &&& ~~~w).out

/-! ### Fence, trap, debug stop, yield -/

/-- `fence` (R68, R295): nothing in a corridor strand.  In a depot strand one with observers waits until the accesses before
it have been performed, an acquire for the loads among them, and one with E or M in its mask until the engines have begun
to read for every command issued before it. -/
def execFence (mask : BitVec 5) (kind : BitVec 2) (s : State) : Out :=
  (if kind = 3 then Eff.trap s cILLEGAL 0 false false
   else if !s.isDepot || mask = 0 then .done s
   else if kind = 2 && !s.me.allLanded then .stall s .windows
   else if kind != 2 && !s.holds s.cur .stored then .stall s .stored
   else if (mask.getLsbD 3 || mask.getLsbD 2) && !s.holds s.cur .fenced then .stall s .fenced
   else if (mask.getLsbD 3 || mask.getLsbD 2) && !s.holds s.cur .matrixStarted then .stall s .matrixStarted
   else .done s).out

/-- `trap` (R292): the code stands in the chain that the record holds. -/
def execTrap (_code : BitVec 11) (s : State) : Out := (Eff.trap s cVOTE 0 false false).out

/-- `ebrk` (R298). -/
def execEbrk (_code : BitVec 11) (s : State) : Out :=
  (Eff.noBody s
    (if s.isDepot || !(s.cor s.cur.cor).debug then .done s
     else if !s.me.allLanded then .stall s .windows
     else
       let chain := chainWord (s.chainAt s.cur s.me.pc0)
       .settled (((retire (s.onMe Strand.endWindows)).haltStrand s.cur (some chain)).debugHalt s.cur.cor [s.cur]))).out

/-- `yld` (R299): the strands that are ready in the cycle after make up its set; the end of this step keeps them alone. -/
def execYld (s : State) : Out := (Eff.settled ((retire s).onMe fun x => { x with wait := .yield [0, 1, 2, 3] })).out

/-! ### Privileged instructions -/

/-- Drops every cached translation, and every walk under way, that a test matches; the first argument is the PASID, the
second the context, the third and fourth the range of addresses. -/
def State.invalidate (s : State) (f : Nat → Option Nat → Nat → Nat → Bool) : State :=
  let hit (e : TlbEntry) : Bool := f e.pasid e.ctx e.va e.size
  { s with
    tiles := s.tiles.map fun p => (p.1, { p.2 with tlb := p.2.tlb.filter fun e => !hit e })
    dies := s.dies.map fun d =>
      { d with l2 := d.l2.filter fun e => !hit e
               walks := d.walks.filter fun w => !f w.pasid w.ctx (w.va / 4096 * 4096) 4096 } }

/-- `tlbi` (R300). -/
def execTlbi (a b : Reg) (s : State) : Out :=
  let w := s.getS a
  let pasid := bits w 19 0
  let ctx := bits w 27 20
  let va := bits (s.getS b) 47 12 * 4096
  (Eff.privileged s (Eff.residues s [a, b]
    (if bits w 63 30 ≠ 0 then .trap s cILLEGAL 0 false false
     else
       .done (s.invalidate fun p c v n =>
         match bits w 29 28 with
         | 0 => p == pasid && (c.getD ctx == ctx) && decide (v < va + 4096 ∧ va < v + n)
         | 1 => p == pasid
         | 2 => c == some ctx
         | _ => true)))).out

/-- Returns from an exception: the position of EPQ and EST.annul, EST.active cleared (R301, R374). -/
def Strand.returned (x : Strand) : Strand :=
  let q := x.depot.epq
  { x with
    pc0 := BitVec.ofNat 64 (bits q 20 0), pc1 := BitVec.ofNat 64 (bits q 41 21), pc2 := BitVec.ofNat 64 (bits q 62 42)
    annul := BitVec.ofNat 2 (bits x.depot.est 9 8), rep := none
    depot := { x.depot with est := setBits x.depot.est 10 10 0 } }

/-- `rfe` (R301). -/
def execRfe (s : State) : Out :=
  (Eff.noSlot s (Eff.privileged s (.settled ((s.onMe Strand.returned).counted s.cur false)))).out

/-- `wfe` (R301). -/
def execWfe (s : State) : Out :=
  (Eff.privileged s
    (if s.me.depot.evt = 0 then .stall s .event
     else .done (s.onMe fun x => { x with depot := { x.depot with evt := 0 } }))).out

/-- `ipost` (R302, R364): an implicit release, so that it waits until the accesses before it have been performed. -/
def execIpost (a b : Reg) (s : State) : Out :=
  let w := s.getS a
  (Eff.privileged s (Eff.residues s [a, b]
    (if bits w 63 23 ≠ 0 then .trap s cILLEGAL 0 false false
     else if !s.holds s.cur .stored then .stall s .stored
     else .done (s.post (bits w 22 16) (bits w 15 0) (some (s.getS b)))))).out

/-- A word sequence that fails decoding (R147). -/
def execIllegalDecode (priv : Bool) (s : State) : Out :=
  (Eff.trap s (if priv then cPRIV else cILLEGAL) 0 false false).out

end Sys2Proof.Machine
end

