-- ==== Sys2Proof/Machine/EvCommit.lean ====
section
/-! DEFINITION. Events of a commit and of what it releases: tile drain, far drain, held operations, atomics, cross-stage
delivery, results and completion (R52 to R66, R86 to R90, R96, R111, R286 to R289, R315, R367). -/

namespace Sys2Proof.Machine

/-! ### One tile's drain (R54) -/

/-- Deltas in the order of R54's step 2. -/
def orderedDeltas (l : List Delta) : List Delta := sortBy (fun d => d.vt * 4 + d.slot) (sortBy Delta.seq l)

/-- Cross-stage data in the order of R54's step 1. -/
def orderedCross (l : List CrossIn) : List CrossIn :=
  sortBy CrossIn.stage (sortBy (fun d => d.mm.toNat) (sortBy (fun d => d.vt * 4 + d.slot) (sortBy CrossIn.seq l)))

/-- Overlays laid over one another in order. -/
def layAll (l : List Overlay) : Overlay := l.foldl Overlay.over []

/-- What a tile applies at a commit, steps 1 to 3 of R54. -/
def StageTile.applied (x : StageTile) (vt : Nat) : Overlay :=
  let before := x.inbound.filter fun d => decide (d.vt < vt)
  let after := x.inbound.filter fun d => !decide (d.vt < vt)
  layAll ((orderedCross (x.crossIn.take x.crossVoted)).map CrossIn.bytes ++ (orderedDeltas before).map Delta.bytes ++
    [x.loc] ++ (orderedDeltas after).map Delta.bytes ++ (orderedDeltas x.bcast).map Delta.bytes)

/-- The entries that a tile applies. -/
def StageTile.appliedEntries (x : StageTile) : Nat :=
  x.loc.lines.length + entryCount (x.inbound.map fun d => ((d.vt, d.slot), d.bytes.lines)) +
    entryCount (x.bcast.map fun d => ((d.vt, d.slot), d.bytes.lines)) +
    entryCount ((x.crossIn.take x.crossVoted).map fun d => ((d.stage, d.mm, d.vt, d.slot), d.bytes.lines))

/-- The verge entries that writes with keys take: for each key and line what the writes leave there (R98). -/
def byEntry {κ : Type} [DecidableEq κ] (l : List (κ × Overlay)) : List Overlay :=
  (distinct (l.map Prod.fst)).flatMap fun k =>
    let o := layAll ((l.filter fun p => p.1 = k).map Prod.snd)
    (distinct o.lines).map fun n => cellsIn o (64 * n) 64

/-- The entries that a tile applies to its own memory (R54, R98). -/
def StageTile.entries (x : StageTile) : List Overlay :=
  byEntry ((x.crossIn.take x.crossVoted).map fun d => ((d.stage, d.mm, d.vt, d.slot), d.bytes)) ++ byEntry [((), x.loc)] ++
    byEntry (x.inbound.map fun d => ((d.vt, d.slot), d.bytes)) ++ byEntry (x.bcast.map fun d => ((d.vt, d.slot), d.bytes))

/-- An entry of the verge buffer that a tile's drain treats (R98): the nth of those applied to its own memory, one of the
far-store log, one of data for another stage, the nth held operation of a strand slot. -/
inductive VergeEntry where
  | own (n : Nat)
  | far (slot line : Nat)
  | cross (slot target line : Nat)
  | held (slot n : Nat)
  deriving DecidableEq, Repr

/-- The entries that a tile's drain treats. -/
def State.vergeEntries (s : State) (c st vt : Nat) : List VergeEntry :=
  let x := s.stageTile c vt st
  (List.range x.entries.length).map VergeEntry.own ++
    distinct (x.farlog.flatMap fun f => f.lines.map fun l => VergeEntry.far f.slot l) ++
    distinct (x.cross.flatMap fun w => w.bytes.lines.map fun l => VergeEntry.cross w.slot w.target l) ++
    (s.strandIds c vt st).flatMap fun id => (List.range (s.strand id).held.length).map fun n => VergeEntry.held id.slot n

/-- Marks one line of a far-store log: it goes out with an uncorrectable error. -/
def FarLog.spoil (f : FarLog) (line : Nat) : FarLog := { f with bad := f.bad ++ [line] }

/-- The nth entry of a list is changed. -/
def changeNth {α : Type} (f : α → α) : Nat → List α → List α
  | _, [] => []
  | 0, a :: l => f a :: l
  | n + 1, a :: l => a :: changeNth f n l

/-- The entry that fails goes to its target with ECC poison (R367): `x` is what the tile held, `before` the operations of each
strand slot that were due already. -/
def State.spoilEntry (s : State) (c st vt : Nat) (x : StageTile) (before : Nat → Nat) : VergeEntry → State
  | .own n =>
    let o := x.entries.getD n []
    s.poisonTile (s.phys c vt) ((distinct o.lines).flatMap (wordsIn o))
  | .far slot line => s.onStage c st fun g => { g with
      farLeft := g.farLeft.map fun f => if f.mm = g.mm ∧ f.vt = vt ∧ f.slot = slot ∧ f.lines.contains line then f.spoil line else f }
  | .cross slot target line => { s with travelling := s.travelling.map fun w =>
      if w.cor = c ∧ w.stage = st ∧ w.mm = (s.stage c st).mm ∧ w.vt = vt ∧ w.slot = slot ∧ w.target = target then
        { w with bad := w.bad ++ wordsIn w.bytes line } else w }
  | .held slot n => s.onStrand ⟨c, vt, slot⟩ fun y => { y with released := changeNth HeldOp.spoiled (before slot + n) y.released }

/-- An uncorrectable error met in a tile's drain: one of the entries fails and the tile is charged (R367).  Which one is a free
value (assumption 20). -/
def State.drainError (s : State) (c st vt : Nat) (x : StageTile) (before : Nat → Nat) (l : List VergeEntry) : State :=
  let i := (Config.freeWord s.free).toNat % (if l.length = 0 then 1 else l.length)
  let s := (s.suspect (s.phys c vt) 64).nextFree
  match l[i]? with
  | some e => s.spoilEntry c st vt x before e
  | none => s

/-- A unit of an earlier commit that has not landed stays owed; its mark or its notice does not outlive the superstep
(R75, R89). -/
def stillOwed (l : List FetchUnit) : List FetchUnit :=
  (l.filter fun u => owedIn [u] 0 0x200000).map fun u => { u with notify := false, overdue := true }

/-- A strand's committed source-0x02 entries in arrival order: those that the running superstep has popped among them, and
those that wait for a place (R63, R89). -/
def Strand.committedMail (x : Strand) : List MailEntry :=
  x.popped ++ (x.mailbox ++ x.mailWaiting).filter fun m => m.source == 2

/-- The 256 bytes of a strand's committed source-0x02 entries (R95). -/
def Strand.mailImage (x : Strand) : List Byte :=
  let e (m : MailEntry) : List Byte := leBytes 8 m.head.toNat ++ leBytes 8 m.payload.toNat
  let b := (x.committedMail.take 16).flatMap e
  b ++ List.replicate (256 - b.length) 0

/-- The committed entries of a strand's mailbox are kept in the system area. -/
def State.saveMail (s : State) (id : StrandId) : State :=
  if isDepotId id then s
  else
    let p := s.phys id.cor id.vt
    s.setTile p { s.tile p with
      mem := Mem.write (s.tile p).mem (0x1FBE00 + 256 * (4 * s.residOf id.cor id.vt + id.slot)) (s.strand id).mailImage }

/-- What a strand gives up and hands over at a commit: posted entries of sources 0x01 and 0x03 are discarded, held
operations become due (R62, R89). -/
def Strand.committed (x : Strand) : Strand :=
  { x with
    mailbox := x.mailbox.filter fun m => m.source == 2, mailWaiting := x.mailWaiting.filter fun m => m.source == 2
    popped := [], held := [], released := x.released ++ x.held.map Prod.snd }

/-- Far-store logs in the order of R55, commit by commit. -/
def orderedLogs (l : List FarLog) : List FarLog :=
  sortBy (fun f => f.mm.toNat) (sortBy (fun f => f.vt * 4 + f.slot) (sortBy FarLog.seq l))

/-- A tile drains for a stage's commit: what is held for it becomes contents of the tile, its far-store log goes to the home
controllers' queues, what it holds for other stages is on its way (R24, R53, R54). -/
def State.drainTile (s : State) (c st vt : Nat) : State :=
  let x := s.stageTile c vt st
  let g := s.stage c st
  let l := s.vergeEntries c st vt
  let due (slot : Nat) : Nat := (s.strand ⟨c, vt, slot⟩).released.length
  let p := s.phys c vt
  let s := (s.commitBytes c vt (x.applied vt)).poisonTile p ((x.crossIn.take x.crossVoted).flatMap CrossIn.bad)
  let s := bumpCounter s (p / 144) 5 x.appliedEntries
  let sent : List Travelling := x.cross.map fun w => ⟨c, st, g.mm, vt, w.slot, w.seq, w.target, w.bytes, []⟩
  let s := { s with travelling := s.travelling ++ sent }
  let y := s.stageTile c vt st
  let s := s.setStageTile c vt st { y with
    loc := [], inbound := [], bcast := [], outbound := [], cross := [], crossIn := y.crossIn.drop y.crossVoted, farlog := []
    crossVoted := 0, staged := stillOwed y.staged ++ y.fetch, fetch := [], pending := 0, settled := true }
  let s := s.onStage c st fun g => { g with farLeft := orderedLogs (g.farLeft ++ x.farlog) }
  let s := s.mapStrands fun id y => if id.cor = c ∧ id.vt = vt ∧ y.stage = st then y.committed else y
  let s := if x.tileCause.isSome then s.drainError c st vt x due l else s
  (s.strandIds c vt st).foldl State.saveMail s

/-! ### Delivered marks (R293) -/

/-- The mark that a tile keeps for a stage: the stage's commits, less those whose cross-stage data is under way; where
other packages take part, the commits whose data has landed on every one. -/
def State.markOf (s : State) (c vt st : Nat) : Word :=
  let g := s.stage c st
  if s.spread c then g.crossDone
  else
    ((s.travelling.filter fun t => t.cor == c && t.stage == st && t.target == vt).map Travelling.mm).foldl
      (fun m k => if k.toNat < m.toNat then k else m) g.mm

/-- Brings the delivered marks of a corridor's tiles up to date. -/
def State.updateMarks (s : State) (c : Nat) : State :=
  let k := s.cor c
  (((List.range k.image.vtiles).filter (s.onPackage c))).foldl (fun s vt =>
    let v := s.vtile c vt
    s.setVtile c vt { v with delivered := (List.range k.image.stages).map fun st => (st, s.markOf c vt st) }) s

/-! ### The end of a commit (R111, R279, R286, R289) -/

/-- The stage's sequencer context on a tile is saved where a continuing strand has it live, else it is dead, and unconfigured once a
strand goes on; where none does it stays as it stands (R279, R403). -/
def State.commitSeq (s : State) (c st vt : Nat) : State :=
  let v := s.vtile c vt
  let goesOn (f : Arrival → Bool) : Bool := (s.strandIds c vt st).any fun id =>
    match (s.strand id).arrival with | some a => (a.kind == .bar || a.kind == .red) && f a | none => false
  if v.seq.bound ≠ some st then s
  else if goesOn fun a => Live.q ((s.cor c).image.liveAt a.pc.toNat) then s.saveSeq c vt
  else if goesOn fun _ => true then s.setVtile c vt { v with seq := { SeqCtx.reset with bound := some st } }
  else s

/-- A corridor's stages stop after their commits: a drain is pending, and no immediate request, which strikes the next
superstep instead (R26, R325). -/
def Corridor.draining (k : Corridor) : Bool := !k.requests.isEmpty && !(k.requests.any Request.immediate)

/-- One strand at phases 8 and 9 of a commit. -/
def State.resumeStrand (s : State) (g : Stage) (id : StrandId) : State :=
  let x := s.strand id
  match x.arrival with
  | none => s
  | some a =>
    if a.kind = .fin ∨ a.kind = .finRed then
      (s.setStrand id { x with status := .ended, arrival := none, windows := [], voted := none, cause := none }).clearRecord id
    else
      let red := a.kind == .red
      let y := match red, g.lanes with
        | true, some ls => (x.putGroup a.group ls).addFlags (if g.redOvf then 4 else 0)
        | _, _ => x
      let l := (s.cor id.cor).image.liveAt a.pc.toNat
      let live := if red then Live.withGroup l a.group else l
      let pc2 := s.after id x.pc2
      let s := s.writeRecord id y (g.mm + 1) x.pc1 x.pc2 pc2 live false
      s.setStrand id { y.poisoned live with
        pc0 := x.pc1, pc1 := x.pc2, pc2, annul := 0, slots := 0, windows := [], rep := none, wait := .none
        arrival := none, voted := none, cause := none, seq := 0, serial := 0, restored := false
        status := if (s.cor id.cor).draining then .parked else .running }

/-- The drain watermarks of the home controllers for a stage (R60): the commits whose entries homed there have all been
written. -/
def State.watermarksOf (s : State) (g : Stage) : KMap Nat Word :=
  (List.range 24).map fun k => (k, (g.farLeft.filter fun f => f.lines.any fun l =>
    (peerOf (64 * l)).isNone && controllerOf s (64 * l) == k).foldl (fun m f => if f.mm.toNat < m.toNat then f.mm else m) g.mm)

/-- Notes what the home controllers of this package have written for a stage. -/
def State.noteWatermarks (s : State) (c st : Nat) : State :=
  s.onStage c st fun g => { g with watermarks := s.watermarksOf g }

/-- The strands of a stage that runs are struck by an immediate pre-emption of a class (R323, R324, R331). -/
def State.strike (s : State) (c st cls : Nat) : State :=
  let s := (s.stageIds c st).foldl (fun s id =>
    if (s.strand id).cause.isSome then s else s.raiseAt id cPREEMPT 0 false false) s
  let k := s.cor c
  let s := (List.range k.image.stages).foldl (fun s st => s.onStage c st fun g => { g with guarded := !g.ended }) s
  s.setCor c { s.cor c with guardClass := some (match k.guardClass with | some g => max g cls | none => cls) }

/-- The highest class among a corridor's immediate requests. -/
def Corridor.struckBy (k : Corridor) : Option Nat :=
  match (k.requests.filter Request.immediate).map Request.cls with
  | [] => none
  | a :: r => some (r.foldl max a)

/-- A strand that was asked to halt while it had arrived halts now (R290). -/
def State.haltPending (s : State) (id : StrandId) : State :=
  let x := s.strand id
  if (x.stepping || x.halting) && x.status == .running then s.haltStrand id none else s

/-- What has arrived for an ended receiver stage is applied at once (R58). -/
def State.applyArrived (s : State) (c vt st : Nat) : State :=
  let x := s.stageTile c vt st
  let s := s.setStageTile c vt st { x with crossIn := [] }
  (s.commitBytes c vt (layAll ((orderedCross x.crossIn).map CrossIn.bytes))).poisonTile (s.phys c vt) (x.crossIn.flatMap CrossIn.bad)

/-- A stage's circuits may change: it stands at a barrier (R12). -/
def State.standing (s : State) (c st : Nat) : Bool :=
  (s.stage c st).ended || (match (s.stage c st).phase with | .stopped => true | .service => true | _ => false)

/-- Every stage of every running corridor but one stands at a barrier. -/
def State.standingBut (s : State) (c st : Nat) : Bool :=
  s.corridors.all fun p =>
    (match p.2.state with | .running => false | .stopping => false | _ => true) ||
      (List.range p.2.image.stages).all fun t => (p.1 == c && t == st) || s.standing p.1 t

/-- The pairs of dies in the dark get circuits again, at once where every other stage stands at a barrier too; none where no
circuit can be spared (R12, R332, R348). -/
def State.relight (s : State) (c st : Nat) : Option State :=
  s.reroute.map fun t => if t.standingBut c st then t.changeCircuits else t

/-- The frame of an address kept for a peer, as answers to probes give it. -/
def frameOf (pkg frame : Nat) : Nat := peerPa pkg (4096 * frame) / 4096

/-- A corridor, or the depot, still makes use of a peer's frame that a probe answered: by an answer that holds for its superstep,
a log, a held or released operation, a read, an atomic, or a transaction under way; of a corridor on several packages until the
far drain has ended on all of them (R351). -/
def State.usesFrame (s : State) (c pkg frame : Nat) : Bool :=
  let f := frameOf pkg frame
  let sp := (s.space c).1
  let op (h : HeldOp) : Bool :=
    match h.bare with | .store pa _ => pa / 4096 == f | .amo pa _ _ _ _ _ => pa / 4096 == f | _ => false
  (s.spread c && s.stages.any fun g => g.1.1 == c && !g.2.farDone) ||
  (s.fabric.probes.any fun e => e.1.1 == sp && e.2.2.2 == 0 &&
      (match s.apertureAt sp (e.1.2 / 8 * 4096) with | some a => a.pkg == pkg && e.2.1 / 4096 == frame | none => false)) ||
    (s.stageTiles.any fun t => t.1.1 == c && t.2.farlog.any fun l => l.lines.any fun x => x / 64 == f) ||
    (s.stages.any fun g => g.1.1 == c && g.2.farLeft.any fun l => l.lines.any fun x => x / 64 == f) ||
    (s.strands.any fun x => x.1.cor == c && ((x.2.held.any fun h => op h.2) || x.2.released.any op ||
      x.2.windows.any fun w => match w.read with | some r => r.pa / 4096 == f | none => false)) ||
    (s.atomics.any fun a => a.id.cor == c && a.pa / 4096 == f) ||
    (s.fabric.open_.any fun t => t.pkg == pkg && t.use != .release && t.va / 4096 == frame)

/-- Frames of peers that nothing of a corridor uses any more are given back (R351). -/
def State.releaseFrames (s : State) : State :=
  s.fabric.holding.foldl (fun s h =>
    if s.usesFrame h.1 h.2.1 h.2.2 then s
    else
      let t := s.onFabric fun f => { f with holding := f.holding.filter (· != h) }
      if t.fabric.holding.any fun q => q.2 == h.2 then t
      else (t.openTrans h.2.1 .probe 0 (4096 * h.2.2) 0 16 [] .release).getD s) s

/-- Forwards of a key are under way. -/
def State.forwarding (s : State) (key : Nat × Nat × Nat) : Bool :=
  s.fabric.open_.any fun t => match t.use with | .forward k => k == key | _ => false

/-- What this package holds of a stage's far writes is written, and every forward of it has landed (R60, R74). -/
def State.farClear (s : State) (c st : Nat) : Bool :=
  (s.stage c st).farLeft.isEmpty && s.dies.toList.all (fun d => d.directory.all fun r => r.due.isEmpty) && s.drainsAnswered c st &&
    !s.forwarding (s.fabric.pkg, c, st)

/-- Phases 8 and 9 of a commit, once every tile of the stage has drained. -/
def State.phases89 (s : State) (c st : Nat) : State :=
  let g := s.stage c st
  let vts := s.stageVts c st
  let ids := s.stageIds c st
  let ends := !g.cont
  let result := ids.any fun id => match (s.strand id).arrival with | some a => a.kind == .finRed | none => false
  let s := (if s.standingBut c st then s.changeCircuits else s).passBarrier c fun d => (s.cor d).live
  let s := vts.foldl (fun s vt => s.commitSeq c st vt) s
  let s := ids.foldl (State.resumeStrand · g ·) s
  let s := vts.foldl (fun s vt =>
    s.setStageTile c vt st { s.stageTile c vt st with
      reported := false, voteCast := false, decided := none, settled := false, later := none
      tileCause := (s.stageTile c vt st).later }) s
  let clear := s.farClear c st && !s.spread c
  let s := s.setStage c st { g with
    mm := g.mm + 1, phase := if ends then .ended else if (s.cor c).draining then .stopped else s.firstPhase c st
    decision := none, agn := 0, counted := 0, summary := 0, firstCause := none, lanes := none, redOvf := false
    resultDue := if result then g.lanes else g.resultDue, farDone := clear, guarded := false, ended := ends, cont := false
    causes := [], serviced := false, refetched := false, charged := [], chargedNow := [], run := 0, resumed := false
    children := g.laterMessages true }
  let s := s.noteWatermarks c st
  let k := s.cor c
  let s := if k.guardClass.isSome && (List.range k.image.stages).all fun t => (s.stage c t).ended || !(s.stage c t).guarded then
      s.setCor c { k with guardClass := none }
    else s
  let s := vts.foldl (fun s vt =>
    if ends then s.applyArrived c vt st else s.startNotices c vt st) s
  let s := ids.foldl State.haltPending ((s.updateMarks c).dropProbes c).releaseFrames
  match ends, (s.cor c).struckBy with
  | false, some cls => s.strike c st cls
  | _, _ => s

/-- A commit that has been decided begins to be applied, if it has not. -/
def State.beginApply (s : State) (c st : Nat) : State :=
  if (s.stage c st).phase = .apply then s
  else s.onStage c st fun g => { g with phase := .apply, farDone := false, farReady := !s.spread c }

/-- The commits of a corridor that have been decided are carried out to their end. -/
def State.finishDecided (s : State) (c : Nat) : State :=
  (List.range (s.cor c).image.stages).foldl (fun s st =>
    if (s.stage c st).decision = some true then
      let s := s.beginApply c st
      let s := (s.stageVts c st).foldl (fun s vt => if (s.stageTile c vt st).settled then s else s.drainTile c st vt) s
      s.phases89 c st
    else s) s

/-- A corridor halts with a cause; a commit that has been decided is completed first (R325, R333).  The packages that hold
other planes of it are told before its completion is posted. -/
def State.haltNow (s : State) (c st : Nat) (cause : BitVec 8) (vt : Nat) (mm : Word) : State :=
  (s.finishDecided c).haltCorridor c st cause vt mm

/-- The end of a commit; an uncorrectable error in its drain halts the corridor (R367). -/
def State.finishCommit (s : State) (c st : Nat) : State :=
  let g := s.stage c st
  let failed := (s.stageVts c st).filter fun vt => (s.stageTile c vt st).tileCause.isSome
  let s := s.phases89 c st
  match failed with
  | vt :: _ => s.haltNow c st cECC vt (g.mm + 1)
  | [] => s

/-- The stage's commit is being applied. -/
def Stage.applies (g : Stage) : Bool := g.phase == .apply && g.decision == some true

/-- Every tile of a stage on this package has drained or dropped what it holds. -/
def State.allSettled (s : State) (c st : Nat) : Bool := (s.stageVts c st).all fun v => (s.stageTile c v st).settled

/-- Some tile whose logs hold a line has no path to its home. -/
def State.cutOff (s : State) (c st line : Nat) : Bool :=
  (s.stage c st).farLeft.any fun f => f.lines.contains line && s.onPackage c f.vt && !s.reaches (s.phys c f.vt) (64 * line)

/-- Some line of a stage's logs has no path to its home. -/
def State.anyCutOff (s : State) (c st : Nat) : Bool :=
  ((s.stage c st).farLeft.flatMap FarLog.lines).any fun l => (peerOf (64 * l)).isNone && s.cutOff c st l

/-- Every far-store-log entry of the commit has been accepted by its home controller: what other packages write or home has
been handed over, and no line waits for a path (R60). -/
def State.farAccepted (s : State) (c st : Nat) : Bool :=
  let g := s.stage c st
  g.farReady && s.drainsAnswered c st &&
    (g.farLeft.flatMap FarLog.lines).all fun l => (peerOf (64 * l)).isNone && !s.cutOff c st l

/-- `COMMIT_DRAIN` (R24, R54, R60): a tile applies what it holds; once every tile of the stage has and the home controllers have
accepted the far writes, the commit is complete for tile memory and the strands resume.  A line without a path to its home waits for
a circuit, which the depot assigns where it can (R348). -/
def execCommitDrain (c st vt : Nat) (s : State) : Out :=
  .next (if !(s.stage c st).applies then s
    else
      let s := if (s.stageVts c st).contains vt && !(s.stageTile c vt st).settled then s.drainTile c st vt else s
      let s := if s.allSettled c st && s.anyCutOff c st then (s.relight c st).getD s else s
      s.meet c st 6 (s.allSettled c st && s.farAccepted c st) fun t => t.finishCommit c st)

/-! ### The far drain (R55, R56, R60, R74) -/

/-- The bytes of a line that logs hold, the later winning. -/
def lineBytesOf (l : List FarLog) (line : Nat) : Overlay := layAll (l.map fun f => cellsIn f.bytes (64 * line) 64)

/-- What a line's cells get added, one sum for each cell (R56). -/
def lineCells (l : List FarLog) (line : Nat) : KMap Nat (BitVec 128) :=
  (l.flatMap fun f => f.cells.filter fun p => decide (p.1 / 64 = line)).foldl (fun m p =>
    KMap.set m p.1 (KMap.getD m p.1 0 + p.2)) []

/-- The 8-byte words of a line that some log writes with an uncorrectable error (R367). -/
def spoiledWords (l : List FarLog) (line : Nat) : List Nat :=
  (l.filter fun f => f.bad.contains line).flatMap fun f =>
    wordsIn f.bytes line ++ ((f.cells.filter fun p => decide (p.1 / 64 = line)).flatMap fun p => [p.1, p.1 + 8])

/-- Logs without what those of one commit hold of a line; those that hold nothing more leave. -/
def withoutLine (l : List FarLog) (mm : Word) (line : Nat) : List FarLog :=
  (l.map fun f => if f.mm ≠ mm then f else { f with
    bytes := f.bytes.filter fun p => decide (p.1 / 64 ≠ line), cells := f.cells.filter fun p => decide (p.1 / 64 ≠ line) }).filter
    fun f => !(f.bytes.isEmpty && f.cells.isEmpty)

/-- The oldest commit that has entries on a line: those of a later one make an event of their own (R55, R56). -/
def oldestOn (l : List FarLog) (line : Nat) : Word := (((orderedLogs l).find? fun f => f.lines.contains line).map FarLog.mm).getD 0

/-- Lays bytes over far memory. -/
def State.farApply (s : State) (o : Overlay) : State :=
  { s with far := { s.far with
      mem := Mem.apply s.far.mem o, poison := s.far.poison.filter fun w => !wholeWord o w
      faulty := rewriteLines s.far.faulty fun l => o.lines.contains l } }

/-- Adds to an accumulation cell, modulo 2^128 (R56). -/
def State.addCell (s : State) (p : Nat × BitVec 128) : State :=
  s.farWrite p.1 (leBytes 16 (Mem.load s.far.mem p.1 16 + p.2.toNat))

/-- Far words that a failing entry has written report an uncorrectable error from now on (R367). -/
def State.poisonFar (s : State) (ws : List Nat) : State :=
  if ws.isEmpty then s else { s with far := { s.far with poison := distinct (s.far.poison ++ ws) } }

/-- The drained line is due in every staged copy of its frame (R74). -/
def State.oweForwards (s : State) (line : Nat) : State :=
  { s with dies := s.dies.map fun d => { d with directory := d.directory.map fun r =>
      if r.frame = line / 64 then { r with due := r.due ++ [line] } else r } }

/-- A drained line is forwarded to the packages that hold staged copies of its frame, under the key of the request that
waits for them, or that of this package with the corridor and stage; none where a link is not free (R74). -/
def State.forwardAway (s : State) (line : Nat) (key : Nat × Nat × Nat) : Option State :=
  (s.fabric.registered.filter fun r => r.2 == line / 64).foldl (fun acc r =>
    acc.bind fun s => s.openTrans r.1 .drain 0 (64 * line) 64 2 (s.farRead (64 * line) 64) (.forward key)) (some s)

/-- The data of a DRAIN request: 8 bytes of mask and the line's 64 bytes, then the words that carry an error as a mask; the
spec gives no layout (assumption 18). -/
def drainData (o : Overlay) (line : Nat) (bad : List Nat) : List Byte :=
  let at_ (i : Nat) : Option Byte := cellAt o (64 * line + i)
  leBytes 8 (((List.range 64).map fun i => if (at_ i).isSome then 2 ^ i else 0).sum) ++
    (List.range 64).map (fun i => (at_ i).getD 0) ++
    leBytes 1 ((bad.map fun w => 2 ^ (w % 64 / 8)).sum)

/-- Logs restricted to a line. -/
def onLine (l : List FarLog) (line : Nat) : List FarLog :=
  (l.map fun f => { f with
    bytes := f.bytes.filter fun p => decide (p.1 / 64 = line), cells := f.cells.filter fun p => decide (p.1 / 64 = line)
    bad := f.bad.filter fun b => b == line }).filter fun f => !(f.bytes.isEmpty && f.cells.isEmpty)

/-- The parts of a line's logs as they go to the package that writes the line: stage, then for each its superstep and key,
its bytes and its cells by place in the line. -/
def logData (st : Nat) (l : List FarLog) : List Byte :=
  leBytes 1 st ++ l.flatMap fun f =>
    leBytes 8 f.mm.toNat ++ leBytes 4 f.vt ++ leBytes 1 f.slot ++ leBytes 8 f.seq ++
      leBytes 1 (if f.bad.isEmpty then 0 else 1) ++ leBytes 1 f.bytes.length ++ leBytes 1 f.cells.length ++
      f.bytes.flatMap (fun p => leBytes 1 (p.1 % 64) ++ [p.2]) ++
      f.cells.flatMap (fun p => leBytes 1 (p.1 % 64) ++ leBytes 16 p.2.toNat)

/-- The logs that such data stands for, of a line; the first number bounds them. -/
def logsOf (line : Nat) : Nat → List Byte → List FarLog
  | 0, _ => []
  | n + 1, b =>
    if b.length < 24 then []
    else
      let f (o n : Nat) : Nat := recordField b o n
      let nb := f 22 1
      let nc := f 23 1
      let rest := b.drop (24 + 2 * nb + 17 * nc)
      { mm := BitVec.ofNat 64 (f 0 8), vt := f 8 4, slot := f 12 1, seq := f 13 8
        bytes := (List.range nb).map fun i => (64 * line + f (24 + 2 * i) 1, BitVec.ofNat 8 (f (25 + 2 * i) 1))
        cells := (List.range nc).map fun i => (64 * line + f (24 + 2 * nb + 17 * i) 1, BitVec.ofNat 128 (f (25 + 2 * nb + 17 * i) 16))
        bad := if f 21 1 = 1 then [line] else [] } :: logsOf line n rest

/-- The package that writes a line for a corridor: its home, or where no plane of the corridor lies there the first of its
packages, which hands it on as one request.  So one line gets one event of a commit, whatever the packages of the
entries (R55, R56). -/
def State.writerOf (s : State) (c line : Nat) : Nat :=
  match peerOf (64 * line) with
  | none => s.fabric.pkg
  | some p => if (s.ranks c).contains p then p else (s.ranks c).headD s.fabric.pkg

/-- Whether this package writes a line. -/
def State.writesLine (s : State) (c line : Nat) : Bool := !s.spread c || s.writerOf c line == s.fabric.pkg

/-- The first line of a stage's logs that can go out now: not before the whole of a commit has come to the logs, nor while there is
no path to a home on this package (R348). -/
def State.nextLine (s : State) (c st : Nat) : Option Nat :=
  let g := s.stage c st
  if g.applies && !s.allSettled c st then none
  else
    (g.farLeft.flatMap FarLog.lines).find? fun l =>
      if g.farReady then s.writesLine c l && ((peerOf (64 * l)).isSome || !s.cutOff c st l) else !s.writesLine c l

/-- `FAR_DRAIN_ENTRY` (R55, R56): the first line that a stage's logs still hold is written as one event of the oldest commit that
has entries on it, bytes first, then accumulates; each sender slot's part of it is one line request (R44).  Of a corridor on
several packages the parts first go to the package that writes the line. -/
def execFarDrainEntry (c st : Nat) (s : State) : Out :=
  let g := s.stage c st
  .next (match s.nextLine c st with
    | none => s
    | some line =>
      let m := oldestOn g.farLeft line
      let l := g.farLeft.filter fun f => f.mm == m
      let o := lineBytesOf l line
      let cs := lineCells l line
      let bad := spoiledWords l line
      let s' := (s.setStage c st { g with farLeft := withoutLine g.farLeft m line }).noteWatermarks c st
      let parts := distinct ((l.filter fun f => f.lines.contains line && s.onPackage c f.vt).map fun f => (f.vt, f.slot))
      let s' := parts.foldl (fun s p => s.noteLines (s.phys c p.1) (64 * line) 64) s'
      if !g.farReady then
        let w := s.writerOf c line
        let va := 64 * line - (if peerOf (64 * line) = some w then peerPa w 0 else 0)
        let b := logData st (onLine l line)
        (s'.openTrans w .drain c va b.length 3 b (.drain c st)).getD s
      else
        match peerOf (64 * line) with
        | none =>
          ((cs.foldl State.addCell (s'.farApply o)).poisonFar bad).oweForwards line |>.forwardAway line (s.fabric.pkg, c, st)
            |>.getD s
        | some pkg =>
          let va := 64 * line % paSpan
          let t := if o.isEmpty then some s'
            else s'.openTrans pkg .drain 0 va 64 0 (drainData o line bad) (.drain c st)
          (t.bind fun t =>
            if cs.isEmpty then some t else t.openTrans pkg .drain 0 va 64 1 (cellData (64 * line) cs bad) (.drain c st)).getD s)

/-- The cross-stage data that a stage sent from this package has landed. -/
def State.crossLanded (s : State) (c st : Nat) : Bool :=
  !(s.travelling.any fun t => t.cor == c && t.stage == st) &&
    !(s.fabric.open_.any fun t => match t.use with | .cross d e => d == c && e == st | _ => false)

/-- `COMMIT_FAR_COMPLETE` (R60, R62, R74): every entry is written and every forward has landed, on every package that the
corridor spans; of such a corridor the event also finds where the parts of all have been handed over, while the commit is still
being applied, and where the cross-stage data of the commits has landed everywhere (R59, R293). -/
def execCommitFarComplete (c st : Nat) (s : State) : Out :=
  let g := s.stage c st
  let s := if !g.farReady then
      s.meet c st 10 (!(g.applies && !s.allSettled c st) && (s.nextLine c st).isNone && s.drainsAnswered c st) fun t =>
        t.onStage c st fun g => { g with farReady := true }
    else if !g.farDone && !g.applies then
      s.meet c st 12 (s.farClear c st) fun t => (t.onStage c st fun g => { g with farDone := true }).releaseFrames
    else s
  .next (if s.spread c && g.crossDone != g.mm then
      s.meet c st 14 (s.crossLanded c st) fun t => (t.onStage c st fun g => { g with crossDone := g.mm }).updateMarks c
    else s)

/-! ### Released operations (R62 to R65) -/

/-- The 8-byte words of a far range. -/
def wordsAt (pa n : Nat) : List Nat := (List.range ((pa + n + 7) / 8 - pa / 8)).map fun i => 8 * (pa / 8 + i)

/-- The words that an operation leaves poisoned: those that it writes, where its entry failed (R367). -/
def HeldOp.badWords (h : HeldOp) (pa n : Nat) : List Nat := if h.isSpoiled then wordsAt pa n else []

/-- `HELD_OP_RELEASE` (R62): the next operation of a strand, once its commit is complete for far memory and the one
before has been performed or handed to its link; it waits for a path to its home (R348). -/
def execHeldOpRelease (id : StrandId) (s : State) : Out :=
  let x := s.strand id
  .next (if !(s.stage id.cor x.stage).farDone || x.inflight != 0 || s.atomics.any (fun a => decide (a.id = id)) then s
    else
      match x.released with
      | [] => s
      | h :: r =>
        let t := s.setStrand id { x with released := r }
        match h.bare with
        | .store pa bs =>
          match peerOf pa with
          | none => if s.reaches (s.phys id.cor id.vt) pa then (t.farWrite pa bs).poisonFar (h.badWords pa bs.length) else s
          | some pkg =>
            match t.openTrans pkg .wr 0 (pa % paSpan) bs.length (if h.isSpoiled then 2 else 0) bs (.store id) with
            | some u => u.onStrand id fun y => { y with inflight := y.inflight + 1 }
            | none => s
        | .amo pa size op operand compare tag =>
          { t with atomics := t.atomics ++ [⟨id, pa, size, op, operand, compare, tag, h.isSpoiled⟩] }
        | .send q bs => t.sendMessage id q bs
        | .spoiled _ => t)

/-- The old value and the new memory of an atomic at its home controller (R64, R177). -/
def State.atomicAt (s : State) (pa size : Nat) (op : BitVec 5) (operand compare : Word) : State × Word :=
  let w := 8 * size
  let old := Mem.load s.far.mem pa size
  let b := operand.toNat % 2 ^ w
  let cmp := compare.toNat % 2 ^ w
  let new := atomicNew op w old b cmp
  (if atomicWrites op old new cmp then s.farWrite pa (leBytes size new) else s, BitVec.ofNat 64 old)

/-- `ATOMIC_EXECUTE` (R64): the nth request is performed, one line request (R44); one for a peer leaves in a transaction. -/
def execAtomicExecute (n : Nat) (s : State) : Out :=
  .next (match s.atomics[n]? with
    | none => s
    | some a =>
      let p := s.phys a.id.cor a.id.vt
      let t := State.noteLines { s with atomics := listRemove s.atomics n } p a.pa a.size
      match peerOf a.pa with
      | none =>
        if !s.reaches p a.pa then s
        else
          let r := t.atomicAt a.pa a.size a.op a.operand a.compare
          ({ r.1 with amoResults := r.1.amoResults ++ [⟨a.id, a.tag, 0, r.2⟩] } : State).poisonFar (if a.bad then wordsAt a.pa a.size else [])
      | some pkg =>
        match t.openTrans pkg .amo 0 (a.pa % paSpan) a.size a.op (leBytes 8 a.operand.toNat ++ leBytes 8 a.compare.toNat ++
            if a.bad then [1] else []) (.amo a.id a.tag) with
        | some u => u.onStrand a.id fun y => { y with inflight := y.inflight + 1 }
        | none => s)

/-- `AMOI_RESULT` (R63): the oldest result for a strand is posted. -/
def execAmoiResult (id : StrandId) (s : State) : Out :=
  .next (match s.amoResults.find? fun r => decide (r.id = id) with
    | none => s
    | some r =>
      let t := { s with amoResults := s.amoResults.erase r }
      (t.onStrand id fun x => x.postMail r.tag r.status 2 r.value).saveMail id)

/-! ### Cross-stage delivery (R58, R99) -/

/-- The entries of a tile's cross-stage inbound area in use. -/
def StageTile.crossUsed (x : StageTile) : Nat :=
  entryCount (x.crossIn.map fun d => ((d.stage, d.mm, d.vt, d.slot), d.bytes.lines))

/-- `CROSS_STAGE_DELIVERY` (R58): the nth cross-stage write under way arrives where its area has room; with the receiver
stage ended it is applied as it arrives. -/
def execCrossStageDelivery (n : Nat) (s : State) : Out :=
  .next (match s.travelling[n]? with
    | none => s
    | some w =>
      let t := { s with travelling := listRemove s.travelling n }
      if !s.onPackage w.cor w.target then
        match t.openTrans (t.homePackage w.cor w.target) .wr w.cor (tspaceVa w.target 0) w.bytes.length 0
            (wireBytes w.vt w.slot w.seq w.mm 0 w.stage 2 w.bytes.length w.bytes w.bad) (.cross w.cor w.stage) with
        | some u => u.updateMarks w.cor
        | none => s
      else if !s.joined (s.phys w.cor w.vt / 144) (s.phys w.cor w.target / 144) then s
      else
        let r := (s.cor w.cor).image.receiver w.target
        let x := s.stageTile w.cor w.target r
        let y := { x with crossIn := x.crossIn ++ [⟨w.stage, w.mm, w.vt, w.slot, w.seq, w.bytes, w.bad⟩] }
        if (s.stage w.cor r).ended then
          ((t.commitBytes w.cor w.target w.bytes).poisonTile (s.phys w.cor w.target) w.bad).updateMarks w.cor
        else if y.crossUsed ≤ s.crossShare w.cor w.target then (t.setStageTile w.cor w.target r y).updateMarks w.cor
        else s)

/-! ### Results and completion (R66, R289, R315) -/

/-- A failed result write halts the corridor, with a trap record (R289). -/
def State.resultFailed (s : State) (c st : Nat) (cause : BitVec 8) (va : Nat) : State :=
  let g := s.stage c st
  let vt := (s.cor c).image.lowest st
  let s := s.setStage c st { g with resultDue := none }
  let s := s.logTrap c st { tileTrap vt cause (BitVec.ofNat 64 va) false true with slot := 0 } g.mm g.agn false
  s.haltNow c st cause vt g.mm

/-- `RESULT_AREA_WRITE` (R289). -/
def execResultAreaWrite (c st : Nat) (s : State) : Out :=
  let g := s.stage c st
  let k := s.cor c
  let base := bits (k.word 5) 47 0
  .next (match g.resultDue with
    | none => s
    | some lanes =>
      if base = 0 then s.setStage c st { g with resultDue := none }
      else if !g.farDone || s.askOpen c st then s
      else
        let va := base + 256 * st
        let done (t : State) : State := (t.dropAsks c st).onStage c st fun g => { g with resultDue := none }
        match s.deviceAt k.pasid k.ctx va ⟨false, true, false⟩ with
        | .bad f =>
          if f.cause = cTXF then
            match (s.dropAsks c st).askPage c st (k.image.lowest st) va true with
            | some t => t.forgetProbe k.pasid va
            | none => s.resultFailed c st cTXF va
          else s.resultFailed c st cPROT va
        | .probe a => s.askProbe a k.pasid va ⟨false, true, false⟩
        | .at_ pa cls =>
          if cls = 2 then s.resultFailed c st cPROT va
          else
            match peerOf pa with
            | none => done (s.farWrite pa (wordBytes lanes))
            | some pkg =>
              ((s.openTrans pkg .wr 0 (pa % paSpan) 256 0 (wordBytes lanes) (.drain c st)).map done).getD s)

/-- Nothing that a corridor sent or owes is outstanding on this package (R66). -/
def State.corridorQuiet (s : State) (c : Nat) : Bool :=
  let k := s.cor c
  (List.range k.image.stages).all (fun st =>
    let g := s.stage c st
    s.nothingUnderWay c st && g.farDone && g.farLeft.isEmpty) && !s.owesWrite c &&
    !(s.fabric.open_.any fun t => match t.use with | .delta d _ _ => d == c | _ => false)

/-- The corridor leaves the package: strands, stages' tile parts, host questions, and what is known of its planes on other
packages (R318). -/
def State.dropCorridor (s : State) (c : Nat) : State :=
  let k := s.cor c
  let s := s.onHost fun h => { h with
    faults := h.faults.filter fun r => r.cor != c, pageRequests := h.pageRequests.filter fun r => r.cor != c }
  { s with
    strands := s.strands.filter fun p => p.1.cor != c
    stageTiles := s.stageTiles.filter fun p => p.1.1 != c
    vtiles := s.vtiles.filter fun p => p.1.1 != c
    amoResults := s.amoResults.filter fun r => r.id.cor != c
    fabric := { s.fabric with planes := s.fabric.planes.filter fun p => !(p.1.1 == k.group && p.1.2.1 == c) } }

/-- The completion that a corridor has come to: its last stage's when every stage has ended, else the one recorded. -/
def State.ending (s : State) (c : Nat) : Option (List Word) :=
  let k := s.cor c
  match k.completion with
  | some w => some w
  | none =>
    if (k.state = .running ∨ k.state = .stopping) && decide (0 < k.image.stages) &&
        (List.range k.image.stages).all (fun st => (s.stage c st).ended && (s.stage c st).resultDue.isNone) then
      some (completionWords 0 0 (k.image.stages - 1) 0 (s.stage c (k.image.stages - 1)).mm)
    else none

/-- The state of a corridor whose completion has been posted. -/
def CorState.finished : CorState → CorState
  | .running => .ended
  | .stopping => .ended
  | t => t

/-- The lowest mile marker among a corridor's stages. -/
def State.lowestMark (s : State) (c : Nat) : Word :=
  let l := (List.range (s.cor c).image.stages).map fun st => (s.stage c st).mm.toNat
  BitVec.ofNat 64 (l.foldl min (l.headD 0))

/-- A completion is posted at the completion_va that a record names, under its own queue's address space (R309, R315). -/
def State.postFor (s : State) (t : Taken) (done : List Word) : State :=
  s.postCompletion t.queue t.pasid t.ctx (bits (t.words.getD 6 0) 47 0) done

/-- A request record is reported done (R309). -/
def State.reportRecord (s : State) (c : Nat) (t : Taken) : State :=
  s.postFor t (completionWords 4 0 0 0 (s.lowestMark c))

/-- The requests that a corridor's end makes void are reported done (R325). -/
def State.voidRequests (s : State) (c : Nat) : State :=
  (s.cor c).requests.foldl (fun s r => match r.record with | none => s | some t => s.reportRecord c t) s

/-- A resume that the corridor's end overtook is refused: its target is not swapped out any more (R325). -/
def State.refuseResumes (s : State) (c : Nat) : State :=
  let s' := (s.cor c).resumeReqs.foldl (fun s t => s.postFor t (completionWords 2 0x0B 0 0 0)) s
  s'.setCor c { s'.cor c with resumeReqs := [] }

/-- A unit staged by a corridor's last commits, from this package's memory, has not landed (R52). -/
def State.fillsOwed (s : State) (c : Nat) : Bool :=
  s.stageTiles.any fun p => p.1.1 == c && p.2.staged.any fun u =>
    match u.st with
    | .fetched _ _ => true
    | .queued =>
      (match s.farAt c (s.phys c p.1.2.1) u.va ⟨true, false, true⟩ with
       | .at_ pa cls => cls != 1 && (peerOf pa).isNone
       | _ => false)
    | _ => false

/-- A corridor that has halted on this package tells the packages that hold its other planes, once; none while a link to
them is not free. -/
def State.tellHalt (s : State) (c : Nat) (w : List Word) : Option State :=
  let k := s.cor c
  let w0 := w.headD 0
  let j : Junc := { s.plain c 0 34 with
    mm := w.getD 1 0, pending := bits w0 19 16, cause := some (tileTrap (bits w0 47 32) (BitVec.ofNat 8 (bits w0 15 8)) 0 false false) }
  if k.state = .halted && s.spread c && !s.told c 0 j then s.tell c 0 j ((s.parent c).toList ++ s.children c) else some s

/-- The corridor's completion is posted and it leaves the package. -/
def State.complete_ (s : State) (c : Nat) (w : List Word) : State :=
  let k := s.cor c
  let s := (s.voidRequests c).refuseResumes c
  let s := s.postCompletion k.queue k.pasid k.ctx (bits (k.word 6) 47 0) w
  let s := s.dropCorridor c
  let s := s.setCor c { s.cor c with state := CorState.finished k.state, completion := none, requests := [] }
  (s.passBarrier c fun d => (s.cor d).live).releaseFrames

/-- `CORRIDOR_COMPLETION` (R315, R66): a corridor that ends of itself first receives the fills of its last commits, and what
it sent has landed on every package it spans. -/
def execCorridorCompletion (c : Nat) (s : State) : Out :=
  .next (match s.ending c with
    | none => s
    | some w =>
      match s.tellHalt c w with
      | none => s
      | some s =>
        if (s.cor c).completion.isSome then (if s.corridorQuiet c then s.complete_ c w else s)
        else s.meet c 0 16 (s.corridorQuiet c && !s.fillsOwed c) fun t => t.complete_ c w)

end Sys2Proof.Machine
end

