-- ==== Sys2Proof/Machine/EvAbort.lean ====
section
/-! DEFINITION. Events of an abort: the early decision, rollback, the service of causes, rerun or halt (R310, R330 to R336). -/

namespace Sys2Proof.Machine

/-- A cause that aborts at once: not that of `vote`; while the debugger holds the corridor only the trap of a strand that steps
or is struck by a pre-emption, what its tiles record waiting for the resumption (R325, R330, R343, R345). -/
def State.earlyCause (s : State) (c st : Nat) : Bool :=
  if (s.cor c).haltedBy then (s.stageIds c st).any fun id => (s.strand id).cause.isSome && (s.strand id).status == .trapped
  else
    ((s.stageIds c st).any fun id => (s.strand id).cause.isSome) ||
      ((s.stageVts c st).any fun vt => (s.stageTile c vt st).tileCause.isSome) || (s.peerAbort c st).isSome

/-- The stage has no decision yet. -/
def Stage.undecided (g : Stage) : Bool :=
  match g.phase with | .compute => true | .quiesce => true | .horizon => true | .vote => true | _ => false

/-- A junction that has passed its vote up leaves the decision to the root: a new cause changes its vote. -/
def State.hasVoted (s : State) (c st : Nat) : Bool := (s.stage c st).phase == .vote && (s.parent c).isSome

/-- `EARLY_ABORT` (R330, R331): the decision becomes abort at once; the junctions above and below are told, with what other
packages have recorded taken in (R329). -/
def execEarlyAbort (c st : Nat) (s : State) : Out :=
  let g := s.stage c st
  .next (if g.undecided && s.earlyCause c st && !s.hasVoted c st then
      let own := s.causes c st
      let l := s.peerAborts c st
      let j : Junc := { s.plain c st 2 with
        cause := TrapInfo.first (firstCause own) (firstCause (l.filterMap Junc.cause))
        summary := l.foldl (fun a j => a ||| j.summary) (summaryOf own) }
      match (s.tell c st { j with kind := 3 } (s.children c)).bind fun s => s.tell c st j (s.parent c).toList with
      | none => s
      | some s => s.onStage c st fun g =>
          { g with decision := some false, phase := .decided, firstCause := j.cause, summary := j.summary, causes := own }
    else s)

/-! ### Rollback (R335, R336) -/

/-- The sequencer context as the last commit left it (R279). -/
def State.rollSeq (s : State) (c st vt : Nat) : State :=
  let v := s.vtile c vt
  if v.seq.bound ≠ some st then s
  else
    let live := (s.strandIds c vt st).any fun id =>
      let b := s.readRecord id
      (s.strand id).status != .ended && bit (BitVec.ofNat 64 (recordField b 0x20 8)) 0 && Live.q (recordField b 0x10 16)
    if live then s.restoreSeq c vt else s.setVtile c vt { v with seq := { SeqCtx.reset with bound := some st } }

/-- A tile drops what the run held (steps 1 to 3 of R335). -/
def State.emptyTile (s : State) (c st vt : Nat) : State :=
  let s := s.discardTile c vt st
  let s := bumpCounter s (s.phys c vt / 144) 6 1
  s.setStageTile c vt st { s.stageTile c vt st with settled := true }

/-- A tile's registers, control blocks and sequencer context are restored (step 5 of R335). -/
def State.restoreTile (s : State) (c st vt : Nat) : State :=
  let s := (s.strandIds c vt st).foldl (fun s id =>
    let x := s.strand id
    if x.status = .ended then s else s.setStrand id (x.restored_ (s.readRecord id))) s
  s.rollSeq c st vt

/-- Bytes that a tile sent in an aborted run are still on their way (R330). -/
def State.sending (s : State) (c st vt : Nat) : Bool :=
  !(s.stageTile c vt st).outbound.isEmpty ||
    s.fabric.open_.any fun t => match t.use with | .delta d e v => d == c && e == st && v == vt | _ => false

/-- The oldest bytes that a tile sent in an aborted run have no path, and no circuit is on its way to giving them one (R330,
R348). -/
def State.cutTile (s : State) (c st vt : Nat) : Bool :=
  match (s.stageTile c vt st).outbound with
  | [] => false
  | w :: _ => s.onPackage c w.target && !s.joined (s.phys c vt / 144) (s.phys c w.target / 144) &&
      s.darkPairs.any fun p => !s.lightway.promised p

/-- A path that an aborted run's bytes need cannot be restored: the corridor halts with LINK, after the record of the run's first
cause (R330, R334). -/
def State.pathLost (s : State) (c st : Nat) : State :=
  let g := s.stage c st
  let s := match g.firstCause with | some t => s.logTrap c st t g.mm g.agn false | none => s
  s.haltNow c st cLINK ((s.cor c).image.lowest st) g.mm

/-- `ROLLBACK` (R330, R335): a tile drops what it holds once what it sent has been taken and dropped by its receivers; once
every tile of the stage has, the causes are serviced.  Bytes without a path wait for a circuit (R348). -/
def execRollback (c st vt : Nat) (s : State) : Out :=
  let x := s.stageTile c vt st
  .next (if (s.stage c st).phase ≠ .apply || (s.stage c st).decision != some false then s
    else if s.cutTile c st vt then
      match s.relight c st with
      | some t => t
      | none => s.pathLost c st
    else
      let s := if (s.stageVts c st).contains vt && !x.settled && !s.sending c st vt then s.emptyTile c st vt else s
      s.meet c st 6 ((s.stageVts c st).all fun v => (s.stageTile c v st).settled) fun t =>
        t.onStage c st fun g => { g with phase := .service, serviced := false })

/-! ### Service, rerun, halt (R310, R332 to R334) -/

/-- The policy of a cause reruns the superstep (R310). -/
def Corridor.reruns (k : Corridor) (c : BitVec 8) : Bool :=
  c == cPREEMPT || (c != cMILESTONE && c != cREPEAT_ABORT && bit k.policy c.toNat)

/-- The corridor halts on a cause, its trap record written. -/
def State.haltOn (s : State) (c st : Nat) (t : TrapInfo) (cause : BitVec 8) : State :=
  let g := s.stage c st
  (s.logTrap c st t g.mm g.agn false).haltNow c st cause t.vt g.mm

/-- The page that the service of a cause asks the host for: that of a TXF, or the unit of a STAGE_FAULT, where it still
does not translate. -/
def State.wanted (s : State) (c : Nat) (t : TrapInfo) : Option Nat :=
  if t.cause = cTXF ∨ t.cause = cSTAGE_FAULT then
    let va := t.page.getD (bits t.addr 47 0)
    let wr := t.wr && t.cause == cTXF
    match s.farAt c (s.phys c t.vt) va ⟨!wr, wr, true⟩ with
    | .bad f => if f.cause = cTXF then some va else none
    | _ => none
  else none

/-- The services of an aborted run begin; none where one cannot.  That of LINK gives pairs of dies in the dark a circuit
again (R332, R348), and fails where none can be spared. -/
def State.beginService (s : State) (c st : Nat) : Option State :=
  (s.stage c st).causes.foldl (fun acc t => acc.bind fun s =>
    if t.cause = cLINK then s.relight c st
    else
      match s.wanted c t with
      | some va => s.askPage c st t.vt va (t.wr && t.cause == cTXF)
      | none => some s) (some s)

/-- The run was aborted by LINK, among others. -/
def Stage.linkFailed (g : Stage) : Bool := g.causes.any fun t => t.cause == cLINK

/-- A service of a stage has not ended: a page is asked for, or after LINK a path is still being retrained or retuned, or waits
to be. -/
def State.servicing (s : State) (c st : Nat) : Bool :=
  s.askOpen c st || ((s.stage c st).linkFailed && (s.retraining || s.dark))

/-- The service of a cause has failed: the corridor halts with that cause, after the record of the run's first (R332,
R410; assumption 29). -/
def State.serviceFailed (s : State) (c st : Nat) (first : TrapInfo) (bad : Option TrapInfo) : State :=
  let g := s.stage c st
  let b := bad.getD first
  (s.logTrap c st first g.mm g.agn false).haltNow c st b.cause b.vt g.mm

/-- An immediate pre-emption struck the run: the stage stops after it. -/
def State.struck (s : State) (c st : Nat) : Bool :=
  ((s.cor c).requests.any fun r => r.immediate) && (s.stage c st).causes.any fun t => t.cause == cPREEMPT

/-- A marked unit is to be fetched again (R75). -/
def FetchUnit.refetch (u : FetchUnit) : FetchUnit := { u with st := match u.st with | .marked _ => .queued | t => t }

/-- The stager is to fetch every marked unit of the aborted superstep again (R75, R332). -/
def State.refetch (s : State) (c st : Nat) : State :=
  ((s.stageVts c st).foldl (fun s vt =>
    let x := s.stageTile c vt st
    s.setStageTile c vt st { x with staged := x.staged.map FetchUnit.refetch }) s).onStage c st fun g => { g with refetched := true }

/-- Some unit staged for the superstep that runs again has still to be fetched. -/
def State.unfetched (s : State) (c st : Nat) : Bool :=
  (s.stageVts c st).any fun vt => (s.stageTile c vt st).staged.any fun u => u.st == .queued && !s.fetching c vt st u.key

/-- A rerun begins, or the stage stays stopped for a pre-emption: the tiles are restored, then AGN counts, and the notices that
the aborted run posted are owed again (R88 to R90, R310, R335); an immediate pre-emption that came after the decision strikes the
rerun at its first boundary (R26). -/
def State.rerun (s : State) (c st : Nat) : State :=
  let g := s.stage c st
  let stop := s.struck c st
  let counts := match g.firstCause with | some t => t.cause != cPREEMPT | none => false
  let s := match g.firstCause with | some t => s.logTrap c st t g.mm g.agn false | none => s
  let s := (s.stageVts c st).foldl (fun s vt => s.restoreTile c st vt) s
  let s := (s.stageVts c st).foldl (fun s vt =>
    let x := s.stageTile c vt st
    s.setStageTile c vt st { x with
      decided := none, settled := false, tileCause := x.later, later := none, reported := false, voteCast := false
      pending := 0, staged := x.staged.map fun u => { u with posted := false } }) s
  let s := s.mapStrands fun id y =>
    if id.cor = c ∧ y.stage = st ∧ y.status ≠ .ended then
      { y with status := if stop || !s.planesKnown c then .parked else s.statusOf c y, stepping := false }
    else y
  let s := ((s.dropAsks c st).dropProbes c).releaseFrames
  let s := s.setStage c st { g with
    phase := if stop then .stopped else s.firstPhase c st, decision := none, agn := if g.agn = 15 then 15 else g.agn + 1
    counted := if counts then g.counted + 1 else g.counted, summary := 0, firstCause := none, causes := []
    serviced := false, refetched := false, charged := distinct (g.charged ++ g.chargedNow), chargedNow := [], lanes := none
    children := g.laterMessages false, run := g.run + 1 }
  let s := (s.stageVts c st).foldl (fun s vt => s.startNotices c vt st) s
  let s := (s.stageIds c st).foldl State.haltPending s
  match stop, (s.cor c).struckBy with
  | false, some cls => s.strike c st cls
  | _, _ => s

/-- The words of a REPEAT_ABORT record are those of the abort that passed the limit (assumption 21). -/
def TrapInfo.repeated (t : TrapInfo) : TrapInfo := { t with cause := cREPEAT_ABORT }

/-- `CAUSE_SERVICE` (R332): first the policy of the first cause decides and the services begin; once every one has
completed and the marked units have been fetched again (R75), on every package, the rerun begins.  A MILESTONE halts the corridor whichever cause is first, after its own
record (R334, R341). -/
def execCauseService (c st : Nat) (s : State) : Out :=
  let g := s.stage c st
  let k := s.cor c
  .next (if g.phase ≠ .service then s
    else if g.serviced then
      if g.linkFailed && (s.relight c st).isNone then
        s.serviceFailed c st (g.firstCause.getD (tileTrap 0 cLINK 0 false false)) (g.causes.find? fun t => t.cause == cLINK)
      else if !g.refetched then (if s.servicing c st then (if g.linkFailed then (s.relight c st).getD s else s) else s.refetch c st)
      else s.meet c st 8 (!s.servicing c st && !s.unfetched c st) fun t => t.rerun c st
    else
      match g.firstCause with
      | none => s.setStage c st { g with serviced := true }
      | some t =>
        if !k.reruns t.cause then s.haltOn c st t t.cause
        else if let some m := g.causes.find? fun x => x.cause == cMILESTONE then
          (s.logTrap c st t g.mm g.agn false).haltOn c st m cMILESTONE
        else if t.cause ≠ cPREEMPT ∧ k.rerunLimit < g.counted + 1 then
          (s.logTrap c st t g.mm g.agn false).haltOn c st t.repeated cREPEAT_ABORT
        else
          match s.beginService c st with
          | some u => u.onStage c st fun g => { g with serviced := true }
          | none => s.serviceFailed c st t (g.causes.find? fun x =>
              (x.cause == cLINK && (s.relight c st).isNone) || (s.wanted c x).isSome))

end Sys2Proof.Machine
end

