-- ==== Sys2Proof/Machine/Pages.lean ====
section
/-! DEFINITION. The pages that the page tables in far memory name, and which corridors use them (R36, R40, R368, R378). -/

namespace Sys2Proof.Machine

/-- An entry of a page table that names a page or, where `leaf` is false, a table; `ctx` stands for a host's stage-2
tables, `root` for a register that names a top table. -/
structure PageRef where
  ctx : Option Nat
  pasid : Nat
  leaf : Bool
  root : Bool
  at_ : Nat
  va : Nat
  frame : Nat
  size : Nat
  place : BitVec 2
  deriving DecidableEq, Repr

/-- The valid entries of a table and of those below it; the first number is the table's level. -/
def refsFrom (m : Mem) (ctx : Option Nat) (pasid : Nat) : Nat → Nat → Nat → List PageRef
  | 0, _, _ => []
  | lv + 1, table, va =>
    (distinct ((cellsIn m table 4096).map fun c => (c.1 - table) / 8)).flatMap fun i =>
      let e := BitVec.ofNat 64 (Mem.load m (table + 8 * i) 8)
      let frame := bits e 51 12 * 4096
      let va := va + i * 2 ^ (12 + 9 * lv)
      if !bit e 0 then []
      else if bit e 1 then
        let size := leafSize (lv + 1) (bit e 2)
        [⟨ctx, pasid, true, false, table + 8 * i, va / size * size, frame, size, BitVec.ofNat 2 (bits e 9 8)⟩]
      else ⟨ctx, pasid, false, false, table + 8 * i, va, frame, 4096, 0⟩ :: refsFrom m ctx pasid lv frame va

/-- The PASIDs whose tables yield intermediate addresses. -/
def State.twoStage (s : State) (pasid : Nat) : Bool := s.corridors.any fun p => p.2.pasid == pasid && p.2.ctx.isSome

/-- The top tables that hold physical addresses, and the entries of every table below them. -/
def State.refs (s : State) : List PageRef :=
  let top (ctx : Option Nat) (pasid root : Nat) : List PageRef :=
    ⟨ctx, pasid, false, true, 0, 0, root, 4096, 0⟩ :: refsFrom s.far.mem ctx pasid 4 root 0
  ((s.depot.roots.filter fun p => !s.twoStage p.1).flatMap fun p => top none p.1 p.2) ++
    s.depot.ctxRoots.flatMap fun p => top (some p.1) 0 p.2

/-- The window of a die's single-home pool. -/
def singleBase (d : Nat) : Nat := 0x20000000000 + d * 0x10000000000

/-- A page lies in a die's single-home window. -/
def PageRef.singleOn (r : PageRef) (d : Nat) : Bool :=
  decide (singleBase d ≤ r.frame ∧ r.frame < singleBase d + 0x10000000000)

/-- Some line of a page is homed on a die. -/
def State.homedOn (s : State) (r : PageRef) (d : Nat) : Bool :=
  r.singleOn d || (decide (r.frame < 0x20000000000 ∨ 0x60000000000 ≤ r.frame) &&
    (decide (4096 < r.size) || r.place == 2 || homeDie s r.frame == d))

/-- A corridor uses a page. -/
def PageRef.usedBy (r : PageRef) (k : Corridor) : Bool :=
  match r.ctx with
  | some c => k.ctx == some c
  | none => k.ctx.isNone && k.pasid == r.pasid

/-- The corridors with tiles on a die, or with pages homed on it. -/
def State.affected (s : State) (d : Nat) : List Nat :=
  let rs := s.refs.filter fun r => s.homedOn r d
  ((s.corridors.filter fun p =>
    (s.vtiles.any fun v => v.1.1 == p.1 && v.2.phys / 144 == d) || (p.2.live && rs.any fun r => r.usedBy p.2))).map Prod.fst

/-- The die that is being taken offline, once the corridors that use it are to stand still (R378). -/
def State.clearing (s : State) : Option Nat :=
  match s.depot.offline.active with
  | some (d, _) => if 2 ≤ s.depot.offline.phase then some d else none
  | none => none

/-- A corridor does not resume before the offline for which it was stopped has fenced the die, nor while pages that it uses are being
evacuated (R378 steps 3 to 6). -/
def State.awaitsOffline (s : State) (c : Nat) : Bool :=
  match s.clearing with
  | some d => s.depot.offline.stopped.contains c || s.refs.any fun r => s.homedOn r d && r.usedBy (s.cor c)
  | none => false

/-! ### Places for pages and images (R339, R378) -/

/-- A free, aligned place of some size behind everything in a die's single-home window. -/
def roomIn (t : Table) (d size : Nat) (used : List (Nat × Nat)) : Option Nat :=
  let here := used.filter fun p => decide (singleBase d ≤ p.1 ∧ p.1 < singleBase d + 0x10000000000)
  let end_ := here.foldl (fun m p => max m (p.1 + p.2)) (singleBase d)
  let a := (end_ + size - 1) / size * size
  if a + size ≤ singleBase d + singlePool t then some a else none

/-- The first of some dies with a place. -/
def State.roomOf (s : State) (ds : List Nat) (size : Nat) (used : List (Nat × Nat)) : Option Nat :=
  ds.findSome? fun e => roomIn s.depot.table e size used

/-- The first surviving die but d with a place. -/
def State.newFrame (s : State) (d size : Nat) (used : List (Nat × Nat)) : Option Nat :=
  s.roomOf ((survivors s).filter (· != d)) size used

/-- The page size of a remap notice's size code. -/
def codeSize (n : Nat) : Nat := [4096, 65536, 2097152, 33554432, gib, 16 * gib].getD n 4096

/-- The save area that an image takes: whole pages (R339). -/
def Survival.area (i : Survival) : Nat := (i.raw.length + 4095) / 4096 * 4096

/-- The places in use: by pages, by images, by pages whose hosts have still to be told of their move. -/
def State.usedFrames (s : State) : List (Nat × Nat) :=
  (s.refs.map fun r => (r.frame, r.size)) ++ (s.depot.images.map fun i => (i.place, i.area)) ++
    s.depot.offline.notices.map fun n => (n.2.2.2.2.2, codeSize n.2.2.1)

/-- A corridor's pages, its page tables among them, map a physical address (R368). -/
def State.mapsFrame (s : State) (k : Corridor) (pa : Nat) : Bool :=
  s.refs.any fun r => r.usedBy k && decide (r.frame ≤ pa ∧ pa < r.frame + r.size)

end Sys2Proof.Machine
end

