-- ==== Sys2Proof/Machine/Preempt.lean ====
section
/-! DEFINITION. Requests against a corridor: drain, immediate, kill, and the halt of a corridor from outside (R322 to R325,
R333). -/

namespace Sys2Proof.Machine

/-- R324: an immediate request of a class that has struck is carried out as a drain until every stage has committed
again. -/
def Corridor.guards (k : Corridor) (cls : Nat) : Bool := match k.guardClass with | some g => decide (cls ≤ g) | none => false

/-- The clock at which a drain of a corridor escalates, at 175,000 cycles of 1.75 GHz in 100 µs; 0 where it never does
(R308, R323). -/
def Corridor.escalatesAt (k : Corridor) (clock : Nat) : Nat :=
  if bits (k.word 1) 15 8 = 0 then 0 else clock + 175000 * bits (k.word 1) 15 8

/-- A request reaches a corridor. -/
def State.request (s : State) (c : Nat) (r : Request) : State :=
  let k := s.cor c
  let r := { r with deadline := k.escalatesAt s.clock }
  if k.live then
    s.setCor c { k with
      state := .stopping
      requests := k.requests ++ [if r.immediate && k.guards r.cls then { r with immediate := false } else r] }
  else s

/-- The depot's own drain of class 3 (R322). -/
def State.drainFor (s : State) (c : Nat) : State :=
  if (s.cor c).requests.any fun r => r.record.isNone && r.cls == 3 then s
  else s.request c ⟨false, false, 3, none, s.clock, false⟩

/-- The corridors that have strands on tiles. -/
def State.corridorsOn (s : State) (f : Nat → Bool) : List Nat :=
  distinct ((s.strands.filter fun p => !isDepotId p.1 && f (s.phys p.1.cor p.1.vt)).map fun p => p.1.cor)

/-- The corridors on tiles are drained. -/
def State.drainOn (s : State) (f : Nat → Bool) : State := (s.corridorsOn f).foldl State.drainFor s

/-- A stage of a corridor that has not ended, else stage 0. -/
def State.someStage (s : State) (c : Nat) : Nat :=
  ((List.range (s.cor c).image.stages).find? fun st => !(s.stage c st).ended).getD 0

/-- A corridor halts on a cause that concerns a stage and no run of it: commits that have been decided end first, and the stage's
mile marker is the one that it then has (R315, R325, R333). -/
def State.haltStage (s : State) (c st : Nat) (cause : BitVec 8) : State :=
  if (s.cor c).live then
    let s := s.finishDecided c
    s.haltCorridor c st cause ((s.cor c).image.lowest st) (s.stage c st).mm
  else s

/-- A corridor halts on a cause from outside it, which concerns no stage: the completion names its first that has not ended
(assumption 94). -/
def State.haltOutside (s : State) (c : Nat) (cause : BitVec 8) : State := s.haltStage c (s.someStage c) cause

/-- A corridor that stands swapped out or exported halts on a cause too. -/
def State.haltSwapped (s : State) (c : Nat) (cause : BitVec 8) : State :=
  let k := s.cor c
  let st := s.someStage c
  if (k.state == .swapped || k.state == .exported) && k.completion.isNone then
    s.setCor c { k with
      state := .halted, completion := some (completionWords 1 cause st (k.image.lowest st) (s.stage c st).mm) }
  else s

/-- The corridors with tiles on both dies of a pair. -/
def State.using_ (s : State) (a b : Nat) : List Nat :=
  let on (c d : Nat) : Bool := s.vtiles.any fun v => v.1.1 == c && v.2.phys / 144 == d
  (s.corridors.map Prod.fst).filter fun c => on c a && on c b

/-- A corridor that uses a path declared failed halts with LINK, one that stands stopped on its tiles too (R348). -/
def State.haltFailed (s : State) : State :=
  (s.lightway.failedPairs.flatMap fun p => s.using_ p.1 p.2).foldl (fun s c => (s.haltSwapped c cLINK).haltOutside c cLINK) s

/-- Every corridor halts on a cause. -/
def State.haltAll (s : State) (cause : BitVec 8) : State :=
  (s.corridors.map Prod.fst).foldl (fun s c => (s.haltSwapped c cause).haltOutside c cause) s

/-- The corridor ends at once with status KILLED, unless a decided commit ends it (R323, R325). -/
def State.killNow (s : State) (c : Nat) : State :=
  let s := s.finishDecided c
  if (s.ending c).isSome then s else s.stopCorridor c .killed (completionWords 3 0 0 0 0)

end Sys2Proof.Machine
end

