-- ==== Sys2Proof/Machine/EvReliab.lean ====
section
/-! DEFINITION. Events of errors, strikes, suspicion, ageing, power and heat (R97, R366 to R373, R381). -/

namespace Sys2Proof.Machine

/-! ### Where tiles lie (R371, R372) -/

def tileRow (p : Nat) : Nat := p % 144 / 12
def tileCol (p : Nat) : Nat := p % 12
def tileDie (p : Nat) : Nat := p / 144

/-- The strike block of a tile on its die. -/
def blockOf (p : Nat) : Nat := 4 * (tileRow p / 3) + tileCol p / 3

/-- The cluster of a tile on its die. -/
def clusterOf (p : Nat) : Nat := 3 * (tileRow p / 4) + tileCol p / 4

/-- The tiles of a die. -/
def dieTiles (d : Nat) : List Nat := (List.range 144).map (144 * d + ·)

/-- A tile of the depot column. -/
def State.isDepotTile (s : State) (p : Nat) : Bool := decide (p < 144) && s.depot.columns.contains (tileCol p)

/-- The (corridor, vtile, stage) triples with a strand on tiles. -/
def State.stagesAt (s : State) (f : Nat → Bool) : List (Nat × Nat × Nat) :=
  distinct ((s.strands.filter fun p =>
    !isDepotId p.1 && p.2.status != .ended && (s.cor p.1.cor).live && f (s.phys p.1.cor p.1.vt)).map fun p =>
      (p.1.cor, p.1.vt, p.2.stage))

/-! ### Strikes and sensors (R26, R371) -/

/-- The depot's services in progress begin anew from its journal, which holds the records taken, the doorbells to look at and the
completions to count: what they had read of device memory for it is read again (R371).  Which tile carries which service is the
firmware's, so that all are repeated (assumption 95). -/
def State.repeatServices (s : State) : State := s.onFabric fun f => { f with fetched := [] }

/-- `STRIKE_REPORT` (R371): every stage with a strand on a covered tile votes abort; covered depot tiles repeat the depot's services. -/
def execStrikeReport (die block : Nat) (s : State) : Out :=
  let hit (p : Nat) : Bool := tileDie p == die && blockOf p == block
  let t := ((s.stagesAt hit).foldl (fun s t => s.tileVote t.1 t.2.1 t.2.2 (tileTrap t.2.1 cSTRIKE 0 false false)) s).depotEvent 3
  .next (if (dieTiles die).any fun p => hit p && s.isDepotTile p then t.repeatServices else t)

/-- Fences the programmable tiles that a test holds for, and drains their corridors. -/
def State.fenceTiles (s : State) (ps : List Nat) : State :=
  let ps := ps.filter fun p => !s.isDepotTile p
  (ps.foldl (fun s p => s.setTile p { s.tile p with fenced := true }) s).drainOn fun p => ps.contains p

/-- The sensors of a block that a mask, bit j for sensor 4b + j, does not name as passing. -/
def deafSensors (block good : Nat) : List Nat := ((List.range 4).filter fun j => !good.testBit j).map (4 * block + ·)

/-- `SENSOR_SELF_TEST` (R371): the four sensors of a block are tested, `good` being the mask of those that pass; a block with fewer
than two is uncovered. -/
def execSensorSelfTest (die block good : Nat) (s : State) : Out :=
  let bad := deafSensors block good
  let s := s.setDie die { s.die die with deaf := ((s.die die).deaf.filter fun n => n / 4 != block) ++ bad }
  let d := s.die die
  .next (if bad.length ≤ 2 ∨ d.uncovered.contains block then s
    else
      ((s.setDie die { d with uncovered := d.uncovered ++ [block] }).fenceTiles
        ((dieTiles die).filter fun p => blockOf p == block)).depotEvent 3)

/-! ### Errors (R97, R366, R368) -/

/-- A line has failed uncorrectably on a read: once, or again after it had been rewritten (R368). -/
def State.lineFailed (s : State) (line : Nat) : State :=
  let next : LineFault := match KMap.get? s.far.faulty line with
    | none => .failed
    | some .failed => .failed
    | some .rewritten => .again
    | some .again => .again
  { s with far := { s.far with faulty := KMap.set s.far.faulty line next } }

/-- A class-2 cause of a tile: the vote with the address it has, and the charge (R334, R366). -/
def State.hardFault (s : State) (c vt st : Nat) (cause : BitVec 8) (addr charge : Nat) : State :=
  (s.charge c vt st charge).tileVote c vt st (tileTrap vt cause (BitVec.ofNat 64 addr) false false)

/-- `ECC_ERROR` (R97, R366): the reading tile is charged and votes, on whichever tile the bytes lie. -/
def execEccError (at_ : EccSite) (fatal : Bool) (s : State) : Out :=
  .next (match at_ with
    | .sram tile off reader =>
      match reader with
      | none => if fatal then s else s.suspect tile 1
      | some (c, vt, st) =>
        if !fatal then s.suspect (s.phys c vt) 1
        else if (s.stageVts c st).contains vt then s.hardFault c vt st cECC off 0
        else s
    | .command tile off => if !fatal then s.suspect tile 1 else s.commandError tile off
    | .regs id =>
      if !fatal then s.suspect (s.phys id.cor id.vt) 1
      else if isDepotId id then s
      else s.hardFault id.cor id.vt (s.strand id).stage cECC 0 0
    | .far pa va reader =>
      if !fatal then
        let d := s.die (homeDie s pa)
        s.setDie (homeDie s pa) { d with hbmCorrected := d.hbmCorrected + 1 }
      else
        let s := s.lineFailed (pa / 64)
        if isDepotId reader then s
        else s.tileVote reader.cor reader.vt (s.strand reader).stage
          (tileTrap reader.vt cECC (BitVec.ofNat 64 va) false false))

/-- `PARITY_ERROR` (R366): SOFT for the stages whose state the structure holds.  A junction has no tile of its own: every tile that
votes for it is charged (assumption 95). -/
def execParityError (site : ParitySite) (s : State) : Out :=
  .next (match site with
    | .pcQueue id => if isDepotId id then s else s.hardFault id.cor id.vt (s.strand id).stage cSOFT 0 64
    | .engine id => if isDepotId id then s else s.hardFault id.cor id.vt (s.strand id).stage cSOFT 0 64
    | .issue tile =>
      (s.stagesAt fun p => p == tile).foldl (fun s t => s.hardFault t.1 t.2.1 t.2.2 cSOFT 0 0) (s.suspect tile 64)
    | .junction die =>
      let serves (p : Nat) : Bool := tileDie p == die || decide (4 ≤ die)
      let on := s.stagesAt serves
      on.foldl (fun s t => s.hardFault t.1 t.2.1 t.2.2 cSOFT 0 0)
        ((distinct (on.map fun t => s.phys t.1 t.2.1)).foldl (fun s p => s.suspect p 64) s))

/-- A peer holds a frame by the answer to a probe, so that it is not moved (R351). -/
def State.held (s : State) (frame : Nat) : Bool := s.fabric.pinned.any fun p => p.2 == frame

/-- Every corridor whose pages map an address stands still after phase 8, so that its frame can be moved. -/
def State.allStopped (s : State) (pa : Nat) : Bool :=
  s.corridors.all fun p => !p.2.live || !s.mapsFrame p.2 pa ||
    (List.range p.2.image.stages).all fun st => (s.stage p.1 st).ended || (s.stage p.1 st).phase == .stopped

/-- The frames of a die's spare pool (R368). -/
def Table.spares (t : Table) : Nat := t.spareMib * 256

/-- `LINE_RETIRE` (R368): the frame of a line that failed twice, rewritten between, moves to a spare frame and the line is carried over as
poison; with no spare left the frame is poisoned in place. -/
def execLineRetire (pa : Nat) (s : State) : Out :=
  let line := pa / 64
  let frame := pa / 4096
  let die := homeDie s pa
  .next (if KMap.get? s.far.faulty line ≠ some .again || !s.allStopped pa || s.held frame then s
    else
      let used := (s.far.retired.filter fun f => homeDie s (4096 * f) == die).length
      let f := { s.far with faulty := KMap.erase s.far.faulty line }
      if used < s.depot.table.spares then
        { s with far := { f with
            retired := f.retired ++ [frame]
            poison := distinct (f.poison ++ (List.range 8).map fun i => 64 * line + 8 * i) } }
      else { s with far := { f with lost := f.lost ++ [(frame, 1)] } })

/-! ### Suspicion (R369, R370) -/

/-- `SUSPICION_DECAY` (R369). -/
def execSuspicionDecay (s : State) : Out :=
  .next { s with tiles := s.tiles.map fun p => (p.1, { p.2 with score := p.2.score - 1 }) }

/-- `TILE_WITHDRAW` (R370): the tile is closed and its corridors drained; once it holds none, its test runs. -/
def execTileWithdraw (tile : Nat) (s : State) : Out :=
  let t := s.tile tile
  .next (if t.score < 1024 && !t.closed || t.fenced || t.testing then s
    else
      let s := s.setTile tile { t with closed := true, testing := (s.corridorsOn fun p => p == tile).isEmpty }
      s.drainOn fun p => p == tile)

/-- `TARGETED_TEST` (R370). -/
def execTargetedTest (tile : Nat) (pass : Bool) (s : State) : Out :=
  let t := s.tile tile
  .next (if !t.testing then s
    else if pass then s.setTile tile { t with score := t.score / 2, closed := false, testing := false }
    else s.setTile tile { t with fenced := true, testing := false })

/-! ### Clusters (R372, R373, R381) -/

def State.cluster (s : State) (d k : Nat) : Cluster := KMap.getD (s.die d).clusters k Cluster.reset
def State.setCluster (s : State) (d k : Nat) (x : Cluster) : State :=
  let e := s.die d
  s.setDie d { e with clusters := KMap.set e.clusters k x }

/-- Changes every cluster of the dies listed. -/
def State.onClusters (s : State) (ds : List Nat) (f : Cluster → Cluster) : State :=
  (ds.flatMap fun d => (List.range 9).map fun k => (d, k)).foldl (fun s p => s.setCluster p.1 p.2 (f (s.cluster p.1 p.2))) s

/-- The management steps of a cluster: for module power, for core current, for heat. -/
def Cluster.mgmt (x : Cluster) : Nat := x.power + x.current + if x.hot then 1 else 0

/-- The step that a cluster is to take. -/
def Cluster.target (x : Cluster) : Nat := min 8 (max x.age x.mgmt)

/-- A cluster whose management steps have changed: `now` gates issue until the clock has changed, and steps beyond 8 gate in any
case, until they fall to 8. -/
def Cluster.stepped (old x : Cluster) (now : Bool) : Cluster :=
  { x with gated :=
      if old.mgmt < x.mgmt then x.gated || now || decide (8 < x.mgmt)
      else x.gated && (x.mgmt == old.mgmt || decide (8 < x.mgmt ∨ x.step < x.target)) }

/-- One management step more for module power, and one less. -/
def Cluster.powerUp (x : Cluster) : Cluster := x.stepped { x with power := x.power + 1 } false
def Cluster.powerDown (x : Cluster) : Cluster := x.stepped { x with power := x.power - 1 } false

/-- One management step more for core current, which gates issue until the clock has changed, and one less. -/
def Cluster.currentUp (x : Cluster) : Cluster := x.stepped { x with current := x.current + 1 } true
def Cluster.currentDown (x : Cluster) : Cluster := x.stepped { x with current := x.current - 1 } false

/-- The management step for heat is due, or is not. -/
def Cluster.heat (x : Cluster) (on : Bool) : Cluster := x.stepped { x with hot := on } false

/-- The tiles of a cluster. -/
def clusterTiles (d k : Nat) : List Nat := (dieTiles d).filter fun p => clusterOf p == k

/-- `AGEING_MONITOR_READ` (R372); the birth count is fused: the one of the first reading stays. -/
def execAgeingMonitorRead (die cluster birth count : Nat) (s : State) : Out :=
  let x := s.cluster die cluster
  let b := x.birth.getD birth
  let age := if b = 0 then 0 else 100 * (b - count) / b
  let x := { x with age, birth := some b }
  .next (if 4 < age then (s.setCluster die cluster { x with fenced := true }).fenceTiles (clusterTiles die cluster)
    else s.setCluster die cluster x)

/-- No strand on any tile of a cluster can issue: each has passed step 7 of its arrival, or has ended, halted or stopped, or
does not run (R373). -/
def State.quietCluster (s : State) (die cluster : Nat) : Bool :=
  s.strands.all fun p =>
    let t := s.phys p.1.cor p.1.vt
    !(tileDie t == die && clusterOf t == cluster) || !s.corRuns p.1 || (p.2.status != .running && p.2.status != .arriving)

/-- `CLOCK_STEP_APPLY` (R373). -/
def execClockStepApply (die cluster : Nat) (s : State) : Out :=
  let x := s.cluster die cluster
  .next (if s.quietCluster die cluster then
      s.setCluster die cluster { x with step := x.target, gated := decide (8 < x.mgmt) }
    else s)

/-- `CLOCK_STEP_TIMEOUT` (R373). -/
def execClockStepTimeout (die cluster : Nat) (s : State) : Out :=
  let x := s.cluster die cluster
  .next (if x.step = x.target then s else s.drainOn fun p => tileDie p == die && clusterOf p == cluster)

/-- `MODULE_POWER_EVENT` (R381). -/
def execModulePowerEvent (watts : Nat) (s : State) : Out :=
  .next (if 1950 < watts then
      let s := s.onClusters [0, 1, 2, 3] Cluster.powerUp
      { s with power := { s.power with moduleStepped := true } }
    else if watts < 1850 ∧ s.power.moduleStepped then
      let s := s.onClusters [0, 1, 2, 3] Cluster.powerDown
      { s with power := { s.power with
          moduleStepped := s.dies.toList.any fun d => d.clusters.any fun k => decide (0 < k.2.power) } }
    else s)

/-- `CORE_CURRENT_EVENT` (R381): `die` is the busiest; what is released is the step of the dies that took one. -/
def execCoreCurrentEvent (amps die : Nat) (s : State) : Out :=
  .next (if 3800 < amps then
      let s := s.onClusters [die] Cluster.currentUp
      { s with power := { s.power with coreStepped := true, gatedAll := s.power.gatedAll || decide (4000 < amps) } }
    else
      let s := if amps = 3800 then s else { s with power := { s.power with gatedAll := false } }
      if amps < 3600 ∧ s.power.coreStepped then
        let s := s.onClusters [0, 1, 2, 3] Cluster.currentDown
        { s with power := { s.power with
            coreStepped := s.dies.toList.any fun d => d.clusters.any fun k => decide (0 < k.2.current) } }
      else s)

/-- `THERMAL_EVENT` (R381). -/
def execThermalEvent (die cluster celsius : Nat) (s : State) : Out :=
  let x := s.cluster die cluster
  .next (if 125 ≤ celsius then
      let s := s.haltAll cLINK
      { s with power := { s.power with removed := true } }
    else if 105 ≤ celsius then
      let s := if x.hot then s else s.setCluster die cluster { x.heat true with gated := true }
      if 115 ≤ celsius ∧ !s.power.gatedCluster.contains (die, cluster) then
        { s with power := { s.power with gatedCluster := s.power.gatedCluster ++ [(die, cluster)] } }
      else if celsius < 110 then
        { s with power := { s.power with gatedCluster := s.power.gatedCluster.filter (· != (die, cluster)) } }
      else s
    else
      let s := if celsius < 110 then
          { s with power := { s.power with gatedCluster := s.power.gatedCluster.filter (· != (die, cluster)) } }
        else s
      if celsius < 100 ∧ x.hot then s.setCluster die cluster (x.heat false) else s)

end Sys2Proof.Machine
end

