-- ==== Sys2Proof/Machine/EvBoot.lean ====
section
/-! DEFINITION. Boot, and the events of depot strands (R14, R374 to R377). -/

namespace Sys2Proof.Machine

/-! ### The configuration table (R376) -/

/-- The fields of the 64 bytes that are signed. -/
def Table.ofBytes (b : List Byte) : Table :=
  { version := recordField b 4 4, depotCol := recordField b 8 1, depotCols := recordField b 9 1
    degradedOk := recordField b 10 1 == 1, minDies := recordField b 11 1, poolIl := recordField b 12 2
    poolFh := recordField b 14 2, spareMib := recordField b 16 2 }

/-- Every field lies in its range (R14, R32, R376). -/
def tableOk (b : List Byte) : Bool :=
  let t := Table.ofBytes b
  recordField b 0 4 == 0x43540001 && (t.depotCols == 1 || t.depotCols == 2) &&
    decide (t.depotCol + t.depotCols ≤ 12 ∧ recordField b 10 1 ≤ 1 ∧ 2 ≤ t.minDies ∧ t.minDies ≤ 4 ∧ t.spareMib = 64 ∧
      t.poolIl * gib + t.poolFh * gib + t.spareMib * 1048576 ≤ 96 * gib) &&
    ((b.drop 18).take 46).all (· == 0)

/-! ### The depot column (R14) -/

/-- A column of die C0 has twelve intact sites. -/
def columnIntact (fused : List Nat) (c : Nat) : Bool := !(fused.any fun p => decide (p < 144) && p % 12 == c)

/-- The depot's columns: the named one or pair, or the next in ascending order, wrapping, that is intact. -/
def depotColumns (t : Table) (fused : List Nat) : Option (List Nat) :=
  let n := 13 - t.depotCols
  let cand := (List.range n).map fun i => (List.range t.depotCols).map fun j => (t.depotCol + i) % n + j
  cand.find? fun cs => cs.all (columnIntact fused)

/-! ### Boot (R376, R377) -/

/-- The dies that pass steps 2 and 3, and whether each passed step 2.  Step 3 is pairwise among those that did: one whose proof a
majority of the others does not accept is fenced. -/
def bootDies (b : BootInput) (counters : List Nat) (v : Nat) : List (Bool × Bool) :=
  let ok (d : Nat) : Bool := b.verified.getD d false && decide (max (counters.getD d 0) (b.counters.getD d 0) ≤ v)
  (List.range 4).map fun d =>
    let others := (List.range 4).filter fun e => e != d && ok e
    (ok d && decide (2 * (others.filter fun e => b.refused.contains (d, e)).length ≤ others.length), ok d)

/-- The status with which boot ends. -/
def bootStatus (t : Table) (bytes : List Byte) (dies : List (Bool × Bool)) (cols : Option (List Nat)) : BitVec 8 :=
  let n := (dies.filter Prod.fst).length
  if !(dies.any Prod.snd) then 0x05
  else if !tableOk bytes then 0x06
  else if !((dies.getD 0 (false, false)).1) then 0x03
  else if n < 4 && !t.degradedOk || decide (n < t.minDies) then 0x02
  else if cols.isNone then 0x04
  else if n < 4 then 0x01
  else 0x00

/-- A depot strand as boot starts it: at offset 0 of its tile, EVB as boot sets it, which the spec leaves open. -/
def depotStrand (n : Nat) : Strand :=
  { Strand.reset with
    status := .running, depot := { DepotRegs.reset with evb := Config.freeWord n &&& 0x1FFFFE } }

/-- The depot is loaded into its columns; with firmware, slot 0 of every depot tile starts. -/
def State.loadDepot (s : State) (cols : List Nat) (fw : List Byte) : State :=
  let ps := (List.range 144).filter fun p => cols.contains (p % 12)
  if fw.isEmpty then s
  else
    let s := ps.foldl (fun s p =>
      s.setTile p { s.tile p with mem := Mem.write (s.tile p).mem 0 (fw.take 0x200000) }) s
    { (ps.foldl (fun s p =>
        let id : StrandId := ⟨depotCor, p, 0⟩
        let x := depotStrand s.free
        let s := s.setStrand id x
        let a := s.after id 0
        s.setStrand id { x with pc1 := a, pc2 := s.after id a }) s) with free := s.free + 1 }

/-- The fused-off sites of a part: at most 16 (R15). -/
def partSites (b : BootInput) : List Nat := (distinct (b.fused.filter fun p => decide (p < 576))).take 16

/-- `BOOT` (R376): everything but the flash, the store outside the device, the fused counters, the agenda and the model's counter starts anew. -/
def execBoot (b : BootInput) (s : State) : Out :=
  let t := Table.ofBytes b.table
  let dies := bootDies b s.depot.counter t.version
  let cols := depotColumns t (partSites b)
  let status := bootStatus t b.table dies cols
  let r := State.reset
  let up (d : Nat) : Bool := (dies.getD d (false, false)).1
  let counter := (List.range 4).map fun d =>
    let old := max (s.depot.counter.getD d 0) (b.counters.getD d 0)
    if (dies.getD d (false, false)).2 then max old t.version else old
  let u := { r with
    clock := s.clock, agenda := s.agenda, free := s.free
    dies := Vector.ofFn fun d => { Die.reset with fenced := !up d.val }
    tiles := (partSites b).map fun p => (p, { Tile.reset with fenced := true })
    depot := { r.depot with
      booted := some status, table := t, columns := cols.getD [], fused := partSites b, counter
      keyHash := b.keyHash, identity := b.identity
      firewall := { Firewall.reset with lock := true }
      flash := s.depot.flash, store := s.depot.store }
    fabric := { r.fabric with epoch := (s.fabric.epoch + 1) % 65536 }
    lightway := { r.lightway with dies := (List.range 4).filter up } }
  .next (if status = 0 ∨ status = 1 then u.loadDepot (cols.getD []) b.firmware else u)

/-! ### Depot strands (R374) -/

/-- After a fault of the depot firmware every corridor halts with LINK (R377). -/
def State.depotFailed (s : State) : State :=
  if s.depot.booted = some 0x0F ∧ (s.corridors.any fun p => p.2.live || p.2.state == .swapped || p.2.state == .exported) then s.haltAll cLINK else s

/-- `DEPOT_EXCEPTION` (R374). -/
def execDepotException (id : StrandId) (cause : BitVec 8) (addr : Word) (s : State) : Out :=
  .next (if isDepotId id && (s.strand id).status == .running then (s.depotRaise id cause addr).depotFailed else s)

/-- `DTM_EXPIRE` (R374): the timer's last cycle has passed. -/
def execDtmExpire (id : StrandId) (s : State) : Out :=
  .next (if isDepotId id && (s.strand id).depot.dtm == 1 then
      s.onStrand id fun x => { x with depot := { x.depot with dtm := 0, evt := x.depot.evt ||| 4 } }
    else s)

end Sys2Proof.Machine
end

