-- ==== Sys2Proof/Machine/EvQueue.lean ====
section
/-! DEFINITION. Host queues and the records taken from them: doorbells, mapping, LAUNCH, PREEMPT, RESUME (R19, R304 to R313,
R322, R325, R361). -/

namespace Sys2Proof.Machine

/-! ### Queues (R304 to R307) -/

def State.queue (s : State) (q : Nat) : Queue := KMap.getD s.host.queues q Queue.reset
def State.setQueue (s : State) (q : Nat) (x : Queue) : State := s.onHost fun h => { h with queues := KMap.set h.queues q x }

/-- A queue's ring faults: the bit and cause are written, its slot is released (R307). -/
def State.ringFault (s : State) (q : Nat) (cause : BitVec 8) : State :=
  let w := s.queueWord q 3
  let s := s.setQueueWord q 3 (setBits (setBits w 47 40 cause.toNat) 48 48 1)
  s.setQueue q { s.queue q with pending := false, mapped := false }

/-- A queue becomes pending behind every queue that is. -/
def State.makePending (s : State) (q : Nat) (tail : Word) : State :=
  let s := s.setQueue q { s.queue q with pending := true, mapped := false, order := s.host.mapOrder, tail }
  s.onHost fun h => { h with mapOrder := h.mapOrder + 1 }

/-- The depot acts on a doorbell, the queue's record being at hand. -/
def State.heed (s : State) (q : Nat) : State :=
  let k := s.queue q
  if bit (s.queueWord q 3) 48 then s
  else
    let cfg := s.queueWord q 4
    let tail := s.queueWord q 1
    if bits cfg 38 32 ≠ k.owner then s.ringFault q cPROT
    else if tail = s.queueWord q 2 then s
    else if k.pending || k.mapped then s.setQueue q { k with tail }
    else s.makePending q tail

/-- The depot looks at a doorbell; where a peer holds the queue's record it asks for that first (R350). -/
def State.lookAt (s : State) (q : Nat) : State :=
  let k := s.queue q
  if k.disabled then s.setQueue q { k with rung := false }
  else if s.queueAway q then (s.setQueue q { k with rung := true }).askQueue q
  else (((s.noteReads s.pfPasid none (s.queueVa q) 64).setQueue q { k with rung := false }).heed q).forgetQueue

/-- A doorbell is rung: one of a queue that the function does not own is dropped and counted. -/
def State.doorbell (s : State) (fn q : Nat) : State :=
  if 1024 ≤ q ∨ (s.queue q).owner ≠ fn then s.onHost fun h => { h with droppedDoorbells := h.droppedDoorbells + 1 }
  else (s.depotEvent 0).lookAt q

/-- `DOORBELL` (R305 to R307, R361). -/
def execDoorbell (fn q : Nat) (s : State) : Out := .next (s.doorbell fn q)

/-- The queue that comes first among those a test holds for. -/
def State.firstQueue (s : State) (f : Queue → Bool) : Option Nat :=
  ((s.host.queues.filter fun p => f p.2).foldl (fun a p =>
    match a with
    | some x => if p.2.order < x.2.order then some p else some x
    | none => some p) (none : Option (Nat × Queue))).map Prod.fst

/-- The launch table's records: those taken and those that wait for tiles. -/
def State.tableUsed (s : State) : Nat :=
  s.host.taken.length + (s.corridors.filter fun p => p.2.state == .waiting).length

/-- A queue's ring could not be read: the queue stalls, and a page that is missing is asked for where the queue's address space has two
stages, or, behind an aperture, of the package that holds it (R307, R351, R362); none while a link to that is not free. -/
def State.ringMissing (s : State) (q pasid : Nat) (ctx : Option Nat) (va : Nat) : Option State :=
  let cause := s.readCause pasid ctx va
  let page := va / 4096 * 4096
  let c := depotCor + 1 + q
  let t := (s.ringFault q (if cause = cTXF then cTXF else cPROT)).forgetPages pasid
  let note (t : State) (pasid pkg : Nat) : State :=
    t.onHost fun h => { h with pageRequests := h.pageRequests ++ [⟨c, 0, page, pasid, pkg, false⟩] }
  if cause ≠ cTXF then some t
  else
    match s.apertureAt pasid va with
    | some a => (t.openTrans a.pkg .probe a.pasid (a.target + (page - a.va)) 4096 9 [] (.page c 0 page)).map fun t => note t a.pasid a.pkg
    | none => some (if ctx.isSome then note t pasid s.fabric.pkg else t)

/-- The head record of a mapped queue is copied into the launch table and head advances; a faulting ring stalls its queue
(R306, R307). -/
def State.takeHead (s : State) (q : Nat) : State :=
  let k := s.queue q
  let ring := s.queueWord q 0
  let head := s.queueWord q 2
  let cfg := s.queueWord q 4
  let order := bits ring 51 48
  let pasid := bits cfg 19 0
  let ctx := if bit cfg 28 then some (bits cfg 27 20) else none
  let va := bits ring 47 0 + 256 * (head.toNat % 2 ^ order)
  if bits ring 11 0 ≠ 0 ∨ 2 ^ order < (k.tail - head).toNat then s.ringFault q cCMD_FORMAT
  else
    match s.readVa pasid ctx va 256 with
    | .error (some a) => s.ask a
    | .error none => (s.ringMissing q pasid ctx va).getD s
    | .ok b =>
      let words := (List.range 32).map fun i => BitVec.ofNat 64 (recordField b (8 * i) 8)
      let t : Taken := ⟨q, words, pasid, ctx, bits cfg 30 29, bits cfg 38 32, s.host.mapOrder⟩
      let s := ((((s.noteReads pasid ctx va 256).setQueueWord q 2 (head + 1)).forgetPages pasid)).onHost fun h =>
        { h with taken := h.taken ++ [t], mapOrder := h.mapOrder + 1 }
      if head + 1 = k.tail then s.setQueue q { k with pending := false, mapped := false } else s.makePending q k.tail

/-- The head record of a mapped queue is taken, once the queue's own record is at hand. -/
def State.takeRecord (s : State) (q : Nat) : State :=
  if s.queueAway q then s.askQueue q else ((s.noteReads s.pfPasid none (s.queueVa q) 64).takeHead q).forgetQueue

/-- A mapped queue's head record is taken while the launch table has room; else the first pending queue that is enabled takes a free
slot. -/
def State.mapNext (s : State) : State :=
  let room := decide (s.tableUsed < 256)
  match s.firstQueue Queue.mapped, room with
  | some q, true => s.takeRecord q
  | _, _ =>
    if (s.host.queues.filter fun p => p.2.mapped).length < 64 then
      match s.firstQueue Queue.pending with
      | none => s
      | some q =>
        let x := s.queue q
        if s.queueAway q then s.askQueue q
        else if x.disabled || !bit (s.queueWord q 4) 31 then (s.setQueue q { x with pending := false }).forgetQueue
        else
          let t := s.setQueue q { x with pending := false, mapped := true }
          if room then t.takeRecord q else t
    else s

/-- `QUEUE_MAP` (R306): queues are mapped and their records taken.  First the depot looks again at a doorbell whose queue record had to
be asked for, once it has the answer. -/
def execQueueMap (s : State) : Out :=
  let rung := s.host.queues.filter fun p => p.2.rung
  .next (match rung.find? fun p => !s.queueAway p.1 with
    | some p => s.lookAt p.1
    | none => (rung.foldl (fun s p => s.askQueue p.1) s).mapNext)

/-- `QUEUE_SLOT_TIMEOUT` (R306): after 100 µs a mapped queue gives up its slot. -/
def execQueueSlotTimeout (q : Nat) (s : State) : Out :=
  .next (if (s.queue q).mapped then s.makePending q (s.queue q).tail else s)

/-! ### The corridor image (R311, R312) -/

/-- The tile-section records from a place of the image on, with the place after them; the first number bounds them. -/
def State.readTile (s : State) (pasid : Nat) (ctx : Option Nat) :
    Nat → Nat → Except (Option Ask) (List (Nat × List Byte) × Nat)
  | 0, va => .ok ([], va)
  | n + 1, va => do
    let h ← s.readVa pasid ctx va 8
    let len := recordField h 4 4
    let b ← s.readVa pasid ctx (va + 8) len
    let r ← s.readTile pasid ctx n (va + 8 + (len + 7) / 8 * 8)
    .ok ((recordField h 0 4, b) :: r.1, r.2)

/-- The local extent of one dimension word, ⌈E / (b·P)⌉·b (R224). -/
def lextOf (x : Word) : Nat :=
  let bp := bits x 31 16 * bits x 47 32
  if bp = 0 then 0 else (bits x 15 0 + bp - 1) / bp * bits x 31 16

/-- A distribution table's words with the local extents computed (R224); of an extent that needs more than the field's 16 bits
the low ones (assumption 83).  Bits of an image that R224 gives as zero stay as the image has them (assumption 94). -/
def tableWords (b : List Byte) : List Word :=
  let w (i : Nat) : Word := BitVec.ofNat 64 (recordField b (8 * i) 8)
  let nd := bits (w 0) 18 16
  (List.range 8).map fun i => if 1 ≤ i ∧ i ≤ nd then setBits (w i) 63 48 (lextOf (w i) % 65536) else w i

/-- One stage-map record (R312). -/
def smapRec (b : List Byte) : SMapRec :=
  let w := BitVec.ofNat 64 (recordField b 0 8)
  ⟨bits w 15 0, bits w 31 16 + 1, bits w 33 32, bits w 37 34, bit w 38⟩

/-- The image that begins at a device VA; none as an error where it cannot be read or its magic is wrong. -/
def State.readImage (s : State) (pasid : Nat) (ctx : Option Nat) (va : Nat) : Except (Option Ask) Image := do
  let h ← s.readVa pasid ctx va 64
  let f (o n : Nat) : Nat := recordField h o n
  if f 0 4 ≠ 0x5A440001 ∨ va % 4096 ≠ 0 then .error none
  else
    let code ← s.readVa pasid ctx (va + 64) (f 28 4)
    let p1 := va + 64 + (f 28 4 + 7) / 8 * 8
    let (tile, p2) ← s.readTile pasid ctx (f 32 4) p1
    let live ← s.readVa pasid ctx p2 (16 * f 36 2)
    let p3 := p2 + 16 * f 36 2
    let fetch ← s.readVa pasid ctx p3 (16 * f 38 2)
    let p4 := p3 + 16 * f 38 2
    let mask := BitVec.ofNat 64 (f 40 4)
    let tabs := (List.range 32).filter fun t => bit mask t
    let dt ← s.readVa pasid ctx p4 (64 * tabs.length)
    let smap ← s.readVa pasid ctx (p4 + 64 * tabs.length) (8 * f 44 2)
    .ok {
      x := f 4 1, y := f 5 1, z := f 6 2, order := f 8 1, swizzle := f 9 1, strands := f 10 1, stages := f 11 1
      entries := (List.range 4).map fun i =>
        let e := BitVec.ofNat 64 (f (12 + 4 * i) 4)
        ⟨bits e 20 0, bits e 27 24, bit e 31⟩
      code, tile
      live := (pieces 16 (f 36 2) live).map ofLE
      fetch := (pieces 16 (f 38 2) fetch).map fun b =>
        (BitVec.ofNat 64 (recordField b 0 8), recordField b 8 4, recordField b 12 4)
      dtabs := (List.range tabs.length).map fun i => (tabs.getD i 0, tableWords ((dt.drop (64 * i)).take 64))
      smap := (pieces 8 (f 44 2) smap).map smapRec
      size := p4 - va + 64 * tabs.length + 8 * f 44 2 }

/-! ### The checks of a launch (R308, R313) -/

/-- Some bit of the list of [hi:lo] ranges of a record is set. -/
def anySet (ws : List Word) (l : List (Nat × Nat × Nat)) : Bool := l.any fun r => bits (ws.getD r.1 0) r.2.1 r.2.2 != 0

/-- 0x01: a malformed record. -/
def recordBad (ws : List Word) : Bool :=
  let w (n : Nat) : Word := ws.getD n 0
  bits (w 0) 7 0 != 1 || bits (w 0) 15 8 != 1 ||
    anySet ws [(0, 31, 21), (1, 7, 4), (1, 63, 24), (2, 7, 5), (2, 15, 13), (2, 31, 25), (2, 63, 41), (3, 63, 48),
      (4, 63, 52), (5, 63, 48), (6, 63, 48), (7, 0, 0), (7, 63, 29), (12, 63, 24), (13, 31, 25)] ||
    ((ws.drop 14).any fun x => x != 0) ||
    bits (w 4) 11 0 != 0 || bits (w 5) 7 0 != 0 || bits (w 6) 3 0 != 0

/-- 0x02: the shape. -/
def Image.shapeBad (im : Image) : Bool :=
  let n := im.vtiles
  !(decide (1 ≤ im.x ∧ im.x ≤ 12 ∧ 1 ≤ im.y ∧ im.y ≤ 12 ∧ 1 ≤ im.z ∧ im.z ≤ 1024 ∧ n ≤ 65536 ∧ im.order ≤ 3 ∧
      1 ≤ im.strands ∧ im.strands ≤ 4 ∧ 1 ≤ im.stages ∧ im.stages ≤ 16) && [1, 2, 4, 8].contains im.swizzle) ||
    ((List.range 4).any fun i =>
      match im.entries[i]? with
      | some e => e.valid && decide (im.strands ≤ i ∨ im.stages ≤ e.stage)
      | none => false) ||
    (im.smap.any fun r => decide (n < r.first + r.count ∨ im.strands ≤ r.slot ∨ im.stages ≤ r.stage) ||
      (r.present && !((im.entries[r.slot]?).map Entry.valid).getD false)) ||
    decide (1024 < im.smap.length) ||
    ((List.range im.stages).any fun st => (im.members st).isEmpty) ||
    ((List.range n).any fun vt => (im.stagesOn vt).isEmpty)

/-- A range of bytes of every tile that the launch may fill. -/
def Corridor.fillable (k : Corridor) (off n : Nat) : Bool :=
  n == 0 ||
    (decide (k.grantBase ≤ off ∧ off + n ≤ k.grantBase + k.grantLen ∧ off + n ≤ 0x1F0000) &&
      decide (k.codeBase + k.codeLen ≤ off ∨ off + n ≤ k.codeBase))

/-- 0x05: a distribution table (R224). -/
def Corridor.tableBad (k : Corridor) (im : Image) (ws : List Word) : Bool :=
  let w (n : Nat) : Word := ws.getD n 0
  let nd := bits (w 0) 18 16
  let ds := (List.range nd).map fun i => w (1 + i)
  let owners := (ds.map fun x => bits x 47 32).foldl (· * ·) 1
  let lext := (ds.map lextOf).foldl (· * ·) 1
  nd != 0 && (decide (4 < nd ∨ 8 < bits (w 0) 23 20 ∨ im.vtiles < bits (w 0) 15 0 + owners) ||
    (ds.any fun x => bits x 15 0 == 0 || bits x 31 16 == 0 || bits x 47 32 == 0) ||
    !k.fillable (bits (w 0) 44 24) (2 ^ bits (w 0) 23 20 * lext))

/-- 0x05: the tile section, the tables and the `.fetch` entries. -/
def Corridor.fillsBad (k : Corridor) (im : Image) : Bool :=
  (im.tile.any fun r => !k.fillable r.1 r.2.length) || (im.dtabs.any fun p => k.tableBad im p.2) ||
    decide (64 < im.fetch.length) ||
    (im.fetch.any fun f =>
      bits f.1 63 62 != 2 || bits f.1 61 48 != 0 || bits f.1 11 0 != 0 || decide (f.2.1 % 64 ≠ 0 ∨ f.2.2 < 1 ∨ 32 < f.2.2) ||
        !k.fillable f.2.1 (4096 * f.2.2))

/-- Strictly ascending. -/
def ascending : List Nat → Bool
  | a :: b :: r => decide (a < b) && ascending (b :: r)
  | _ => true

/-- The programmable tiles of a die (R14, R15). -/
def State.programmable (s : State) (d : Nat) : List Nat :=
  (dieTiles d).filter s.isProgrammable

/-- The dies that a launch may use. -/
def Corridor.dieSet (s : State) (k : Corridor) : List Nat :=
  let m := bits (k.word 13) 3 0
  (survivors s).filter fun d => !(s.die d).draining && (m == 0 || bit (k.word 13) d)

/-- 0x08: the planes. -/
def State.planesBad (s : State) (k : Corridor) (im : Image) : Bool :=
  let first := bits (k.word 13) 13 4
  let count := bits (k.word 13) 24 14
  count == 0 || decide (im.z < first + count) ||
    decide (((k.dieSet s).filter fun d => decide (im.plane ≤ (s.programmable d).length)).length < count)

/-- A corridor number is in use: live, waiting in the launch table, or with a completion still to post. -/
def Corridor.inUse (k : Corridor) : Bool :=
  k.completion.isSome ||
    match k.state with
    | .waiting => true
    | .running => true
    | .stopping => true
    | .swapped => true
    | .exported => true
    | _ => false

/-- How a check of a record ends that does not pass: with a refusal code, or with what has to be asked first. -/
inductive Verdict where
  | refuse (code : Nat)
  | ask (a : Ask)
  deriving DecidableEq, Repr

/-- A range of a record has to be mapped writable, else the code refuses it. -/
def State.needWritable (s : State) (t : Taken) (va n : Nat) (imm : Bool) (code : Nat) : Except Verdict Unit :=
  match s.mappedWritable t.pasid t.ctx va n imm with
  | .ok true => .ok ()
  | .ok false => .error (.refuse code)
  | .error a => .error (.ask a)

/-- The first failing check of R313, else the image. -/
def State.launchCheck (s : State) (t : Taken) : Except Verdict Image :=
  let w (n : Nat) : Word := t.words.getD n 0
  let k : Corridor := { Corridor.reset with record := t.words }
  let no (n : Nat) : Except Verdict Image := .error (.refuse n)
  if recordBad t.words then no 0x01
  else
    match s.readImage t.pasid t.ctx (bits (w 3) 47 0) with
    | .error none => no 0x03
    | .error (some a) => .error (.ask a)
    | .ok im =>
      if im.shapeBad then no 0x02
      else if 30 < bits (w 2) 4 0 ∨ bits (w 2) 12 8 = 0 ∨ 31 < bits (w 2) 4 0 + bits (w 2) 12 8 ∨ k.codeLen = 0 ∨
          k.codeBase < k.grantBase ∨ k.grantBase + k.grantLen < k.codeBase + k.codeLen ∨ k.codeLen < im.code.length then
        no 0x04
      else if k.fillsBad im then no 0x05
      else if 256 < im.live.length ∨ !ascending (im.live.map Live.pc) then no 0x06
      else if (List.range (bits (w 12) 23 12)).any fun i =>
          let q := bits (w 12) 11 0 + i
          decide (4096 ≤ q) || (KMap.getD s.host.sendQueues q SendQueue.reset).owner != t.fn then no 0x07
      else if s.planesBad k im then no 0x08
      else do
        s.needWritable t (bits (w 4) 47 0) (64 * 2 ^ bits (w 4) 51 48) false 0x09
        if bits (w 5) 47 0 != 0 then s.needWritable t (bits (w 5) 47 0) (256 * im.stages) false 0x09
        s.needWritable t (bits (w 6) 47 0) 16 true 0x09
        if ((KMap.get? s.corridors (bits (w 0) 63 32)).map Corridor.inUse).getD false then no 0x0A else .ok im

/-! ### Records taken (R309, R313, R325) -/

/-- A taken record leaves the table. -/
def State.dropTaken (s : State) (n : Nat) : State := s.onHost fun h => { h with taken := listRemove h.taken n }

/-- A record is refused: its completion is posted. -/
def State.refuse (s : State) (t : Taken) (code : Nat) : State := s.postFor t (completionWords 2 (BitVec.ofNat 8 code) 0 0 0)

/-- A checked launch waits for tiles, in the order in which its record was taken (R306). -/
def Taken.waiting (t : Taken) (image : Image) : Corridor :=
  { Corridor.reset with
    state := .waiting, record := t.words, image, queue := t.queue, fn := t.fn, pasid := t.pasid, ctx := t.ctx
    priority := min (bits (t.words.getD 0 0) 20 19) t.qprio, serial := t.order }

/-- `LAUNCH` (R313): record n is checked; one that passes waits for tiles. -/
def execLaunch (n : Nat) (s : State) : Out :=
  .next (match s.host.taken[n]? with
    | none => s
    | some t =>
      let kind := bits (t.words.getD 0 0) 7 0
      let u := (s.dropTaken n).forgetPages t.pasid
      if kind = 2 ∨ kind = 3 then s
      else
        match s.launchCheck t with
        | .error (.ask a) => s.ask a
        | .error (.refuse code) => u.refuse t code
        | .ok image =>
          (u.noteReads t.pasid t.ctx (bits (t.words.getD 3 0) 47 0) image.size).setCor (bits (t.words.getD 0 0) 63 32) (t.waiting image))

/-- Bits of a PREEMPT or RESUME record that must be zero. -/
def requestBad (ws : List Word) : Bool :=
  let w (n : Nat) : Word := ws.getD n 0
  let preempt := bits (w 0) 7 0 == 2
  bits (w 0) 15 8 != 1 || anySet ws [(0, 18, 16), (0, 31, 21), (1, 63, 2), (6, 63, 48)] ||
    (!preempt && (bits (w 0) 20 19 != 0 || w 1 != 0)) || (preempt && bits (w 1) 1 0 == 3) ||
    ([2, 3, 4, 5].any fun i => w i != 0) || ((ws.drop 7).any fun x => x != 0) || bits (w 6) 3 0 != 0

/-- The check of a request record: its form, its completion_va, its target. -/
def State.requestCheck (s : State) (t : Taken) (fit : CorState → Bool) : Except Verdict Unit := do
  let w (n : Nat) : Word := t.words.getD n 0
  let k := s.cor (bits (w 0) 63 32)
  if requestBad t.words then .error (.refuse 0x01)
  s.needWritable t (bits (w 6) 47 0) 16 true 0x09
  if (KMap.get? s.corridors (bits (w 0) 63 32)).isNone || k.pasid != t.pasid || !fit k.state then .error (.refuse 0x0B)

/-- A host PREEMPT against a corridor that stands swapped out is carried out at once. -/
def State.preemptStopped (s : State) (c : Nat) (t : Taken) (kill : Bool) : State :=
  let s := s.reportRecord c t
  if kill then s.setCor c { s.cor c with state := .killed, completion := some (completionWords 3 0 0 0 0) }
  else s.setCor c { s.cor c with hostHeld := true }

/-- Record n, of some kind, is checked and then carried out, refused, or waits for what it asks. -/
def State.withRecord (s : State) (n kind : Nat) (fit : CorState → Bool) (go : Taken → Nat → State → State) : State :=
  match s.host.taken[n]? with
  | none => s
  | some t =>
    let w0 := t.words.getD 0 0
    let u := (s.dropTaken n).forgetPages t.pasid
    if bits w0 7 0 ≠ kind then s
    else
      match s.requestCheck t fit with
      | .error (.ask a) => s.ask a
      | .error (.refuse code) => u.refuse t code
      | .ok _ => go t (bits w0 63 32) u

/-- `PREEMPT` (R309, R322, R325). -/
def execPreempt (n : Nat) (s : State) : Out :=
  .next (s.withRecord n 2 (fun x => x == .running || x == .stopping || x == .swapped || x == .exported) fun t c u =>
    let mode := bits (t.words.getD 1 0) 1 0
    if (s.cor c).live then
      u.request c ⟨mode == 1, mode == 2, min (bits (t.words.getD 0 0) 20 19) t.qprio, some t, s.clock, false⟩
    else u.preemptStopped c t (mode == 2))

/-- `RESUME` (R309, R323, R325). -/
def execResume (n : Nat) (s : State) : Out :=
  .next (s.withRecord n 3 (fun x => x == .swapped || x == .exported) fun t c u =>
    u.setCor c { u.cor c with resumeReqs := (u.cor c).resumeReqs ++ [t], hostHeld := false })

end Sys2Proof.Machine
end

