-- ==== Sys2Proof/Machine/EvPlace.lean ====
section
/-! DEFINITION. Placing a corridor on tiles and starting its strands (R102, R306, R314, R318 to R320, R322, R338). -/

namespace Sys2Proof.Machine

/-! ### Which tiles a corridor can take (R318, R319, R370) -/

/-- The corridors that hold a tile. -/
def State.residents (s : State) (p : Nat) : List Nat :=
  distinct ((s.vtiles.filter fun v => v.2.phys == p).map fun v => v.1.1)

/-- Two granted ranges share a byte. -/
def Corridor.overlaps (a b : Corridor) : Bool :=
  decide (a.grantBase < b.grantBase + b.grantLen ∧ b.grantBase < a.grantBase + a.grantLen)

/-- A tile has a place for a vtile of corridor c: it is open, and free of others or shared as R319 allows. -/
def State.takes (s : State) (c : Nat) (k : Corridor) (p : Nat) : Bool :=
  let t := s.tile p
  !t.fenced && !t.closed && !t.testing &&
    (match (s.residents p).filter (· != c) with
     | [] => true
     | [r] => k.shareable && (s.cor r).shareable && !k.overlaps (s.cor r)
     | _ => false)

/-- The residency index that a vtile of corridor c gets on a tile: the one that no other corridor has there. -/
def State.freeResid (s : State) (c p : Nat) : Nat :=
  if s.vtiles.any fun v => v.2.phys == p && v.1.1 != c && v.2.resid == 0 then 1 else 0

/-- The tiles of a die that corridor c can take, ascending. -/
def State.roomOn (s : State) (c : Nat) (k : Corridor) (d : Nat) : List Nat := (s.programmable d).filter (s.takes c k)

/-- The first plane and the number of planes of a record. -/
def Corridor.firstPlane (k : Corridor) : Nat := bits (k.word 13) 13 4
def Corridor.planeCount (k : Corridor) : Nat := bits (k.word 13) 24 14

/-- The vtiles of a corridor that lie on this package, ascending. -/
def Corridor.ownVts (k : Corridor) : List Nat :=
  (List.range (k.planeCount * k.image.plane)).map (k.firstPlane * k.image.plane + ·)

/-- The tiles that the depot chooses, one for each vtile in ascending order: the lowest dies and tiles with room, one die
for each plane.  The choice is the depot's (assumption 26). -/
def State.findPlace (s : State) (c : Nat) (k : Corridor) : Option (List Nat) :=
  let n := k.image.plane
  let ds := (k.dieSet s).filter fun d => decide (n ≤ (s.roomOn c k d).length)
  if ds.length < k.planeCount then none
  else some ((ds.take k.planeCount).flatMap fun d => (s.roomOn c k d).take n)

/-- The dies of the planes of a place. -/
def planeDies (n : Nat) (place : List Nat) : List Nat → List (List Nat)
  | [] => []
  | i :: r => (((place.drop (n * i)).take n).map fun p => p / 144) :: planeDies n place r

/-- A list of tiles is a place that R318 and R319 allow. -/
def State.placeOk (s : State) (c : Nat) (k : Corridor) (place : List Nat) : Bool :=
  let n := k.image.plane
  let ds := planeDies n place (List.range k.planeCount)
  place.length == n * k.planeCount && (distinct place).length == place.length &&
    (place.all fun p => (s.programmable (p / 144)).contains p && (k.dieSet s).contains (p / 144) && s.takes c k p) &&
    (ds.all fun l => (distinct l).length == 1) && (distinct (ds.map fun l => l.headD 0)).length == k.planeCount

/-! ### Sharing issue slots (R320) -/

/-- The corridors that share a tile with corridor c and with it need more than four strand slots. -/
def State.rivals (s : State) (c : Nat) : List Nat :=
  let mine := (s.vtiles.filter fun v => v.1.1 == c).map fun v => v.2.phys
  distinct ((s.vtiles.filter fun v =>
    v.1.1 != c && mine.contains v.2.phys &&
      decide (4 < (s.cor c).image.strands + (s.cor v.1.1).image.strands)).map fun v => v.1.1)

/-- Another corridor holds the strand slots that corridor c needs. -/
def State.outrun (s : State) (c : Nat) : Bool := (s.rivals c).any fun r => (s.cor r).live

/-! ### One tile (R314 steps 2 and 3) -/

/-- Bytes are made committed contents of a tile. -/
def Tile.put (t : Tile) (off : Nat) (bs : List Byte) : Tile := { t with mem := Mem.write t.mem off bs }

/-- A range of a tile is emptied: zeros, no error, no dirty bit. -/
def Tile.wipe (t : Tile) (off n : Nat) : Tile :=
  { t with
    mem := Mem.clear t.mem off n
    poison := t.poison.filter fun w => !decide (off ≤ w ∧ w < off + n)
    dirty := t.dirty.filter fun l => !decide (off ≤ 256 * l ∧ 256 * l < off + n) }

/-- The parts of the system area that belong to a residency index: record slots, sequencer save area, mailbox entries,
liveness table, half of the control block (R95; assumption 27). -/
def systemParts (r : Nat) : List (Nat × Nat) :=
  [(0x1F0000 + 0x5900 * r, 0x5900), (0x1FB200 + 0x600 * r, 0x600), (0x1FBE00 + 0x400 * r, 0x400),
   (0x1FC600 + 0x1000 * r, 0x1000), (0x1FE600 + 0xD00 * r, 0xD00)]

/-- The corridor map entry of a vtile in its tile's control block: the physical tile (R20, R95). -/
def Tile.mapEntry (t : Tile) (r p : Nat) : Tile := { t with mem := Mem.write t.mem (0x1FE600 + 0xD00 * r + 48) (leBytes 8 p) }

/-- The control block of a vtile: granted range, code window, corridor, vtile, map entry, then from 0x100 the launch record
and from 0x500 the distribution tables (R95, R224); the spec names the contents and not their places (assumption 27). -/
def Corridor.controlBlock (k : Corridor) (c vt p : Nat) : List Byte :=
  let pad (n : Nat) (b : List Byte) : List Byte := (b ++ List.replicate n 0).take n
  pad 0x100 ([k.grantBase, k.grantLen, k.codeBase, k.codeLen, c, vt, p].flatMap (leBytes 8)) ++
    pad 0x400 ((k.record.take 32).flatMap fun w => leBytes 8 w.toNat) ++
    (List.range 32).flatMap fun t => pad 64 ((KMap.getD k.image.dtabs t []).flatMap fun w => leBytes 8 w.toNat)

/-- A tile as a launch fills it. -/
def Tile.loaded (t : Tile) (k : Corridor) (r c vt p : Nat) : Tile :=
  let t := t.wipe k.grantBase k.grantLen
  let t := (systemParts r).foldl (fun t a => t.wipe a.1 a.2) t
  let t := t.put k.codeBase k.image.code
  let t := k.image.tile.foldl (fun t a => t.put a.1 a.2) t
  let t := t.put (0x1FC600 + 0x1000 * r) (k.image.live.flatMap fun l => leBytes 16 l)
  t.put (0x1FE600 + 0xD00 * r) (k.controlBlock c vt p)

/-- The units of the image's `.fetch` entries. -/
def Image.fetchUnits (im : Image) (clock : Nat) : List FetchUnit :=
  (List.range im.fetch.length).flatMap fun i =>
    let f := im.fetch.getD i (0, 0, 0)
    Sys2Proof.Machine.fetchUnits i 0 (bits f.1 47 0) f.2.1 f.2.2 false f.1 clock

/-- The stage whose fetch list takes the `.fetch` entries on a vtile. -/
def Image.fetchStage (im : Image) (vt : Nat) : Nat := if im.holds vt 0 then 0 else im.receiver vt

/-- A vtile comes to a tile. -/
def State.loadTile (s : State) (c vt p : Nat) : State :=
  let k := s.cor c
  let im := k.image
  let r := s.freeResid c p
  let s := s.setTile p ((s.tile p).loaded k r c vt p)
  let s := s.setVtile c vt ⟨p, r, SeqCtx.reset, (List.range im.stages).map fun st => (st, 0)⟩
  (im.stagesOn vt).foldl (fun s st =>
    s.setStageTile c vt st { StageTile.reset with staged := if st = im.fetchStage vt then im.fetchUnits s.clock else [] }) s

/-- A strand at its entry, with the arguments in s1 to s4, and its launch record (R102, R338). -/
def State.bornStrand (s : State) (id : StrandId) (st entry : Nat) : State :=
  let k := s.cor id.cor
  let pc0 : Word := BitVec.ofNat 64 entry
  let s := s.setStrand id { Strand.reset with stage := st }
  let pc1 := s.after id pc0
  let pc2 := s.after id pc1
  let x := (List.range 4).foldl (fun x i => x.writeS (BitVec.ofNat 5 (i + 1)) (k.word (8 + i)))
    { Strand.reset with stage := st, pc0, pc1, pc2 }
  (s.setStrand id x).writeRecord id x 0 pc0 pc1 pc2 (Live.all 0xFFFFFFFF) true

/-- The strands of a vtile. -/
def State.bornOn (s : State) (c vt : Nat) : State :=
  let im := (s.cor c).image
  (List.range im.strands).foldl (fun s sl =>
    match im.stageOf vt sl with
    | some st => s.bornStrand ⟨c, vt, sl⟩ st ((im.entries[sl]?).map Entry.pc |>.getD 0)
    | none => s) s

/-! ### Starting (R314 step 4, R318, R320) -/

/-- The strands of a corridor start where every plane is placed and no corridor holds their slots; with a corridor in the
way it stands swapped out until its turn, and on a path declared failed it halts (R348).  Those of a stage that has stopped stay
so. -/
def State.start (s : State) (c : Nat) : State :=
  if !s.planesKnown c then s
  else if !s.lightway.failedPairs.isEmpty && (s.haltFailed.cor c).completion.isSome then s.haltFailed
  else if s.outrun c then s.setCor c { s.cor c with state := .swapped }
  else
    let ids := (s.strands.filter fun p =>
      p.1.cor == c && p.2.status == .parked && (s.stage c p.2.stage).phase != .stopped).map Prod.fst
    let s := ids.foldl (fun s id => s.onStrand id fun x => { x with status := s.statusOf c x }) s
    ids.foldl State.haltPending s

/-- The packages that this one tells of the planes it has placed: those it has learned of (assumption 18). -/
def State.peersOf (s : State) (c : Nat) : List Nat :=
  (distinct (s.fabric.epochs.map Prod.fst ++ (s.fabric.planes.filter fun p => p.1.2.1 == c).map Prod.snd)).filter
    (· != s.fabric.pkg)

/-- The planes of a corridor on this package are announced to others, who are asked for theirs where `back` is set; none
while a link to them is not free. -/
def State.announce (s : State) (c : Nat) (pkgs : List Nat) (back : Bool) : Option State :=
  let k := s.cor c
  let j : Junc := { s.plain c 0 32 with mm := BitVec.ofNat 64 k.firstPlane, pending := k.planeCount, cont := back }
  if k.planeCount = k.image.z then some s
  else pkgs.foldl (fun acc p => acc.bind fun s => s.openTrans p .jct c 0 j.bytes.length 0 j.bytes (.junction c 0)) (some s)

/-- Planes of a corridor on a package are recorded, under its fabric group (R308, R318). -/
def State.notePlanes (s : State) (group c pkg first count : Nat) : State :=
  { s with fabric := { s.fabric with
      planes := (List.range count).foldl (fun m i => KMap.set m (group, c, first + i) pkg) s.fabric.planes } }

/-- Corridors that share strand slots alternate from now on (R320). -/
def State.alternate (s : State) (c : Nat) : State :=
  let rs := s.rivals c
  (if rs.isEmpty then rs else c :: rs).foldl (fun s r => s.setCor r { s.cor r with alternate := true }) s

/-- A waiting corridor is placed on a list of tiles, once the packages that hold its other planes can be told. -/
def State.launchOn (s : State) (c : Nat) (place : List Nat) : State :=
  let k := s.cor c
  match s.announce c (s.peersOf c) true with
  | none => s
  | some s =>
    let vts := k.ownVts
    let s := (List.range vts.length).foldl (fun s i => s.loadTile c (vts.getD i 0) (place.getD i 0)) s
    let s := vts.foldl (fun s vt => s.bornOn c vt) s
    let s := (List.range k.image.stages).foldl (fun s st => s.setStage c st Stage.reset) s
    let s := (List.range k.image.stages).foldl (fun s st => s.onStage c st fun g => { g with phase := s.firstPhase c st }) s
    let s := s.notePlanes k.group c s.fabric.pkg k.firstPlane k.planeCount
    let s := { s with depot := { s.depot with images := s.depot.images.filter fun i => i.cor != c } }
    ((s.setCor c { s.cor c with state := .running, sliceFrom := s.clock }).alternate c).start c

/-! ### The order of launches, and what a launch without tiles asks for (R306, R322) -/

/-- Corridor a comes before corridor b among waiting launches. -/
def Corridor.before (a b : Corridor) : Bool :=
  decide (b.priority < a.priority ∨ (a.priority = b.priority ∧ a.serial < b.serial))

/-- A waiting launch that comes before corridor c fits the free tiles, or one has been taken and has still to be checked. -/
def State.overtaken (s : State) (c : Nat) : Bool :=
  (s.corridors.any fun p =>
    p.1 != c && p.2.state == .waiting && p.2.before (s.cor c) && (s.findPlace p.1 p.2).isSome) ||
  s.host.taken.any fun t => bits (t.words.getD 0 0) 7 0 != 2 && bits (t.words.getD 0 0) 7 0 != 3 &&
    (t.waiting Image.reset).before (s.cor c)

/-- The running corridor of the lowest priority below p, the oldest among equals. -/
def State.weakest (s : State) (p : Nat) : Option Nat :=
  ((s.corridors.filter fun e => e.2.live && decide (e.2.priority < p)).foldl (fun a e =>
    match a with
    | some b => if e.2.priority < b.2.priority ∨ (e.2.priority = b.2.priority ∧ e.2.serial < b.2.serial) then some e else a
    | none => some e) (none : Option (Nat × Corridor))).map Prod.fst

/-- A launch of priority p without free tiles asks the weakest corridor to stop, one at a time. -/
def State.pressFor (s : State) (p : Nat) : State :=
  if p = 0 || s.corridors.any (fun e => e.2.live && e.2.requests.any fun r => r.press && r.cls == p) ||
      s.corridors.any (fun e => e.2.state == .swapped && !e.2.alternate) then s
  else
    match s.weakest p with
    | none => s
    | some v => s.request v ⟨p == 3, false, p, none, s.clock, true⟩

/-- `LAUNCH_PLACE` (R306, R314, R318, R322). -/
def execLaunchPlace (c : Nat) (s : State) : Out :=
  let k := s.cor c
  .next (if k.state ≠ .waiting || (KMap.get? s.corridors c).isNone || k.completion.isSome || s.overtaken c then s
    else
      match s.findPlace c k with
      | some place => s.launchOn c place
      | none => s.pressFor k.priority)

end Sys2Proof.Machine
end

