-- ==== Sys2Proof/Machine/Survive.lean ====
section
/-! DEFINITION. Images of a stopped corridor and their import: full and delta, chains, digests, replicas (R340, R342,
R380). -/

namespace Sys2Proof.Machine

/-! ### Taking an image (R96, R342) -/

/-- The 256-byte lines of a corridor's granted range, by their index in it. -/
def Corridor.grantLines (k : Corridor) : List Nat := List.range (k.grantLen / 256)

/-- The digest of a vtile's granted range. -/
def State.digestOf (s : State) (c vt : Nat) : Word :=
  let k := s.cor c
  crc64 0 (Mem.readN (s.tile (s.phys c vt)).mem k.grantBase k.grantLen)

/-- The lines of a vtile that an image holds: all, or those whose dirty bit is set. -/
def State.imageLines (s : State) (c vt : Nat) (full : Bool) : List (Nat × List Byte) :=
  let k := s.cor c
  let t := s.tile (s.phys c vt)
  (k.grantLines.filter fun i => full || t.dirty.contains (k.grantBase / 256 + i)).map fun i =>
    (i, Mem.readN t.mem (k.grantBase + 256 * i) 256)

/-- The corridor's parts of a tile's system area. -/
def State.imageSystem (s : State) (c vt : Nat) : List (Nat × List Byte) :=
  let t := s.tile (s.phys c vt)
  (List.range 5).map fun i =>
    let a := (systemParts (s.vtile c vt).resid).getD i (0, 0)
    (i, Mem.readN t.mem a.1 a.2)

/-- The images of a corridor, in the order in which they were taken. -/
def State.imagesOf (s : State) (c : Nat) : List Survival := s.depot.images.filter fun i => i.cor == c

/-- The places of the full images in a list. -/
def fullPlaces (l : List Survival) : List Nat := (List.range l.length).filter fun i => (l[i]?.map Survival.full).getD false

/-- The list from its nth last full image on. -/
def fromFull (n : Nat) (l : List Survival) : List Survival :=
  match (fullPlaces l).reverse[n]? with
  | some i => l.drop i
  | none => l

/-- The parts of an image as the depot lays them out: the header of 256 bytes, then for each vtile, under its number, a header of 64
bytes, its lines, its system part and its cross-stage part (R342).  The spec names what stands in them; the places inside the
headers and of the cross-stage part are the model's (assumption 84). -/
def Survival.parts (i : Survival) : List (Option Nat × List Byte) :=
  let words (l : List Nat) : List Byte := l.flatMap (leBytes 8)
  let pad (n : Nat) (b : List Byte) : List Byte := (b ++ List.replicate n 0).take n
  (none, pad 256 (words ([if i.full then 0 else 1, i.cor, i.serial, i.base, i.digests.length, i.marks.length] ++
      i.marks.map BitVec.toNat))) ::
    i.digests.map fun d =>
      let ls := KMap.getD i.lines d.1 []
      let x := ((i.cross.find? fun e => e.1 == d.1).map Prod.snd).getD ([], [])
      (some d.1, pad 64 (words [d.1, ls.length, d.2.toNat]) ++
        (ls.flatMap fun l => leBytes 4 l.1 ++ leBytes 4 0 ++ l.2) ++
        ((KMap.getD i.system d.1 []).flatMap Prod.snd) ++
        leBytes 8 x.1.length ++
        (x.1.flatMap fun e => words [e.stage, e.mm.toNat, e.vt, e.slot, e.seq, e.bytes.length] ++
          e.bytes.flatMap fun p => leBytes 4 p.1 ++ [p.2]) ++
        words ((List.range 16).map fun st => (KMap.getD x.2 st 0).toNat))

/-- The bytes of an image. -/
def Survival.bytes (i : Survival) : List Byte := i.parts.flatMap Prod.snd

/-- The parts of an image whose bytes far memory does not hold any more as they were written, from an address on. -/
def State.changedParts (s : State) : Nat → List (Option Nat × List Byte) → List (Option Nat)
  | _, [] => []
  | a, p :: r =>
    (if Mem.readN s.far.mem a p.2.length == p.2 && !poisoned s.far.poison a p.2.length then [] else [p.1]) ++
      s.changedParts (a + p.2.length) r

/-- The vtiles whose part of an image has changed in its save area: all of them with the header. -/
def State.changedIn (s : State) (i : Survival) : List Nat :=
  let l := s.changedParts i.place i.parts
  if l.contains none then i.digests.map Prod.fst else l.filterMap id

/-- The depot takes an image of a stopped corridor, a full one first and deltas after it, writes it to its save area in far memory, and
clears the dirty bits of the corridor's ranges; none while no die has room for it.  The place is behind all that is in use in the
single-home pool of the lowest die that has room: the spec leaves it to the depot (assumption 95).  The last full image and its
deltas are kept (R339, R342, R380). -/
def State.takeImage (s : State) (c : Nat) : Option State :=
  let k := s.cor c
  let old := s.imagesOf c
  let full := old.isEmpty
  let last := (old.getLast?.map Survival.serial).getD 0
  let im : Survival := {
    cor := c, full, serial := last + 1, base := if full then last + 1 else last
    marks := (List.range k.image.stages).map fun st => (s.stage c st).mm
    digests := k.ownVts.map fun vt => (vt, s.digestOf c vt)
    lines := k.ownVts.map fun vt => (vt, s.imageLines c vt full)
    system := k.ownVts.map fun vt => (vt, s.imageSystem c vt)
    cross := k.ownVts.map fun vt => (vt, (s.stageTile c vt (k.image.receiver vt)).crossIn, (s.vtile c vt).delivered)
    raw := [], place := 0, broken := [] }
  let im := { im with raw := im.bytes }
  (s.roomOf ((survivors s).filter fun d => !(s.die d).draining) im.area s.usedFrames).map fun (place : Nat) =>
    let s := { s with depot := { s.depot with
        images := (s.depot.images.filter fun (i : Survival) => i.cor != c) ++ fromFull 0 (old ++ [{ im with place := place }]) } }
    let s := s.farWrite place im.raw
    k.ownVts.foldl (fun s vt =>
      let p := s.phys c vt
      let t := s.tile p
      s.setTile p { t with dirty := t.dirty.filter fun l => !decide (k.grantBase ≤ 256 * l ∧ 256 * l < k.grantBase + k.grantLen) }) s

/-! ### Chains (R342, R380) -/

/-- A delta follows the image before it. -/
def chained : List Survival → Bool
  | a :: b :: r => !b.full && b.base == a.serial && chained (b :: r)
  | _ => true

/-- The complete chain that a layer holds: its last full image and the deltas up to the newest serial. -/
def chainOf (newest : Nat) (l : List Survival) : Option (List Survival) :=
  let ch := fromFull 0 l
  match ch, ch.getLast? with
  | a :: _, some z => if a.full && a.base == a.serial && z.serial == newest && chained ch then some ch else none
  | _, _ => none

/-- The layers in the order in which a restore tries them: the save area as far memory holds it, flash, and the store outside the
device (R380). -/
def State.layers (s : State) (c : Nat) : List (List Survival) :=
  let l := s.imagesOf c
  let newest := (l.getLast?.map Survival.serial).getD 0
  let of (m : List Survival) : List Survival := m.filter fun i => i.cor == c
  [l.map fun i => { i with broken := s.changedIn i }, of s.depot.flash, of s.depot.store].filterMap (chainOf newest)

/-! ### Importing (R340, R342, R380) -/

/-- The bytes that a chain gives a vtile's granted range, as writes at offsets of the range, in order. -/
def chainLines (ch : List Survival) (vt : Nat) : List (Nat × List Byte) :=
  ch.flatMap fun i => ((KMap.getD i.lines vt []).map fun l => (256 * l.1, l.2))

/-- A tile with a chain's contents of a vtile in it, at a residency index. -/
def Tile.imported (t : Tile) (k : Corridor) (r vt : Nat) (ch : List Survival) : Tile :=
  let t := t.wipe k.grantBase k.grantLen
  let t := (systemParts r).foldl (fun t a => t.wipe a.1 a.2) t
  let t := (chainLines ch vt).foldl (fun t l => t.put (k.grantBase + l.1) l.2) t
  match ch.getLast? with
  | none => t
  | some z => (KMap.getD z.system vt []).foldl (fun t p => t.put ((systemParts r).getD p.1 (0, 0)).1 p.2) t

/-- The contents that the chain gives a vtile have the digest of its last image; bytes that have changed since they were written do
not (assumption 95). -/
def digestOk (k : Corridor) (vt : Nat) (ch : List Survival) : Bool :=
  !(ch.any fun i => i.broken.contains vt) &&
  match ch.getLast? with
  | none => false
  | some z =>
    let t := Tile.imported Tile.reset k 0 vt ch
    KMap.get? z.digests vt == some (crc64 0 (Mem.readN t.mem k.grantBase k.grantLen))

/-- The replica group of a corridor. -/
def Corridor.replicaGroup (k : Corridor) : Nat := bits (k.word 13) 63 48

/-- The images of this package's live corridors of a replica group at some mile markers. -/
def State.replicas (s : State) (g : Nat) (marks : List Word) : List Survival :=
  if g = 0 then []
  else s.depot.images.filter fun i => i.marks == marks && (s.cor i.cor).inUse && (s.cor i.cor).replicaGroup == g

/-- Their digests. -/
def State.replicasIn (s : State) (g : Nat) (marks : List Word) : List (KMap Nat Word) := (s.replicas g marks).map Survival.digests

/-- The digests that the replicas of a corridor hold at the same mile markers, on this package and as other packages' depots have
answered. -/
def State.replicaDigests (s : State) (c : Nat) (marks : List Word) : List (KMap Nat Word) :=
  (((s.replicas (s.cor c).replicaGroup marks).filter fun i => i.cor != c).map Survival.digests) ++
    (s.fabric.digests.filter fun d => d.1.1 == c).filterMap Prod.snd

/-- The packages that have still to be asked, or to answer, for the digests of a corridor's replicas: all that this one has learned
of (R380; assumption 18). -/
def State.digestsDue (s : State) (c : Nat) : List Nat :=
  if (s.cor c).replicaGroup = 0 then []
  else (distinct (s.fabric.epochs.map Prod.fst)).filter fun p => p != s.fabric.pkg && (KMap.get? s.fabric.digests (c, p)).isNone

/-- The depots of packages are asked, where they have not been, for the digests of a corridor's replicas at its last image's mile
markers. -/
def State.askDigests (s : State) (c : Nat) : State :=
  let marks := ((s.imagesOf c).getLast?.map Survival.marks).getD []
  (s.digestsDue c).foldl (fun s p =>
    if s.fabric.open_.any fun t => t.use == .digests c p then s
    else (s.openTrans p .rd (s.cor c).replicaGroup 0 0 4 (marks.flatMap fun w => leBytes 8 w.toNat) (.digests c p)).getD s) s

/-- The answers for a corridor's replicas are forgotten. -/
def State.forgetDigests (s : State) (c : Nat) : State :=
  s.onFabric fun b => { b with digests := b.digests.filter fun d => d.1.1 != c }

/-- Every replica that answers agrees with the image's digests. -/
def State.replicasAgree (s : State) (c : Nat) (z : Survival) : Bool :=
  (s.replicaDigests c z.marks).all fun d => z.digests.all fun p =>
    match KMap.get? d p.1 with | some w => w == p.2 | none => true

/-- The first layer whose chain passes, and the vtiles whose contents failed a layer before it. -/
def State.pickLayer (s : State) (c : Nat) (k : Corridor) : List (List Survival) → Option (List Survival) × List Nat
  | [] => (none, [])
  | ch :: r =>
    let bad := k.ownVts.filter fun vt => !digestOk k vt ch
    let agree := match ch.getLast? with | some z => s.replicasAgree c z | none => false
    if bad.isEmpty && agree then (some ch, [])
    else
      let q := s.pickLayer c k r
      (q.1, bad ++ q.2)

end Sys2Proof.Machine
end

