-- ==== Sys2Proof/Machine/EvSwap.lean ====
section
/-! DEFINITION. Pre-emption carried out: alternation, escalation, immediate and kill requests, swapping out, resumption and
migration (R320, R322 to R325, R339 to R341, R380). -/

namespace Sys2Proof.Machine

/-! ### Requests (R320, R322 to R325) -/

/-- `SLICE_EXPIRY` (R320): a drain of class 0, where the other corridor is ready. -/
def execSliceExpiry (c : Nat) (s : State) : Out :=
  let k := s.cor c
  .next (if k.alternate && k.live && k.requests.isEmpty &&
      (s.rivals c).any (fun r => (s.cor r).state == .swapped && !(s.cor r).hostHeld) then
      s.request c ⟨false, false, 0, none, s.clock, false⟩
    else s)

/-- The slice of an alternating corridor is over: slice · 100 µs at 175,000 cycles of 1.75 GHz, 0 standing for 100 (R308,
R320). -/
def Corridor.sliceOver (k : Corridor) (clock : Nat) : Bool :=
  let n := bits (k.word 1) 23 16
  k.alternate && decide (k.sliceFrom + 175000 * (if n = 0 then 100 else n) ≤ clock)

/-- A drain that becomes immediate with the same class, unless R324 keeps it a drain. -/
def Corridor.escalate (k : Corridor) (r : Request) : Request :=
  if r.kill || k.guards r.cls then r else { r with immediate := true }

/-- `DRAIN_TIMEOUT` (R308, R323, R324): with drain_timeout 0 a drain never escalates. -/
def execDrainTimeout (c : Nat) (s : State) : Out :=
  let k := s.cor c
  .next (if bits (k.word 1) 15 8 = 0 then s else s.setCor c { k with requests := k.requests.map k.escalate })

/-- `IMMEDIATE_PREEMPT` (R323, R325, R331): every strand of an undecided superstep stops with PREEMPT. -/
def execImmediatePreempt (c : Nat) (s : State) : Out :=
  let k := s.cor c
  .next (match k.struckBy with
    | none => s
    | some cls =>
      let sts := (List.range k.image.stages).filter fun st => !(s.stage c st).ended && (s.stage c st).undecided
      if !k.live || sts.isEmpty then s
      else
        let s := sts.foldl (fun s st => s.strike c st cls) s
        if k.haltedBy then s.depotEvent 1 else s)

/-- `KILL` (R323, R325). -/
def execKill (c : Nat) (s : State) : Out :=
  .next (if (s.cor c).live && (s.cor c).requests.any Request.kill then s.killNow c else s)

/-! ### Swapping out (R323, R339) -/

/-- Every stage has stopped or ended. -/
def State.stoppedAll (s : State) (c : Nat) : Bool :=
  (List.range (s.cor c).image.stages).all fun st => (s.stage c st).ended || (s.stage c st).phase == .stopped

/-- Everything that the corridor released has been performed and has arrived (R339 step 2). -/
def State.settled (s : State) (c : Nat) : Bool := s.corridorQuiet c && !(s.amoResults.any fun r => r.id.cor == c)

/-- A waiting launch finds no free tiles. -/
def State.starved (s : State) : Bool :=
  s.corridors.any fun p => p.2.state == .waiting && p.2.completion.isNone && (s.findPlace p.1 p.2).isNone

/-- Maintenance needs a tile of the corridor: it is closed or fenced, or its die drains. -/
def State.evicted (s : State) (c : Nat) : Bool :=
  (s.vtiles.filter fun v => v.1.1 == c).any fun v =>
    (s.tile v.2.phys).closed || (s.tile v.2.phys).fenced || (s.die (v.2.phys / 144)).draining

/-- A corridor that alternates with this one stands exported and finds no tiles (R320, R339). -/
def State.rivalWaits (s : State) (c : Nat) : Bool :=
  (s.cor c).alternate && s.corridors.any fun p =>
    p.1 != c && p.2.state == .exported && p.2.alternate && !p.2.hostHeld && (s.findPlace p.1 p.2).isNone

/-- The tiles of a resident stopped corridor are wanted (R339 step 3; assumption 55). -/
def State.wantsTiles (s : State) (c : Nat) : Bool := s.starved || s.evicted c || s.rivalWaits c

/-- A staged unit as it travels with its corridor: fetched anew unless it has landed, its bytes then being committed; the notice that it
owes is posted once its corridor runs again (R89). -/
def FetchUnit.anew (u : FetchUnit) : FetchUnit :=
  { u with posted := false, st := match u.st with | .landed f b => .landed f b | _ => .queued }

/-- The units of a corridor that have not landed, the marked ones, and those of entries that owe a notice (R89, R339). -/
def State.unfilled (s : State) (c : Nat) : List (Nat × Nat × FetchUnit) :=
  (s.stageTiles.filter fun p => p.1.1 == c).flatMap fun p =>
    (p.2.staged.filter fun u => u.notify || match u.st with | .landed _ _ => false | _ => true).map fun u =>
      (p.1.2.1, p.1.2.2, u.anew)

/-- The directory forgets what it holds for a corridor's staged units. -/
def State.forgetUnits (s : State) (c : Nat) : State :=
  (s.stageTiles.filter fun p => p.1.1 == c).foldl (fun s p => s.dropRecords c p.1.2.1 p.1.2.2 p.2.staged) s

/-- The vtiles of a corridor hold no tile: they stand at number 576, which no tile has. -/
def State.unplaced (s : State) (c : Nat) : State :=
  { s with vtiles := s.vtiles.map fun v => if v.1.1 = c then (v.1, { v.2 with phys := 576, resid := 0 }) else v }

/-- A resident stopped corridor is exported and its tiles are freed, once its image has been written. -/
def State.export_ (s : State) (c : Nat) : State :=
  let owed := s.unfilled c
  match s.takeImage c with
  | none => s
  | some s =>
  let s := s.forgetUnits c
  let gone := (s.strands.filter fun p => p.1.cor == c && p.2.status == .ended).map Prod.fst
  let s := { s.unplaced c with
    strands := s.strands.filter fun p => p.1.cor != c, stageTiles := s.stageTiles.filter fun p => p.1.1 != c }
  s.setCor c { s.cor c with state := .exported, owed, gone }

/-- The requests that a swap carries out are reported. -/
def State.reportAll (s : State) (c : Nat) (l : List Request) : State :=
  l.foldl (fun s r => match r.record with | some t => s.reportRecord c t | none => s) s

/-- `SWAP_OUT` (R323, R339): a corridor whose stages have stopped is swapped out once it has settled; one that stays
resident is exported when its tiles become wanted. -/
def execSwapOut (c : Nat) (s : State) : Out :=
  let k := s.cor c
  .next (match k.state with
    | .stopping =>
      if s.stoppedAll c && (s.ending c).isNone && s.settled c && !(k.requests.any Request.kill) then
        let s := (s.reportAll c k.requests).onHost fun h => { h with mapOrder := h.mapOrder + 1 }
        s.setCor c { s.cor c with
          state := .swapped, requests := [], hostHeld := k.requests.any fun r => r.record.isSome
          yielded := s.host.mapOrder }
      else s
    | .swapped => if k.resumeReqs.isEmpty && s.settled c && s.wantsTiles c then s.export_ c else s
    | _ => s)

/-! ### Resumption (R323, R324, R338 to R341) -/

/-- A strand starts from its record, which the first barrier judges (R341); before every package has placed its planes it waits
(R318). -/
def State.reviveStrand (s : State) (id : StrandId) : State :=
  let x := s.strand id
  s.setStrand id { x.restored_ (s.readRecord id) with
    status := if s.planesKnown id.cor then s.statusOf id.cor x else .parked
    restored := true, handles := [], serial := 0, stepping := false }

/-- Every strand of a corridor starts from its record, and the guard of R324 and the check of R341 begin; notices that were
owed are posted where their entries have filled (R89).  On a path declared failed the corridor halts (R348). -/
def State.revive (s : State) (c : Nat) : State :=
  let k := s.cor c
  let ids := (s.strands.filter fun p => p.1.cor == c && p.2.status != .ended).map Prod.fst
  let s := ids.foldl State.reviveStrand s
  let s := k.ownVts.foldl (fun s vt => (k.image.stagesOn vt).foldl (fun s st => s.rollSeq c st vt) s) s
  let s := (List.range k.image.stages).foldl (fun s st =>
    s.onStage c st fun g =>
      if g.ended then g else { g with phase := s.firstPhase c st, resumed := true, guarded := k.guardClass.isSome }) s
  let s := k.ownVts.foldl (fun s vt => (k.image.stagesOn vt).foldl (fun s st => s.startNotices c vt st) s) s
  let s := k.resumeReqs.foldl (fun s t => s.reportRecord c t) s
  let s := s.setCor c { s.cor c with
    state := .running, requests := [], resumeReqs := [], owed := [], gone := [], sliceFrom := s.clock }
  (ids.foldl State.haltPending s).haltFailed

/-- The committed source-0x02 entries that a tile keeps for a strand. -/
def State.loadMail (s : State) (id : StrandId) : State :=
  let t := s.tile (s.phys id.cor id.vt)
  let b := Mem.readN t.mem (0x1FBE00 + 256 * (4 * s.residOf id.cor id.vt + id.slot)) 256
  let es := (pieces 16 16 b).filter fun e => recordField e 0 8 != 0
  s.onStrand id fun x => { x with
    nextMail := es.length
    mailbox := (List.range es.length).map fun i =>
      let h := BitVec.ofNat 64 (recordField (es.getD i []) 0 8)
      ⟨BitVec.ofNat 16 (bits h 15 0), BitVec.ofNat 8 (bits h 23 16), BitVec.ofNat 8 (bits h 31 24),
        BitVec.ofNat 64 (recordField (es.getD i []) 8 8), i⟩ }

/-- A vtile of an exported corridor comes to a tile with the contents of a chain. -/
def State.importTile (s : State) (c vt p : Nat) (ch : List Survival) : State :=
  let k := s.cor c
  let im := k.image
  let r := s.freeResid c p
  let s := s.setTile p (((s.tile p).imported k r vt ch).mapEntry r p)
  let z := ch.getLast?
  let cross := (z.bind fun i => i.cross.find? fun e => e.1 == vt)
  let v := s.vtile c vt
  let s := s.setVtile c vt { v with phys := p, resid := r, delivered := (cross.map fun e => e.2.2).getD v.delivered }
  let s := (im.stagesOn vt).foldl (fun s st =>
    s.setStageTile c vt st { StageTile.reset with
      staged := (k.owed.filter fun o => o.1 == vt && o.2.1 == st).map fun o => o.2.2
      crossIn := if st = im.receiver vt then (cross.map fun e => e.2.1).getD [] else [] }) s
  (List.range im.strands).foldl (fun s sl =>
    match im.stageOf vt sl with
    | some st =>
      let status : Status := if k.gone.contains ⟨c, vt, sl⟩ then .ended else .parked
      (s.setStrand ⟨c, vt, sl⟩ { Strand.reset with stage := st, status }).loadMail ⟨c, vt, sl⟩
    | none => s) s

/-- The digest mismatches of a restore are charged to the receiving tiles (R369, R380). -/
def State.chargeTiles (s : State) (k : Corridor) (place bad : List Nat) : State :=
  bad.foldl (fun s vt => s.suspect (place.getD (vt - k.firstPlane * k.image.plane) 0) 256) s

/-- A resume that no layer passes is refused; the corridor remains swapped out. -/
def State.refuseResume (s : State) (c : Nat) : State :=
  if (s.cor c).resumeReqs.isEmpty then s
  else (s.refuseResumes c).setCor c { (s.refuseResumes c).cor c with hostHeld := true }

/-- An exported corridor is imported on a place and starts, with the circuits requested that its dies lack (R12, R340); the depots of
other packages are first asked for their replicas' digests (R380). -/
def State.importOn (s : State) (c : Nat) (place : List Nat) : State :=
  let k := s.cor c
  if !(s.digestsDue c).isEmpty then s.askDigests c
  else
  let pick := s.pickLayer c k (s.layers c)
  let s := (s.chargeTiles k place pick.2).forgetDigests c
  match pick.1 with
  | none => s.refuseResume c
  | some ch =>
    let vts := k.ownVts
    let s := (List.range vts.length).foldl (fun s i => s.importTile c (vts.getD i 0) (place.getD i 0) ch) s
    let s := (s.alternate c).requestCircuits (distinct (place.map (· / 144)))
    if s.outrun c then (s.setCor c { s.cor c with state := .swapped }).haltFailed else s.revive c

/-- Another corridor that shares the strand slots has been stopped for longer and can run (R320). -/
def State.givesWay (s : State) (c : Nat) : Bool :=
  (s.rivals c).any fun r =>
    (s.cor r).state == .swapped && !(s.cor r).hostHeld && decide ((s.cor r).yielded < (s.cor c).yielded) && !s.outrun r

/-- `CORRIDOR_RESUME` (R320, R323, R339, R380): in place where the corridor is resident, else on the place given, or on the one
that the depot finds where none is given.  A waiting launch that comes first takes the free tiles first (assumption 26), and one whose pages are
being evacuated waits (R378). -/
def execCorridorResume (c : Nat) (place : List Nat) (s : State) : Out :=
  let k := s.cor c
  .next (if k.hostHeld || s.awaitsOffline c then s
    else
      match k.state with
      | .swapped => if s.outrun c || s.givesWay c || (s.wantsTiles c && k.resumeReqs.isEmpty) then s else s.revive c
      | .exported =>
        if s.overtaken c then s
        else if place.isEmpty then
          match s.findPlace c k with
          | some p => s.importOn c p
          | none => s
        else if s.placeOk c k place then s.importOn c place
        else s
      | _ => s)

/-! ### Migration (R340) -/

/-- What a vtile takes along: the granted range, its errors and dirty bits, the system parts. -/
structure Carried where
  vt : Nat
  bytes : List Byte
  poison : List Nat
  dirty : List Nat
  system : List (List Byte)
  deriving DecidableEq, Repr

/-- The load of a vtile. -/
def State.carry (s : State) (c vt : Nat) : Carried :=
  let k := s.cor c
  let t := s.tile (s.phys c vt)
  let mine (a : Nat) : Bool := decide (k.grantBase ≤ a ∧ a < k.grantBase + k.grantLen)
  ⟨vt, Mem.readN t.mem k.grantBase k.grantLen, t.poison.filter mine, t.dirty.filter fun l => mine (256 * l),
   (systemParts (s.vtile c vt).resid).map fun a => Mem.readN t.mem a.1 a.2⟩

/-- The load is set down on a tile. -/
def State.setDown (s : State) (c : Nat) (x : Carried) (p : Nat) : State :=
  let k := s.cor c
  let r := s.freeResid c p
  let t := (s.tile p).wipe k.grantBase k.grantLen
  let t := t.put k.grantBase x.bytes
  let t := ((List.range 5).foldl (fun t i => t.put ((systemParts r).getD i (0, 0)).1 (x.system.getD i [])) t).mapEntry r p
  let s := s.setTile p { t with poison := t.poison ++ x.poison, dirty := t.dirty ++ x.dirty }
  s.setVtile c x.vt { s.vtile c x.vt with phys := p, resid := r }

/-- The staged units of a corridor that have not landed are fetched anew. -/
def State.requeue (s : State) (c : Nat) : State :=
  { s.forgetUnits c with
    stageTiles := s.stageTiles.map fun p => if p.1.1 = c then (p.1, { p.2 with staged := p.2.staged.map FetchUnit.anew }) else p }

/-- `MIGRATION` (R340, R341): a stopped, settled, resident corridor moves to other tiles, and the circuits that its new dies
lack are requested (R12). -/
def execMigration (c : Nat) (place : List Nat) (s : State) : Out :=
  let k := s.cor c
  .next (if k.state = .swapped ∧ s.settled c ∧ s.placeOk c k place then
      let s := s.requeue c
      let loads := k.ownVts.map (s.carry c)
      let s := s.unplaced c
      let s := (List.range loads.length).foldl (fun s i =>
        match loads[i]? with | some x => s.setDown c x (place.getD i 0) | none => s) s
      ((s.alternate c).requestCircuits (distinct (place.map (· / 144)))).haltFailed
    else s)

end Sys2Proof.Machine
end

