-- ==== Sys2Proof/Machine/EvDebug.lean ====
section
/-! DEFINITION. The debugger's acts: halt, state write, single step, resume (R343 to R345). -/

namespace Sys2Proof.Machine

/-- `HOST_HALT_REQUEST` (R343): refused unless the launch record's debug bit is set.
It sets the depot's event bit 4 (assumption 93). -/
def execHostHaltRequest (c : Nat) (s : State) : Out :=
  .next (if (s.cor c).debug && (s.cor c).live then (s.debugHalt c []).depotEvent 4 else s)

/-- A PC that the debugger may set: even and in the code window. -/
def Corridor.pcOk (k : Corridor) (pc : Word) : Bool := decide (pc.toNat % 2 = 0 ∧ pc.toNat < k.codeLen)

/-- The control registers that the debugger may write. -/
def debugCsr (n : BitVec 8) : Bool := decide ((8 ≤ n.toNat ∧ n.toNat ≤ 13) ∨ n.toNat = 16)

/-- `DEBUG_STATE_WRITE` (R344): written values take derived residues; an odd PC or one outside the window is refused. -/
def execDebugStateWrite (id : StrandId) (w : DebugWrite) (s : State) : Out :=
  .next (if (s.strand id).status ≠ .halted then s
    else
      match w with
      | .s r v => s.onStrand id fun x => x.putS r v (residue v)
      | .v r v => s.onStrand id fun x => x.putV r v
      | .d r b => s.onStrand id fun x => x.putD r (bytesDist b)
      | .p r v => s.onStrand id fun x => x.putP r v
      | .csr n v => if debugCsr n then { ({ s with cur := id } : State).csrStore n.toNat v with cur := s.cur } else s
      | .pcs a b c =>
        if [a, b, c].all (s.cor id.cor).pcOk then
          s.onStrand id fun x => { x with pc0 := a, pc1 := b, pc2 := c, rep := none, slots := 0 }
        else s
      | .annul a => s.onStrand id fun x => { x with annul := a })

/-- `SINGLE_STEP` (R345). -/
def execSingleStep (id : StrandId) (s : State) : Out :=
  .next (if (s.strand id).status = .halted then
      s.onStrand id fun x => { x with status := .running, stepping := true, halting := false, haltCode := none }
    else s)

/-- `DEBUG_RESUME` (R343): the halted strands run again; one that steps through a barrier halts all the same after phase 9
(R345). -/
def execDebugResume (c : Nat) (s : State) : Out :=
  .next (if !(s.cor c).haltedBy && !(s.strands.any fun p => p.1.cor == c && p.2.status == .halted) then s
    else
      (s.mapStrands fun id x =>
        if id.cor = c then
          match x.status with
          | .halted => { x with status := .running, stepping := false, halting := false, haltCode := none }
          | .arriving => { x with halting := false }
          | .arrived => { x with halting := false }
          | _ => { x with stepping := false, halting := false }
        else x).setCor c { s.cor c with haltedBy := false })

end Sys2Proof.Machine
end

