-- ==== Sys2Proof/Machine/EvMem.lean ====
section
/-! DEFINITION. The invalidation service and the end of a page walk (R36, R37, R41, R42, R350). -/

namespace Sys2Proof.Machine

/-- A stage of a corridor stands between two supersteps, so that nothing of it translates. -/
def State.between (s : State) (c st : Nat) : Bool := (s.stage c st).ended || !(s.stage c st).undecided

/-- No superstep of a PASID's corridors is running: an invalidation now lets none translate one page two ways (R42). -/
def State.pasidQuiet (s : State) (pasid : Nat) : Bool :=
  s.corridors.all fun p => !p.2.live || p.2.pasid != pasid ||
    (List.range p.2.image.stages).all fun st => s.between p.1 st

/-- An aperture may be installed beside others: multiples of 1 GiB, no overlap (R350). -/
def Aperture.fits (a : Aperture) (others : List Aperture) : Bool :=
  decide (a.va % gib = 0 ∧ a.size % gib = 0) &&
    others.all fun b => decide (a.va + a.size ≤ b.va ∨ b.va + b.size ≤ a.va)

/-- One aperture set by the host is installed; one that would overlap another is refused, one of size 0 is none. -/
def installAperture (m : KMap (Nat × Nat) Aperture) (p : (Nat × Nat) × Aperture) : KMap (Nat × Nat) Aperture :=
  if p.2.size = 0 then KMap.erase m p.1
  else if p.2.fits ((m.filter fun q => q.1.1 == p.1.1 && q.1 != p.1).map Prod.snd) then KMap.set m p.1 p.2
  else m

/-- The apertures set for a PASID since are installed. -/
def State.installApertures (s : State) (pasid : Nat) : State :=
  s.onHost fun h => { h with
    apertures := (h.apertureNext.filter fun p => p.1.1 == pasid).foldl installAperture h.apertures
    apertureNext := h.apertureNext.filter fun p => p.1.1 != pasid }

/-- `INVALIDATION_SERVICE` (R42, R350). -/
def execInvalidationService (pasid : Nat) (s : State) : Out :=
  .next (if s.pasidQuiet pasid then (s.invalidate fun p _ _ _ => p == pasid).installApertures pasid else s)

/-- `WALK_COMPLETE` (R37, R41): the oldest walk of a die that has a path to its tables ends; a translation enters both caches. -/
def execWalkComplete (die : Nat) (s : State) : Out :=
  let d := s.die die
  .next (match d.walks.find? fun w => !s.walkCut w.tile w.pasid w.ctx w.va with
    | none => s
    | some w =>
      let r := d.walks.erase w
      match walk s w.pasid w.ctx ⟨false, false, false⟩ w.va with
      | .error _ => s.setDie die { d with walks := r }
      | .ok e =>
        let t := s.tile w.tile
        (s.setDie die { d with walks := r, l2 := cacheAdd 4096 d.l2 e }).setTile w.tile { t with tlb := cacheAdd 64 t.tlb e })

end Sys2Proof.Machine
end

