-- ==== Sys2Proof/Machine/EvFabric.lean ====
section
/-! DEFINITION. Events of the lightway die, the Plosis Link ports, transactions between packages and Ultra Ethernet (R12,
R346 to R360). -/

namespace Sys2Proof.Machine

/-! ### Circuits (R12, R347, R348) -/

/-- `CONNECTION_TABLE_WRITE` (R12, R347): the change begins at once where every stage of every running corridor stands at a
barrier, else it waits for one; the die fields of circuits 0 to 15 are read-only, and a dst_die equal to src_die is refused. -/
def execConnectionTableWrite (n : Nat) (value : BitVec 32) (s : State) : Out :=
  let new := (s.circuit n).written n value
  .next (if 1024 ≤ n ∨ (16 ≤ n ∧ new.src = new.dst) then s
    else
      let t := s.onLightway fun l => { l with pending := KMap.set l.pending n new }
      if s.standingBut depotCor 0 then t.changeCircuits else t)

/-- `RETUNING_COMPLETE` (R347): an assigned circuit is lit, another dark, one that had failed stays failed. -/
def execRetuningComplete (n : Nat) (s : State) : Out :=
  .next (match KMap.get? s.lightway.retuning n with
    | none => s
    | some c => s.onLightway fun l => { l with
        retuning := KMap.erase l.retuning n
        circuits := KMap.set l.circuits n { c with
          state := if (KMap.getD l.circuits n (bootCircuit s n)).state = 2 then 2 else if c.valid then 1 else 0 } })

/-- The lowest spare that is lit and stands in for no circuit. -/
def State.spare (s : State) : Option Nat :=
  [12, 13, 14, 15].find? fun n => (s.circuit n).state == 1 && !(s.lightway.standIn.any fun p => p.2 == n)

/-- A reserved circuit has no carrier left: a spare stands in for it, or its pair's path has failed and every corridor
that uses it halts with LINK. -/
def State.replace_ (s : State) (n : Nat) : State :=
  match s.spare with
  | some x => s.onLightway fun l => { l with standIn := KMap.set l.standIn n x }
  | none =>
    let p := (orderedPairs [0, 1, 2, 3]).getD n (0, 0)
    (s.onLightway fun l => { l with standIn := KMap.erase l.standIn n, failedPairs := l.failedPairs ++ [p] }).haltFailed

/-- `CIRCUIT_LOCK_LOSS` (R348). -/
def execCircuitLockLoss (n : Nat) (s : State) : Out :=
  let c := s.circuit n
  .next (if 1024 ≤ n ∨ c.state = 2 then s
    else
      let t := s.onLightway fun l => { l with
        circuits := KMap.set l.circuits n { c with state := 2 }, retuning := KMap.erase l.retuning n }
      if n < 12 then t.replace_ n
      else if n < 16 then
        match s.lightway.standIn.find? fun p => p.2 == n with
        | some p => t.replace_ p.1
        | none => t
      else t)

/-! ### Ports (R352, R353) -/

/-- `FLIT_RECEIVE` (R352): a flit, its lane stripes corrected, whose CRC fails or that is out of sequence is replayed; the payload
of a good one comes in on its virtual channel. -/
def execFlitReceive (n : Nat) (flit : List Byte) (s : State) : Out :=
  let p := s.port n
  let good := flit.length == 256 && recordField flit 232 8 == (crc64 0 (flit.take 232)).toNat &&
    bits (BitVec.ofNat 64 (recordField flit 0 8)) 31 8 == p.expect
  .next (if 18 ≤ n ∨ p.down then s
    else if p.retraining || !good then s.setPort n { p with replays := p.replays + 1 }
    else s.setPort n { p with expect := nextSeq p.expect, received := p.received ++ [(recordField flit 0 1 % 4, (flit.drop 8).take 224)] })

/-- The lanes in use after some have failed; 0 means that the port is down. -/
def widthOf (failed : List Nat) : Nat :=
  let lo := (failed.filter (· < 4)).length
  let hi := (failed.filter fun l => decide (4 ≤ l)).length
  if lo + hi ≤ 1 then 8 else if lo ≤ 1 ∨ hi ≤ 1 then 4 else 0

/-- Open transactions of a port that is down are sent again on another port, which counts as an attempt. -/
def State.rerouteTrans (s : State) (n : Nat) : State :=
  let r := s.fabric.route
  s.fabric.open_.foldl (fun s t =>
    if t.port = n ∧ r ≠ n ∧ t.attempt < s.fabric.retries then
      let u := { t with port := r, attempt := t.attempt + 1 }
      (s.onFabric fun f => { f with open_ := f.open_.map fun x => if x = t then u else x }).transmit u
    else s) s

/-- `LANE_FAILURE` (R353): the port retrains to its new width, or goes down. -/
def execLaneFailure (n lane : Nat) (s : State) : Out :=
  let p := s.port n
  let failed := if p.failed.contains lane then p.failed else p.failed ++ [lane]
  .next (if 18 ≤ n ∨ 8 ≤ lane ∨ p.failed.contains lane ∨ p.down then s
    else if widthOf failed = 0 then
      (s.setPort n { p with failed, width := 0, down := true, retraining := false, waiting := [] }).rerouteTrans n
    else s.setPort n { p with failed, retraining := true })

/-- `RETRAIN_COMPLETE` (R353): what waited leaves. -/
def execRetrainComplete (n : Nat) (s : State) : Out :=
  let p := s.port n
  .next (if p.retraining then s.setPort n { p with retraining := false, width := widthOf p.failed }.flush else s)

/-! ### The requester (R354, R355, R357) -/

/-- The open transaction of a package and tag. -/
def State.openAt (s : State) (pkg tag : Nat) : Option Trans :=
  s.fabric.open_.find? fun t => t.pkg == pkg && t.tag == tag

/-- Changes the open transaction of a package and tag. -/
def State.onTrans (s : State) (pkg tag : Nat) (f : Trans → Trans) : State :=
  s.onFabric fun b => { b with open_ := b.open_.map fun t => if t.pkg = pkg ∧ t.tag = tag then f t else t }

/-- The transaction is closed. -/
def State.closeTrans (s : State) (t : Trans) : State := s.onFabric fun b => { b with open_ := b.open_.filter (· != t) }

/-- One transaction less is in flight for a strand. -/
def State.landed (s : State) (id : StrandId) : State := s.onStrand id fun x => { x with inflight := x.inflight - 1 }

/-- The page that the answer to a probe describes: its frame, its class, its cause. -/
def probeAnswer (r : FabricRep) : Nat × BitVec 2 × BitVec 8 :=
  match r.status with
  | .cause c => (0, 0, c)
  | _ => (recordField r.data 0 8, BitVec.ofNat 2 (recordField r.data 8 1), 0)

/-- A cause of a strand's transaction during its superstep: its tile votes abort, a depot strand takes the exception, with the
address concerned (R334, R357). -/
def State.failStrand (s : State) (id : StrandId) (cause : BitVec 8) (va : Nat) : State :=
  if isDepotId id then s.depotRaise id cause (BitVec.ofNat 64 va)
  else s.tileVote id.cor id.vt (s.strand id).stage (tileTrap id.vt cause (BitVec.ofNat 64 va) false false)

/-- The address that a cause concerns: the one that the answer names, else that of the access. -/
def causeVa (r : FabricRep) (va : Nat) : Nat := if r.data.isEmpty then va else recordField r.data 0 8

/-- The address of the nth source element of a strand's command. -/
def State.elementVa (s : State) (id : StrandId) (seq n : Nat) : Nat :=
  match (s.strand id).running.find? fun k => k.seq == seq with
  | some k => (k.w1 + BitVec.ofInt 64 ((elemOffsets k.shape).getD n (0, 0)).1).toNat % (if bits k.w1 63 62 = 2 then 2 ^ 48 else 2 ^ 64)
  | none => 0

/-- The device VA of a staged unit. -/
def State.unitVa (s : State) (c vt st : Nat) (unit : UnitKey) : Nat :=
  let x := s.stageTile c vt st
  (((x.staged ++ x.fetch).find? fun u => u.key == unit).map FetchUnit.va).getD 0

/-- The data of a staged unit come from a peer. -/
def State.unitBack (s : State) (c vt st : Nat) (unit : UnitKey) (frame : Nat) (bs : List Byte) : State :=
  let x := s.stageTile c vt st
  let f (u : FetchUnit) : FetchUnit := if u.key = unit ∧ u.st = .queued then { u with st := .fetched frame bs } else u
  s.setStageTile c vt st { x with staged := x.staged.map f, fetch := x.fetch.map f }

/-- What the depot learned of a page for a PASID. -/
def State.learn (s : State) (pasid key : Nat) (v : Nat × BitVec 2 × BitVec 8) : State :=
  s.onFabric fun b => { b with probes := KMap.set b.probes (pasid, key) v }

/-- A frame that a probe was answered with is held for a corridor or the depot (R351). -/
def State.holdFrame (s : State) (c pkg : Nat) (v : Nat × BitVec 2 × BitVec 8) : State :=
  if v.2.2 ≠ 0 then s else s.onFabric fun b => { b with holding := distinct (b.holding ++ [(c, pkg, v.1 / 4096)]) }

/-- A host access failed: it is counted and reported, and a read is aborted (R361). -/
def State.hostFailed (s : State) (fn va : Nat) (write : Bool) : State :=
  s.onHost fun h => { h with
    failedAccesses := h.failedAccesses + 1, reported := h.reported ++ [(fn, va)]
    answers := if write then h.answers else h.answers ++ [(fn, none)] }

/-! ### Answers about pages (R332, R351, R362, R363) -/

/-- A cause whose service needs a page. -/
def TrapInfo.asks (t : TrapInfo) (va : Nat) : Bool :=
  (t.cause == cTXF || t.cause == cSTAGE_FAULT) && t.page.getD (bits t.addr 47 0) / 4096 == va / 4096

/-- A question to the host failed: the corridor halts with the cause that needed the page. -/
def State.failAsk (s : State) (c st va : Nat) : State :=
  let g := s.stage c st
  let s := s.dropAsks c st
  if g.phase = .service then
    match g.firstCause with
    | some t => s.serviceFailed c st t (g.causes.find? fun x => x.asks va)
    | none => s.haltStage c st cTXF
  else if g.resultDue.isSome then s.resultFailed c st cTXF (bits ((s.cor c).word 5) 47 0 + 256 * st)
  else s.haltStage c st cTXF

/-- The number under which a page request is kept that a peer's depot forwarded, above those of corridors and queues
(assumption 91). -/
def peerAsker (pkg : Nat) : Nat := depotCor + 2048 + pkg

/-- A page request ends without success: that of a corridor halts it, that of a peer is answered so. -/
def State.requestFailed (s : State) (r : PageReq) : State :=
  if peerAsker 0 ≤ r.cor then s.onHost fun h => { h with
    pageRequests := h.pageRequests.map fun q => if q = r then { q with done := true } else q }
  else if depotCor < r.cor then s.onHost fun h => { h with pageRequests := h.pageRequests.erase r }
  else s.failAsk r.cor r.st r.page

/-- A page request ends with success; that of a queue is over with it. -/
def State.requestDone (s : State) (r : PageReq) : State :=
  s.onHost fun h => { h with
    pageRequests := if depotCor < r.cor ∧ r.cor < peerAsker 0 then h.pageRequests.erase r
      else h.pageRequests.map fun q => if q = r then { q with done := true } else q }

/-- The page request of a stage for a page that a peer was asked about. -/
def State.peerRequest (s : State) (c st page : Nat) : Option PageReq :=
  s.host.pageRequests.find? fun r => r.cor == c && r.st == st && r.page == page && !r.done

/-! ### What a transaction does when it ends (R357) -/

/-- The digests of vtiles that a reply carries; none where it carries none (R380). -/
def digestsOf (b : List Byte) : Option (KMap Nat Word) :=
  if b.isEmpty then none
  else some ((pieces 12 (b.length / 12 + 1) b).map fun d => (recordField d 0 4, BitVec.ofNat 64 (recordField d 4 8)))

/-- A package has answered, or failed to answer, for the digests of a corridor's replica. -/
def State.toldDigests (s : State) (c pkg : Nat) (d : Option (KMap Nat Word)) : State :=
  s.onFabric fun b => { b with digests := KMap.set b.digests (c, pkg) d }

/-- The effect of an answer that reports no failure of the transaction itself. -/
def State.answered (s : State) (t : Trans) (r : FabricRep) : State :=
  let bad := match r.status with | .cause c => some c | _ => none
  match t.use with
  | .probe id va =>
    let v := probeAnswer r
    (s.learn (s.space id.cor).1 (va / 4096 * 8 + t.op.toNat) v).holdFrame id.cor t.pkg v
  | .ask pasid page =>
    let v := probeAnswer r
    (s.learn pasid (page * 8 + t.op.toNat) v).holdFrame depotCor t.pkg v
  | .fetch pasid page =>
    s.onFabric fun b => { b with fetched := KMap.set b.fetched (pasid, page) (bad.getD 0, r.data) }
  | .read id w va => match bad with | some c => s.failStrand id c (causeVa r va) | none => s.readBack id w r.data
  | .element id seq n =>
    match bad with
    | some c => s.failStrand id c (causeVa r (s.elementVa id seq n))
    | none => s.onStrand id fun x => { x with
        running := x.running.map fun k => if k.seq = seq then { k with got := KMap.set k.got n r.data } else k }
  | .staged c vt st unit =>
    match bad with
    | some e => s.tileVote c vt st (tileTrap vt e (BitVec.ofNat 64 (s.unitVa c vt st unit)) false false)
    | none => s.unitBack c vt st unit (peerPa t.pkg t.va / 4096) r.data
  | .forward _ =>
    if r.data = [0] then s.onFabric fun b => { b with registered := b.registered.filter (· != (t.pkg, t.va / 4096)) } else s
  | .page c st page =>
    match s.peerRequest c st page with
    | none => s
    | some q => if bad.isSome then s.requestFailed q else (s.requestDone q).forgetProbe (s.space c).1 page
  | .bar2 fn va write =>
    if bad.isSome then s.hostFailed fn va write
    else if write then s else s.onHost fun h => { h with answers := h.answers ++ [(fn, some r.data)] }
  | .cross c _ => s.updateMarks c
  | .amo id tag => { s.landed id with amoResults := s.amoResults ++ [⟨id, tag, 0, BitVec.ofNat 64 (recordField r.data 0 8)⟩] }
  | .store id => s.landed id
  | .delta _ _ _ => s
  | .drain c st => match bad with | some e => s.haltStage c st e | none => s
  | .post => s.wroteOne
  | .digests c pkg => s.toldDigests c pkg (if bad.isSome then none else digestsOf r.data)
  | .forgotten => s
  | .release => s
  | .junction _ _ => s

/-- The effect of a transaction that ends in STALE or TIMEOUT (R357).  A line forwarded into a staged copy is part of the drain that
waits for it.  A junction message that is lost once its stage has been decided leaves a superstep that can neither abort nor end, so
that its path counts as failed, and so does one that names placed planes: the corridor halts with LINK (assumption 94). -/
def State.lost (s : State) (t : Trans) (cause : BitVec 8) : State :=
  match t.use with
  | .probe id va => s.failStrand id cause va
  | .read id _ va => s.failStrand id cause va
  | .element id seq n => s.failStrand id cause (s.elementVa id seq n)
  | .staged c vt st unit => s.tileVote c vt st (tileTrap vt cause (BitVec.ofNat 64 (s.unitVa c vt st unit)) false false)
  | .ask pasid page => s.learn pasid (page * 8 + t.op.toNat) (0, 0, cause)
  | .fetch pasid page => s.onFabric fun b => { b with fetched := KMap.set b.fetched (pasid, page) (cause, []) }
  | .page c st page => match s.peerRequest c st page with | some q => s.requestFailed q | none => s
  | .bar2 fn va write => s.hostFailed fn va write
  | .delta c st _ => s.haltStage c st cause
  | .drain c st => s.haltStage c st cause
  | .cross c st => s.haltStage c st cause
  | .forward key =>
    let s := s.onFabric fun b => { b with registered := b.registered.filter (· != (t.pkg, t.va / 4096)) }
    if key.1 = s.fabric.pkg then s.haltStage key.2.1 key.2.2 cause
    else s.onFabric fun b => { b with failedDrains := KMap.set b.failedDrains key cause }
  | .amo id tag =>
    let s := s.landed id
    if cause = cSTALE then { s with amoResults := s.amoResults ++ [⟨id, tag, 2, 0⟩] }
    else if isDepotId id then s.depotRaise id cause 0
    else s.haltStage id.cor (s.strand id).stage cause
  | .store id =>
    let s := s.landed id
    if isDepotId id then s.depotRaise id cause (BitVec.ofNat 64 t.va) else s.haltStage id.cor (s.strand id).stage cause
  | .post => s.wroteOne
  | .digests c pkg => s.toldDigests c pkg none
  | .forgotten => s
  | .release => s
  | .junction c st =>
    if recordField t.data 0 1 ≠ 32 ∧ (s.stage c st).undecided then s.stageVote c st cLINK else s.haltStage c st cLINK

/-- A host access goes, whole, to the package that holds its first page; none while no tag is free (R350; assumption 90). -/
def State.openBar2 (s : State) (x : Bar2) (a : Aperture) : Option State :=
  let go (kind : FabricKind) (size : Nat) (op : BitVec 5) (data : List Byte) : Option State :=
    s.openTrans a.pkg kind a.pasid (a.target + (x.va - a.va)) size op data (.bar2 x.fn x.va x.write.isSome)
  match x.write, x.atomic with
  | some bs, _ => go .wr bs.length 1 bs
  | none, some m => go .amo x.size (m.op ||| 16) (leBytes 8 m.operand.toNat ++ leBytes 8 m.compare.toNat)
  | none, none => go .rd x.size 1 []

/-- The oldest host access that waits for a tag leaves, if it can. -/
def State.flushBar2 (s : State) : State :=
  match s.host.waiting with
  | [] => s
  | (x, a) :: r => ((s.openBar2 x a).map fun t => t.onHost fun h => { h with waiting := r }).getD s

/-- Writes bytes under an address space page by page, without judging the user bit; none where a page fails.  The first
number bounds the pages. -/
def State.writePages (s : State) (pasid : Nat) : Nat → Nat → List Byte → Option State
  | 0, _, bs => if bs.isEmpty then some s else none
  | n + 1, va, bs =>
    if bs.isEmpty then some s
    else
      let k := 4096 - va % 4096
      if (s.apertureAt pasid va).isSome then
        (s.writeVa depotCor pasid none va (bs.take k)).bind fun s => s.writePages pasid n (va + k) (bs.drop k)
      else
        match walk s pasid none ⟨false, true, false⟩ va with
        | .error _ => none
        | .ok e =>
          if frameLost s (e.pa va) then none
          else (s.farWrite (e.pa va) (bs.take k)).writePages pasid n (va + k) (bs.drop k)

/-- The PASID of a function. -/
def State.fnPasid (s : State) (fn : Nat) : Nat := (s.func fn).pasid

/-- A message comes to the first free receive buffer of its queue, which must lie on immediate pages; with none, or one that cannot be
written, it is dropped and counted (R360).  What a peer has still to be asked is an error. -/
def State.receive (s : State) (q : Nat) (data : List Byte) : Except Ask State :=
  let drop_ : State := s.onHost fun h => { h with droppedMessages := h.droppedMessages + 1 }
  match KMap.getD s.host.recvBuffers q [] with
  | [] => .ok drop_
  | (fn, va) :: r =>
    let p := s.fnPasid fn
    (s.mappedWritable p none va data.length true).map fun ok =>
      match if ok then s.writePages p (data.length / 4096 + 2) va data else none with
      | some t => (t.onHost fun h => { h with recvBuffers := KMap.set h.recvBuffers q r }).forgetPages p
      | none => drop_.forgetPages p

/-- The messages that came in are written in their order, as far as peers have answered for their buffers; the number bounds them. -/
def State.flushInbound (s : State) : Nat → State
  | 0 => s
  | n + 1 =>
    match s.host.inbound with
    | [] => s
    | (q, data) :: r =>
      match s.receive q data with
      | .error a => s.ask a
      | .ok t => (t.onHost fun h => { h with inbound := r }).flushInbound n

/-- What waited for a tag or for an answer goes on: host accesses, the depot's writes, notifications, messages. -/
def State.flushWaiting (s : State) : State :=
  let s := s.flushBar2.sendWrites
  let s := s.flushNotes s.host.notes.length
  s.flushInbound s.host.inbound.length

/-- `FABRIC_REPLY` (R355): delivered where its tag and incarnation match an open transaction, else dropped and counted on the port
that it came in by. -/
def execFabricReply (r : FabricRep) (s : State) : Out :=
  .next (match s.fabric.open_.find? fun t => t.pkg == r.pkg && t.tag == r.tag && t.inc == r.inc with
    | none => s.setPort r.port { s.port r.port with late := (s.port r.port).late + 1 }
    | some t =>
      if r.status = .busy then s
      else
        let u := (s.closeTrans t).onFabric fun b => { b with epochs := KMap.set b.epochs r.pkg r.epoch }
        (if r.status = .stale then u.lost t cSTALE else u.answered t r).releaseFrames.flushWaiting)

/-- An attempt of an open transaction leaves again. -/
def State.sendAgain (s : State) (t u : Trans) : State := (s.onTrans t.pkg t.tag fun _ => u).transmit u

/-- `FABRIC_ATTEMPT_TIMEOUT` (R355). -/
def execFabricAttemptTimeout (pkg tag : Nat) (s : State) : Out :=
  .next (match s.openAt pkg tag with
    | none => s
    | some t =>
      if t.attempt < s.fabric.retries then
        s.sendAgain t { t with attempt := t.attempt + 1, age := min 65535 (t.age + s.fabric.timeoutUs) }
      else
        (((s.closeTrans t).onFabric fun b => { b with quarantine := b.quarantine ++ [(pkg, tag)] }).lost t cTIMEOUT).flushWaiting)

/-- `BUSY_RETRY` (R356): the same attempt, 1 µs later. -/
def execBusyRetry (pkg tag : Nat) (s : State) : Out :=
  .next (match s.openAt pkg tag with
    | some t => s.sendAgain t { t with age := min 65535 (t.age + 1) }
    | none => s)

/-- `TAG_QUARANTINE_END` (R355). -/
def execTagQuarantineEnd (pkg tag : Nat) (s : State) : Out :=
  .next (s.onFabric fun b => { b with quarantine := b.quarantine.filter (· != (pkg, tag)) }).flushWaiting

/-! ### The responder (R356, R358) -/

/-- The window D for which duplicate-suppression entries live. -/
def Fabric.window (f : Fabric) : Nat := (f.retries + 1) * f.timeoutUs + 2 * f.flightUs

/-- A request that must be performed at most once. -/
def performedOnce : FabricKind → Bool
  | .wr => true
  | .amo => true
  | .drain => true
  | _ => false

/-- A remote write arrives: a delta of its stage, or cross-stage data, which waits while its area is full.  A delta of a run
that is over is dropped, one of a run that has not begun here waits (R330, R349). -/
def State.takeRemote (s : State) (r : FabricReq) : Option State :=
  let f (o n : Nat) : Nat := recordField r.data o n
  let c := r.pasid
  let target := bits (BitVec.ofNat 64 r.va) 36 21
  let at_ (i : Nat) : Nat := f (31 + 5 * i) 4 % 2 ^ 31
  let cells := List.range ((r.data.length - 31) / 5)
  let o : Overlay := Overlay.puts [] (cells.map fun i => (at_ i, BitVec.ofNat 8 (f (35 + 5 * i) 1)))
  let bad := distinct ((cells.filter fun i => decide (2 ^ 31 ≤ f (31 + 5 * i) 4)).map fun i => at_ i / 8 * 8)
  let mm : Word := BitVec.ofNat 64 (f 13 8)
  let run := f 21 4
  let st := f 25 1
  let g := s.stage c st
  if f 26 1 ≠ 2 then
    if g.mm.toNat < mm.toNat ∨ g.mm = mm ∧ g.run < run then none
    else if mm = g.mm ∧ run = g.run then
      some (s.acceptDelta c st (f 0 4) ⟨target, f 4 1, f 5 8, mm, run, o, f 26 1 == 1, f 27 4⟩)
    else some s
  else
    let rc := (s.cor c).image.receiver target
    let x := s.stageTile c target rc
    let y := { x with crossIn := x.crossIn ++ [⟨st, mm, f 0 4, f 4 1, f 5 8, o, bad⟩] }
    if (s.stage c rc).ended then some ((s.commitBytes c target o).poisonTile (s.phys c target) bad)
    else if y.crossUsed ≤ s.crossShare c target then some (s.setStageTile c target rc y)
    else none

/-- The reply to a request that is done. -/
def served (s : State) (data : List Byte) : State × FabricStatus × List Byte := (s, .ok, data)

/-- Lines that have been written for a peer are forwarded into the staged copies of their frames: those of this package at
once, those of others by transactions, for which the request waits; none where a link, or a path to a copy, is not free (R9,
R74). -/
def State.forwardLines (s : State) (key : Nat × Nat × Nat) (lines : List Nat) : Option State :=
  if lines.any s.copiesCut then none
  else lines.foldl (fun acc l => acc.bind fun s => (s.patchCopies l (s.farRead (64 * l) 64)).forwardAway l key) (some s)

/-- The bytes that a DRAIN request writes. -/
def drainBytes (r : FabricReq) : Overlay :=
  let m := recordField r.data 0 8
  ((List.range 64).filter fun i => m.testBit i).map fun i => (r.va + i, BitVec.ofNat 8 (recordField r.data (8 + i) 1))

/-- The cells that a DRAIN request adds to. -/
def drainCells (r : FabricReq) : KMap Nat (BitVec 128) :=
  (List.range ((r.data.length - 1) / 17)).map fun i =>
    (r.va + recordField r.data (1 + 17 * i) 1, BitVec.ofNat 128 (recordField r.data (2 + 17 * i) 16))

/-- The words of a line that a mask names. -/
def maskWords (base m : Nat) : List Nat := ((List.range 8).filter fun i => m.testBit i).map fun i => base / 64 * 64 + 8 * i

/-- A drained line, or accumulates into cells, of a peer are written; the reply waits for the forwards (R55, R56, R74). -/
def State.takeLine (s : State) (r : FabricReq) (key : Nat × Nat × Nat) : State × FabricStatus × List Byte :=
  let cells := r.op == 1
  let t := if cells then (drainCells r).foldl State.addCell s else s.farApply (drainBytes r)
  let t := t.poisonFar (maskWords r.va (recordField r.data (if cells then 0 else 72) 1))
  let lines := distinct (if cells then (drainCells r).map fun p => p.1 / 64 else [r.va / 64])
  match t.forwardLines key lines with
  | none => (s, .busy, [])
  | some u =>
    if u.forwarding key then (u.onFabric fun b => { b with pendingDrains := b.pendingDrains ++ [key] }, .busy, [])
    else served u []

/-- A line that its home forwards comes into the staged copies of its frame; the reply tells whether there is one still
(R74). -/
def State.takeForward (s : State) (r : FabricReq) : State × FabricStatus × List Byte :=
  let frame := peerPa r.src r.va / 4096
  if s.fabric.open_.any fun t => t.pkg == r.src && t.va / 4096 == r.va / 4096 &&
      (match t.use with | .staged _ _ _ _ => true | _ => false) then (s, .busy, [])
  else
    let here := s.dies.toList.any fun d => d.directory.any fun q => q.frame == frame
    served (s.patchCopies (peerPa r.src r.va / 64) r.data) [if here then 1 else 0]

/-- Logs of a line that this package writes for a corridor come from another package of it, once the commit is being applied here
too (R60). -/
def State.takeLogs (s : State) (r : FabricReq) : State × FabricStatus × List Byte :=
  let st := recordField r.data 0 1
  let l := logsOf (r.va / 64) r.data.length (r.data.drop 1)
  let g := s.stage r.pasid st
  if l.any fun f => !(decide (f.mm.toNat < g.mm.toNat) || (f.mm == g.mm && g.applies)) then (s, .busy, [])
  else served ((s.setStage r.pasid st { g with farLeft := orderedLogs (g.farLeft ++ l) }).noteWatermarks r.pasid st) []

/-- A DRAIN request (R55, R56, R74): bytes, cells, a forward, or logs for the package that writes the line. -/
def State.takeDrain (s : State) (r : FabricReq) : State × FabricStatus × List Byte :=
  let key := (r.src, r.tag, r.inc)
  match r.op.toNat with
  | 2 => s.takeForward r
  | 3 => s.takeLogs r
  | _ =>
    if s.fabric.pendingDrains.contains key then
      if s.forwarding key then (s, .busy, [])
      else
        let t := s.onFabric fun b => { b with
          pendingDrains := b.pendingDrains.filter (· != key), failedDrains := KMap.erase b.failedDrains key }
        match KMap.get? s.fabric.failedDrains key with
        | some c => (t, .cause c, [])
        | none => served t []
    else s.takeLine r key

/-- The planes that a package has placed; where it asks, it is answered with this package's own (R318). -/
def State.takePlanes (s : State) (r : FabricReq) (j : Junc) : Option State :=
  let c := r.pasid
  let s := s.notePlanes j.group c r.src j.mm.toNat j.pending.toNat
  if !(s.cor c).live || (s.cor c).group != j.group then some s
  else (if j.cont then s.announce c [r.src] false else some s).map fun s => s.start c

/-- A junction's message is kept for the stage; one of a commit that is over, or of another fabric group, is dropped (R308,
R358).  None while a link that it needs is not free. -/
def State.takeJunction (s : State) (r : FabricReq) : Option State :=
  let j := Junc.ofBytes r.data
  let c := r.pasid
  let st := r.va
  if j.kind = 32 then s.takePlanes r j
  else if j.group ≠ (s.cor c).group then some s
  else if j.kind = 34 then
    match j.cause with
    | some t => some (if (s.cor c).live then s.haltNow c j.pending.toNat t.cause t.vt j.mm else s)
    | none => some s
  else if 10 ≤ j.kind ∧ j.mm.toNat < (s.stage c st).mm.toNat then some s
  else some (s.onStage c st fun g => { g with children := KMap.set g.children (r.src, j.kind) r.data })

/-- A translation for a peer (R351): the frame and class, with the frame pinned for it, or the cause. -/
def State.takeProbe (s : State) (r : FabricReq) : State × FabricStatus × List Byte :=
  let k : XKind := ⟨r.op.getLsbD 0, r.op.getLsbD 1, r.op.getLsbD 2⟩
  match walk s r.pasid none k r.va with
  | .error f => (s, .cause f.cause, [])
  | .ok e =>
    let pa := e.pa r.va / 4096 * 4096
    if frameLost s pa then (s, .cause cHOME_LOST, [])
    else
      served (s.onFabric fun b => { b with pinned := distinct (b.pinned ++ [(r.src, pa / 4096)]) })
        (leBytes 8 pa ++ leBytes 1 e.cls.toNat)

/-- A page request that a peer's depot forwards goes to this package's host; the peer asks again until it is answered (R351,
R362). -/
def State.takePageRequest (s : State) (r : FabricReq) : State × FabricStatus × List Byte :=
  let page := r.va / 4096 * 4096
  let who := peerAsker r.src
  let k : XKind := ⟨r.op.getLsbD 0, r.op.getLsbD 1, false⟩
  let drop_ (s : State) : State := s.onHost fun h => { h with
    pageRequests := h.pageRequests.filter fun q => !(q.cor == who && q.page == page && q.pasid == r.pasid) }
  match walk s r.pasid none k page with
  | .ok _ => served (drop_ s) []
  | .error f =>
    match s.host.pageRequests.find? fun q => q.cor == who && q.page == page && q.pasid == r.pasid with
    | none =>
      if f.cause ≠ cTXF then (s, .cause f.cause, [])
      else
        (s.onHost fun h => { h with pageRequests := h.pageRequests ++ [⟨who, 0, page, r.pasid, s.fabric.pkg, false⟩] }, .busy, [])
    | some q => if q.done then (drop_ s, .cause f.cause, []) else (s, .busy, [])

/-- A PROBE request: a translation, a page request (8), or the release of a frame (16). -/
def State.takeAsk (s : State) (r : FabricReq) : State × FabricStatus × List Byte :=
  if r.op.getLsbD 4 then served (s.onFabric fun b => { b with pinned := b.pinned.filter (· != (r.src, r.va / 4096)) }) []
  else if r.op.getLsbD 3 then s.takePageRequest r
  else s.takeProbe r

/-- A read of a tile's memory by a strand of its stage on another package: it waits for bytes that are owed, and marked or
uncorrectable ones raise their cause (R52, R75, R97). -/
def State.serveTile (s : State) (r : FabricReq) : State × FabricStatus × List Byte :=
  let vt := bits (BitVec.ofNat 64 r.va) 36 21
  let off := bits (BitVec.ofNat 64 r.va) 20 0
  let t := s.tile (s.phys r.pasid vt)
  match s.stagedAt r.pasid vt r.op.toNat off r.size with
  | .marked va => (s, .cause cSTAGE_FAULT, leBytes 8 va)
  | .notLanded => (s, .busy, [])
  | .ready => if poisoned t.poison off r.size then (s, .cause cECC, []) else served s (Mem.readN t.mem off r.size)

/-- A read of far memory of this package by address; as that of a staged unit it registers the copy (R74, R97). -/
def State.readFrame (s : State) (r : FabricReq) : State × FabricStatus × List Byte :=
  if poisoned s.far.poison r.va r.size then (s, .cause cECC, [])
  else
    served (if r.op = 2 then s.onFabric fun b => { b with registered := distinct (b.registered ++ [(r.src, r.va / 4096)]) } else s)
      (s.farRead r.va r.size)

/-- The cause with which a device VA of a peer's request fails here. -/
def State.peerCause (s : State) (pasid va : Nat) (k : XKind) : FabricStatus :=
  match walk s pasid none k va with | .error f => .cause f.cause | .ok _ => .cause cHOME_LOST

/-- A read of device memory under a PASID for a peer's host or depot (R350). -/
def State.readDevice (s : State) (r : FabricReq) : State × FabricStatus × List Byte :=
  match s.readVa r.pasid none r.va r.size with
  | .ok b => served s b
  | .error _ => (s, s.peerCause r.pasid r.va ⟨true, false, false⟩, [])

/-- A write of device memory under a PASID for a peer's host or depot (R350). -/
def State.writeDevice (s : State) (r : FabricReq) : State × FabricStatus × List Byte :=
  match s.writePages r.pasid (r.data.length / 4096 + 2) r.va r.data with
  | some t => served t []
  | none => (s, s.peerCause r.pasid r.va ⟨false, true, false⟩, [])

/-- An atomic at this package's home controller, by address, or by device VA where bit 4 of the operation says so. -/
def State.takeAtomic (s : State) (r : FabricReq) : State × FabricStatus × List Byte :=
  let f (o : Nat) : Word := BitVec.ofNat 64 (recordField r.data o 8)
  let go (pa : Nat) : State × FabricStatus × List Byte :=
    let x := s.atomicAt pa r.size (r.op &&& 15) (f 0) (f 8)
    served (x.1.poisonFar (if recordField r.data 16 1 = 1 then wordsAt pa r.size else [])) (leBytes 8 x.2.toNat)
  if !r.op.getLsbD 4 then go r.va
  else
    match walk s r.pasid none ⟨false, true, false⟩ r.va with
    | .ok e => if frameLost s (e.pa r.va) then (s, .cause cHOME_LOST, []) else go (e.pa r.va)
    | .error e => (s, .cause e.cause, [])

/-- The digests that this package's images of the live corridors of a replica group hold at the mile markers of a request; no data where
there is none (R380). -/
def State.serveDigests (s : State) (r : FabricReq) : State × FabricStatus × List Byte :=
  let marks := (List.range (r.data.length / 8)).map fun i => BitVec.ofNat 64 (recordField r.data (8 * i) 8)
  served s (((s.replicasIn r.pasid marks).headD []).flatMap fun d => leBytes 4 d.1 ++ leBytes 8 d.2.toNat)

/-- A request is executed: the state, the status and the data of the reply; what cannot be taken yet is answered BUSY. -/
def State.serve (s : State) (r : FabricReq) : State × FabricStatus × List Byte :=
  let remote := decide (2 ^ 62 ≤ r.va)
  let orBusy (o : Option State) : State × FabricStatus × List Byte :=
    match o with | some t => served t [] | none => (s, .busy, [])
  match r.kind with
  | .rd => if remote then s.serveTile r else if r.op = 1 then s.readDevice r else if r.op = 4 then s.serveDigests r else s.readFrame r
  | .wr => if remote then orBusy (s.takeRemote r) else if r.op = 1 then s.writeDevice r
    else served ((s.farWrite r.va r.data).poisonFar (if r.op = 2 then wordsAt r.va r.data.length else [])) []
  | .amo => s.takeAtomic r
  | .probe => s.takeAsk r
  | .drain => s.takeDrain r
  | .jct => orBusy (s.takeJunction r)

/-- A reply as it leaves on a port: the fields by which it is matched, and its data (assumption 18). -/
def FabricRep.wire (r : FabricRep) : List Byte :=
  let code := match r.status with | .ok => 0 | .stale => 1 | .busy => 2 | .cause c => 256 + c.toNat
  leBytes 2 r.tag ++ leBytes 1 r.inc ++ leBytes 2 code ++ leBytes 2 r.epoch ++ r.data

/-- A reply leaves, on virtual channel 2 (R352). -/
def State.sendReply (s : State) (r : FabricRep) : State :=
  (s.setPort r.port ((s.port r.port).post 2 (FabricRep.wire r))).onFabric fun b => { b with sentReplies := b.sentReplies ++ [r] }

/-- The reply to a request. -/
def State.replyTo (s : State) (r : FabricReq) (st : FabricStatus) (data : List Byte) : FabricRep :=
  ⟨r.src, r.tag, r.inc, st, s.fabric.epoch, data, s.fabric.route⟩

/-- `FABRIC_REQUEST` (R356): from the cache, on a port that is up, or executed, or STALE, or BUSY. -/
def execFabricRequest (r : FabricReq) (s : State) : Out :=
  let f := s.fabric
  .next (match if performedOnce r.kind then f.dups.find? fun d => d.src == r.src && d.tag == r.tag && d.inc == r.inc else none with
    | some d => s.sendReply { d.reply with port := f.route }
    | none =>
      if f.window < r.age ∨ r.epoch ≠ f.epoch then s.sendReply (s.replyTo r .stale [])
      else if performedOnce r.kind && decide (16384 ≤ f.dups.length) then s.sendReply (s.replyTo r .busy [])
      else
        let x := s.serve r
        let a := x.1.replyTo r x.2.1 x.2.2
        let t := x.1.sendReply a
        if performedOnce r.kind && x.2.1 != FabricStatus.busy then
          t.onFabric fun b => { b with dups := b.dups ++ [⟨r.src, r.tag, r.inc, a⟩] }
        else t)

/-- `DUPLICATE_ENTRY_EXPIRE` (R356): an entry's window has ended. -/
def execDuplicateEntryExpire (pkg tag inc : Nat) (s : State) : Out :=
  .next (s.onFabric fun b => { b with dups := b.dups.filter fun d => !(d.src == pkg && d.tag == tag && d.inc == inc) })

/-! ### Ultra Ethernet (R359, R360) -/

/-- `UE_INBOUND_MESSAGE` (R360): written to the first free receive buffer, behind those that came before it; with none the message is
dropped and counted. -/
def execUeInboundMessage (q : Nat) (data : List Byte) (s : State) : Out :=
  .next ((s.onHost fun h => { h with inbound := h.inbound ++ [(q, data)] }).flushInbound (s.host.inbound.length + 1))

/-- An abandoned message is reported in its queue's completion ring, with status 0x01 and its number; the spec names neither the
entry's layout nor the ring's length (assumption 63). -/
def State.reportMessage (s : State) (k : SendQueue) (m : UeMessage) : State :=
  (s.writeVa depotCor (s.fnPasid k.owner) none (k.ring + 16 * (k.reports % 256)) (leBytes 8 1 ++ leBytes 8 m.number)).getD s

/-- `UE_MESSAGE_DONE` (R360): the oldest message of a queue is acknowledged, or abandoned and reported with 0x01. -/
def execUeMessageDone (q : Nat) (acked : Bool) (s : State) : Out :=
  let k := KMap.getD s.host.sendQueues q SendQueue.reset
  .next (match k.inflight with
    | [] => s
    | m :: r =>
      let t := if acked then s else s.reportMessage k m
      let k := { k with inflight := r, reports := if acked then k.reports else k.reports + 1 }
      t.onHost fun h => { h with sendQueues := KMap.set h.sendQueues q k })

end Sys2Proof.Machine
end

