-- ==== Sys2Proof/Machine/EvHost.lean ====
section
/-! DEFINITION. Events of the host link: BAR2 accesses, resets, answers to faults; images in flash and replica digests
(R64, R361 to R365, R380). -/

namespace Sys2Proof.Machine

/-! ### BAR2 (R361) -/

/-- A host atomic, as one event of the home controller (R64): the state and the old value; none where its page fails. -/
def State.hostAtomic (s : State) (pasid va size : Nat) (m : HostAtomic) : Option (State × List Byte) :=
  match walk s pasid none ⟨false, true, false⟩ va with
  | .error _ => none
  | .ok e =>
    if frameLost s (e.pa va) then none
    else
      let r := s.atomicAt (e.pa va) size m.op m.operand m.compare
      some (r.1, leBytes size r.2.toNat)

/-- `BAR2_ACCESS` (R64, R350, R361): a read completes with its data or with Completer Abort, a failed write is dropped; each
failure is counted and reported. -/
def execBar2Access (a : Bar2) (s : State) : Out :=
  let pasid := s.fnPasid a.fn
  let fail := s.hostFailed a.fn a.va a.write.isSome
  let reply (t : State) (b : List Byte) : State := t.onHost fun h => { h with answers := h.answers ++ [(a.fn, some b)] }
  .next (match s.apertureAt pasid a.va with
    | some ap => (s.onHost fun h => { h with waiting := h.waiting ++ [(a, ap)] }).flushBar2
    | none =>
      match a.write, a.atomic with
      | some bs, _ => (s.writePages pasid (bs.length / 4096 + 2) a.va bs).getD fail
      | none, some m => ((s.hostAtomic pasid a.va a.size m).map fun r => reply r.1 r.2).getD fail
      | none, none => match s.readVa pasid none a.va a.size with | .ok b => reply s b | .error _ => fail)

/-! ### Resets (R365) -/

/-- A corridor of a function that is reset ends with status KILLED; one that holds no tile yet, or none any more, too. -/
def State.killOf (s : State) (c : Nat) : State :=
  let k := s.cor c
  if k.live then s.killNow c
  else if k.inUse && k.completion.isNone then
    s.setCor c { k with state := .killed, completion := some (completionWords 3 0 0 0 0) }
  else s

/-- `FUNCTION_LEVEL_RESET` (R365). -/
def execFunctionLevelReset (vf : Nat) (s : State) : Out :=
  .next (if vf = 0 ∨ 64 < vf then s
    else
      let s := s.onHost fun h => { h with
        queues := h.queues.map fun p =>
          if p.2.owner = vf then (p.1, { p.2 with disabled := true, pending := false, mapped := false }) else p
        taken := h.taken.filter fun t => t.fn != vf }
      ((s.corridors.filter fun p => p.2.fn == vf).map Prod.fst).foldl State.killOf s)

/-- `PF0_LINK_RESET` (R365). -/
def execPf0LinkReset (s : State) : Out := .next (s.haltAll cLINK)

/-! ### Answers to translation faults (R362, R363) -/

/-- `ATS_INVALIDATION` (R362): the device's translation cache forgets an address. -/
def execAtsInvalidation (pasid va : Nat) (s : State) : Out :=
  .next (s.onHost fun h => { h with
    atsCache := h.atsCache.filter fun e => !(e.pasid == pasid && decide (e.va ≤ va ∧ va < e.va + e.size)) })

/-- The oldest page request of a corridor, of a queue's ring or of a peer, to this package's host, without an answer. -/
def State.openRequest (s : State) (c : Nat) : Option PageReq :=
  s.host.pageRequests.find? fun r => r.cor == c && r.pkg == s.fabric.pkg && !r.done

/-- The translation that the host's IOMMU gives for a page it has made present: the device's cache keeps it, the oldest of 256
going (R362); its frame is the host's own (assumption 65). -/
def HostIf.cacheHost (h : HostIf) (pasid va : Nat) : HostIf :=
  let page := va / 4096 * 4096
  let e : TlbEntry := ⟨pasid, none, page, 4096, Config.hostFrame pasid page, true, true, true, 0, 0, true, true, true⟩
  let keep := h.atsCache.filter fun x => !(x.pasid == pasid && x.va == page)
  { h with atsCache := keep.drop (keep.length - 255) ++ [e] }

/-- `PAGE_REQUEST_RESPONSE` (R362). -/
def execPageRequestResponse (c : Nat) (ok : Bool) (s : State) : Out :=
  .next (match s.openRequest c with
    | none => s
    | some r =>
      if !ok then s.requestFailed r
      else
        (s.onHost fun h => h.cacheHost r.pasid r.page).requestDone r)

/-- `PAGE_REQUEST_TIMEOUT` (R362). -/
def execPageRequestTimeout (c : Nat) (s : State) : Out :=
  .next (match s.openRequest c with
    | none => s
    | some r => s.requestFailed r)

/-- The host answers a fault record. -/
def State.answerFault (s : State) (fn seq : Nat) (fail : Bool) : State :=
  match s.host.faults.find? fun r => r.fn == fn && r.written && !r.answered && r.seq == seq with
    | none => s
    | some r =>
      if fail then s.failAsk r.cor r.st r.va
      else s.onHost fun h => { h with faults := h.faults.map fun q => if q = r then { q with answered := true } else q }

/-- `FR_RESP` (R363). -/
def execFrResp (fn seq : Nat) (fail : Bool) (s : State) : Out := .next (s.answerFault fn seq fail)

/-- `FR_TIMEOUT` (R363): also of a record that has waited all the time for a place in the ring. -/
def execFrTimeout (fn seq : Nat) (s : State) : Out :=
  .next (match s.host.faults.find? fun r => r.fn == fn && !r.answered && (!r.written || r.seq == seq) with
    | none => s
    | some r => s.failAsk r.cor r.st r.va)

/-! ### Survival layers (R380) -/

/-- `FLASH_LAYER_WRITE` (R380): an image of the first layer is copied to flash, as far memory holds it then; the last two full images
and their deltas stay there. -/
def execFlashLayerWrite (c serial : Nat) (s : State) : Out :=
  .next (match (s.imagesOf c).find? fun i => i.serial == serial with
    | none => s
    | some i =>
      let mine := (s.depot.flash.filter fun j => j.cor == c && j.serial != serial) ++ [{ i with broken := s.changedIn i }]
      { s with depot := { s.depot with
          flash := (s.depot.flash.filter fun j => j.cor != c) ++ fromFull 1 (sortBy Survival.serial mine) } })

/-- `REPLICA_DIGEST_REQUEST` (R380): the digests of this package's image of the corridor whose first stage stood at the
mile marker, or none. -/
def execReplicaDigestRequest (c mm : Nat) (s : State) : Out :=
  let hit := s.depot.images.find? fun i => i.cor == c && (i.marks.headD 0).toNat == mm
  .next { s with depot := { s.depot with replies := s.depot.replies ++ [(c, mm, hit.map Survival.digests)] } }

end Sys2Proof.Machine
end

