-- ==== Sys2Proof/Machine/EvOffline.lean ====
section
/-! DEFINITION. Taking a die offline: request, capacity, drains, evacuation of pages, remap notices, fencing (R378, R379). -/

namespace Sys2Proof.Machine

/-- Changes the die-offline registers. -/
def State.onOffline (s : State) (f : Offline → Offline) : State := { s with depot := { s.depot with offline := f s.depot.offline } }

/-! ### Frames -/

/-- The rank in which pages are evacuated: those of running and stopped corridors by their highest effective priority, from 3 down,
then, behind swapped-out images, all others. -/
def State.pageRank (s : State) (r : PageRef) : Nat :=
  let ps := (s.corridors.filter fun p => (p.2.live || p.2.state == .swapped) && r.usedBy p.2).map fun p => p.2.priority
  if ps.isEmpty then 5 else 3 - ps.foldl max 0

/-- The single-home pages of a die that have still to be evacuated, in the order in which they are. -/
def State.pagesOn (s : State) (d : Nat) : List (Nat × Nat) :=
  let rs := s.refs.filter fun r => r.singleOn d && (KMap.get? s.depot.offline.moved r.frame).isNone
  distinct ((sortBy s.pageRank rs).map fun r => (r.frame, r.size))

/-- Every pool's used frames fit without the die (R378 step 2). -/
def State.fitsWithout (s : State) (d : Nat) : Bool :=
  let ws := windowsOf s.depot.table ((survivors s).length - 1)
  let shared := s.refs.all fun r =>
    (decide (0x20000000000 ≤ r.frame ∧ r.frame < 0x60000000000)) ||
      ws.any fun w => decide (w.base ≤ r.frame ∧ r.frame + r.size ≤ w.base + w.extent ∧ r.frame < w.base + 0x10000000000)
  let single := (s.pagesOn d).foldl (fun acc p => acc.bind fun used =>
    (s.newFrame d p.2 used).map fun a => (a, p.2) :: used) (some s.usedFrames)
  shared && single.isSome

/-! ### Requests (R378, R379) -/

/-- The result changes, with its interrupt. -/
def State.setResult (s : State) (n : BitVec 8) : State :=
  let o := s.depot.offline
  if o.result = n then s else (s.onOffline fun o => { o with result := n }).raiseVec 0 o.vec

/-- A drain of class 3 for the offline of a die, immediate where it is forced; the corridors concerned stand still until it has
ended. -/
def State.drainDie (s : State) (forced : Bool) (d : Nat) : State :=
  let s := s.onOffline fun o => { o with stopped := distinct (o.stopped ++ s.affected d) }
  (s.affected d).foldl (fun s c =>
    if !forced then s.drainFor c
    else if (s.cor c).requests.any fun r => r.record.isNone && r.cls == 3 && (r.immediate || (s.cor c).guards 3) then s
    else s.request c ⟨true, false, 3, none, s.clock, false⟩) s

/-- The pages of a die that a forced offline gives up, page tables among them. -/
def State.givenUp (s : State) (d : Nat) : List (Nat × Nat) :=
  (s.refs.filter fun r => s.homedOn r d).map fun r => (r.frame / 4096, r.size / 4096)

/-- The offline of a die begins: it is closed to placements; a forced one poisons what is not evacuated and skips the
capacity check. -/
def State.beginOffline (s : State) (d : Nat) (forced : Bool) : State :=
  let s := s.onOffline fun o => { o with die := BitVec.ofNat 2 d }
  if d = 0 ∨ 3 < d ∨ (s.die d).fenced then s.setResult 4
  else
    let lost := s.givenUp d
    let s := s.setDie d { s.die d with draining := true }
    let s := (s.onOffline fun o => { o with active := some (d, forced), phase := if forced then 2 else 1 }).setResult 1
    if forced then
      ({ s with far := { s.far with lost := s.far.lost ++ lost } } : State).drainDie true d
    else s

/-- The request in progress ends and the next queued one begins. -/
def State.endOffline (s : State) (result : BitVec 8) : State :=
  let s := (s.onOffline fun o => { o with active := none, phase := 0, notices := [], moved := [], stopped := [], left := 0 }).setResult result
  match s.depot.offline.queued with
  | [] => s
  | (d, f) :: r => (s.onOffline fun o => { o with queued := r }).beginOffline d f

/-- A request reaches the depot: a forced one for the die in progress turns its drain immediate, one for another die
waits. -/
def State.requestOffline (s : State) (d : Nat) (forced : Bool) : State :=
  match s.depot.offline.active with
  | none => s.beginOffline d forced
  | some (a, f) =>
    if a = d ∧ forced ∧ !f then s.beginOffline d true
    else (s.onOffline fun o => { o with queued := o.queued ++ [(d, forced)] }).setResult 5

/-- A write of the request register.
The depot's event bit 4 is set (assumption 93). -/
def State.writeOflReq (s : State) (value : Word) : State :=
  if bit value 3 then (s.depotEvent 4).requestOffline (bits value 1 0) (bit value 2) else s

/-- `OFL_REQ` (R379). -/
def execOflReq (value : Word) (s : State) : Out := .next (s.writeOflReq value)

/-- `DIE_CONTROLLER_FAILURE` (R378): the depot requests a forced offline, since what lies behind failed controllers cannot
be read (assumption 28). -/
def execDieControllerFailure (die : Nat) (s : State) : Out := .next (s.requestOffline die true)

/-! ### Evacuation (R378 steps 4 and 5, R379) -/

/-- The size code of a remap notice. -/
def sizeCode (n : Nat) : Nat :=
  if n = 4096 then 0 else if n = 65536 then 1 else if n = 2097152 then 2 else if n = 33554432 then 3
  else if n = gib then 4 else 5

/-- The contents of a page, with its errors, are copied to another frame. -/
def State.copyPage (s : State) (old new size : Nat) : State :=
  let o : Overlay := (cellsIn s.far.mem old size).map fun c => (c.1 - old + new, c.2)
  let there (a : Nat) : Bool := decide (old ≤ a ∧ a < old + size)
  { s with far := { s.far with
      mem := Mem.apply (Mem.clear s.far.mem new size) o
      poison := s.far.poison ++ (s.far.poison.filter there).map fun a => a - old + new } }

/-- A frame is given back. -/
def State.freePage (s : State) (old size : Nat) : State :=
  { s with far := { s.far with
      mem := Mem.clear s.far.mem old size
      poison := s.far.poison.filter fun a => !decide (old ≤ a ∧ a < old + size) } }

/-- The depot rewrites an entry, or the register of a top table, to name a new frame. -/
def State.rewrite (s : State) (r : PageRef) (new d : Nat) : State :=
  if r.root then
    { s with depot :=
      match r.ctx with
      | none => { s.depot with roots := KMap.set s.depot.roots r.pasid new }
      | some c => { s.depot with ctxRoots := KMap.set s.depot.ctxRoots c new } }
  else
  let e := BitVec.ofNat 64 (Mem.load s.far.mem r.at_ 8)
  let e := setBits e 51 12 (new / 4096)
  let e := if r.leaf then setBits e 11 10 d else e
  (s.farWrite r.at_ (leBytes 8 e.toNat)).invalidate fun p c v n =>
    c == none && p == r.pasid && decide (v < r.va + r.size ∧ r.va < v + n)

/-- The eight words of a remap notice (R379). -/
def noticeWords (seq ctx size ia old new : Nat) : List Word :=
  [BitVec.ofNat 64 (seq % 2 ^ 32 + ctx % 256 * 2 ^ 32 + size % 8 * 2 ^ 40), BitVec.ofNat 64 ia, BitVec.ofNat 64 old, BitVec.ofNat 64 new,
   0, 0, 0, 0]

/-- A notice is written to the remap ring and its vector raised. -/
def State.notice (s : State) (ctx size ia old new : Nat) : State :=
  let o := s.depot.offline
  let seq := o.rmpHead.toNat
  let s := s.hostWrite none (ringAt o.rmpBase seq) (wordBytes (noticeWords seq ctx size ia old new))
  let s := s.onOffline fun o => { o with
    rmpHead := o.rmpHead + 1, moved := KMap.set o.moved old new, notices := o.notices ++ [(seq, ctx, size, ia, old, new)] }
  s.raiseVec 0 o.vec

/-- One page of a die is evacuated: the depot rewrites the entries that name it; for those in a host's stage-2 leaves it
posts notices.  None where no other die has a place for it. -/
def State.evacuate (s : State) (d old size : Nat) : Option State :=
  match s.newFrame d size s.usedFrames with
  | none => none
  | some new =>
    let rs := s.refs.filter fun r => r.frame == old
    let hosts := rs.filter fun r => r.leaf && r.ctx.isSome
    let s := s.copyPage old new size
    let s := (rs.filter fun r => !(r.leaf && r.ctx.isSome)).foldl (fun s r => s.rewrite r new ((new - singleBase 0) / 0x10000000000)) s
    if hosts.isEmpty then some (s.freePage old size)
    else
      some (hosts.foldl (fun s r => s.notice (r.ctx.getD 0) (sizeCode size) r.va old new) s)

/-- The image on a die that is evacuated next (R378 step 4). -/
def State.imageOn (s : State) (d : Nat) : Option Survival :=
  s.depot.images.find? fun i => decide (singleBase d ≤ i.place ∧ i.place < singleBase d + 0x10000000000)

/-- An image moves to another die's single-home window; none where none has a place for it. -/
def State.evacuateImage (s : State) (d : Nat) (i : Survival) : Option State :=
  (s.newFrame d i.area s.usedFrames).map fun new =>
    let s := (s.copyPage i.place new i.area).freePage i.place i.area
    { s with depot := { s.depot with images := s.depot.images.map fun j => if j = i then { j with place := new } else j } }

/-- The free places of the remap ring. -/
def Offline.ringRoom (o : Offline) : Nat := 2 ^ bits o.rmpBase 3 0 - (o.rmpHead - o.rmpTail).toNat

/-- Every corridor that the offline stops stands still and holds no tile of the die. -/
def State.cleared (s : State) (d : Nat) : Bool :=
  (s.affected d).all fun c => !(s.cor c).live && !(s.vtiles.any fun v => v.1.1 == c && v.2.phys / 144 == d)

/-- Some frame of a page is held for a peer's commit (R351). -/
def State.heldPage (s : State) (old size : Nat) : Bool :=
  s.fabric.pinned.any fun p => decide (old / 4096 ≤ p.2 ∧ p.2 < (old + size) / 4096)

/-- The next page of a die, with its size and rank. -/
def State.nextPage (s : State) (d : Nat) : Option (Nat × Nat × Nat) :=
  (s.pagesOn d).head?.map fun p =>
    (p.1, p.2, ((s.refs.filter fun r => r.frame == p.1 && r.singleOn d).map s.pageRank).foldl min 5)

/-- The remap ring has no room for the notices of the next page. -/
def State.ringFull (s : State) (d : Nat) : Bool :=
  match s.nextPage d with
  | some (old, _, _) => decide (s.depot.offline.ringRoom < (s.refs.filter fun r => r.frame == old && r.leaf && r.ctx.isSome).length)
  | none => false

/-- One page or image more, or the end of the evacuation; a page that is held for a peer waits.  Images come behind the pages of
running and stopped corridors and before all others (R378 step 4). -/
def State.evacuateNext (s : State) (d : Nat) : State :=
  let o := s.depot.offline
  let s := s.onOffline fun o => { o with left := min 65535 (s.pagesOn d).length }
  let page := s.nextPage d
  match page, s.imageOn d with
  | none, none => if o.notices.isEmpty then s.onOffline fun o => { o with phase := 3 } else s
  | none, some i => (s.evacuateImage d i).getD (s.endOffline 3)
  | some (old, size, rank), image =>
    match if rank < 5 then none else image with
    | some i => (s.evacuateImage d i).getD (s.endOffline 3)
    | none =>
    let need := (s.refs.filter fun r => r.frame == old && r.leaf && r.ctx.isSome).length
    if 0 < need ∧ o.rmpBase = 0 then s.endOffline 3
    else if s.ringFull d ∨ s.heldPage old size then s
    else
      match s.evacuate d old size with
      | some t => t
      | none => s.endOffline 3

/-- A tile's copy of a page does not have the page's digest: the tile is charged and the page stays to be copied again (R378
step 5). -/
def State.copyFailed (s : State) (tile : Nat) : State :=
  match s.depot.offline.active with
  | some (d, false) =>
    if s.depot.offline.phase = 2 && s.cleared d && !(s.pagesOn d).isEmpty then s.suspect tile 256 else s
  | _ => s

/-- `DIE_OFFLINE` (R378): phase 1 checks the capacity and asks for the drains, phase 2 evacuates page by page, phase 3
fences the die.  Corridors that began to use the die since are drained too.  From 4 on the number is 4 and that of the tile
whose copy of a page has failed, a convention of the model (assumption 91). -/
def execDieOffline (phase : Nat) (s : State) : Out :=
  let o := s.depot.offline
  .next (match o.active with
    | none => s
    | some (d, forced) =>
      if 4 ≤ phase then s.copyFailed (phase - 4)
      else if phase ≠ o.phase then s
      else if phase = 1 then
        if s.fitsWithout d then (s.drainDie false d).onOffline fun o => { o with phase := 2 } else s.endOffline 3
      else if !s.cleared d then s.drainDie forced d
      else if phase = 2 ∧ !forced then s.evacuateNext d
      else
        ((s.setDie d { s.die d with fenced := true, draining := false }).awaitBarriers
          ((s.corridors.filter fun p => p.2.live).map Prod.fst)).endOffline 2)

/-- Drops the cached translations of a context that lead into a page, and the context's walks under way (R300). -/
def State.invalidatePage (s : State) (ctx old size : Nat) : State :=
  let hit (e : TlbEntry) : Bool := e.ctx == some ctx && decide (e.frame < old + size ∧ old < e.frame + e.size)
  { s with
    tiles := s.tiles.map fun p => (p.1, { p.2 with tlb := p.2.tlb.filter fun e => !hit e })
    dies := s.dies.map fun d =>
      { d with l2 := d.l2.filter fun e => !hit e, walks := d.walks.filter fun w => w.ctx != some ctx } }

/-- The host has carried out a notice: the context's translations of the page are invalidated and, with its last notice, its old frame is
freed. -/
def State.ackRemap (s : State) (seq : Nat) : State :=
  match s.depot.offline.notices.find? fun n => n.1 == seq with
    | none => s
    | some (q, ctx, sz, ia, old, new) =>
      let size := codeSize sz
      let s := s.invalidatePage ctx old size
      let s := s.onOffline fun o => { o with notices := o.notices.erase (q, ctx, sz, ia, old, new) }
      if s.depot.offline.notices.any fun n => n.2.2.2.2.1 == old then s
      else (s.freePage old size).onOffline fun o => { o with moved := KMap.erase o.moved old }

/-- `RMP_ACK` (R379). -/
def execRmpAck (seq : Nat) (s : State) : Out := .next (s.ackRemap seq)

/-- The depot has waited for a place in the remap ring, the next notice being the one with a sequence number. -/
def State.waitsRing (s : State) (seq : Nat) : Bool :=
  match s.depot.offline.active with
  | some (d, forced) => !forced && s.depot.offline.phase == 2 && s.cleared d && s.depot.offline.rmpHead.toNat == seq && s.ringFull d
  | none => false

/-- `RMP_TIMEOUT` (R378, R379): the orderly request ends with EVAC_NOSPACE, also where the ring has been full all the time. -/
def execRmpTimeout (seq : Nat) (s : State) : Out :=
  .next (if (s.depot.offline.notices.any fun n => n.1 == seq) || s.waitsRing seq then s.endOffline 3 else s)

/-! ### Register writes (R107, R304, R305, R349, R350, R355, R359, R363, R364, R379) -/

/-- Changes an aperture that the host is setting; it is installed at a barrier. -/
def State.setAperture (s : State) (pasid i : Nat) (f : Aperture → Aperture) : State :=
  if 16 ≤ i then s
  else s.onHost fun h =>
    let old := KMap.getD h.apertureNext (pasid, i) (KMap.getD h.apertures (pasid, i) ⟨0, 0, 0, pasid, 0⟩)
    { h with apertureNext := KMap.set h.apertureNext (pasid, i) (f old) }

/-- Changes a send queue's binding. -/
def State.setSend (s : State) (q : Nat) (f : SendQueue → SendQueue) : State :=
  if 4096 ≤ q then s
  else s.onHost fun h => { h with sendQueues := KMap.set h.sendQueues q (f (KMap.getD h.sendQueues q SendQueue.reset)) }

/-- The host copies an image of layer 2 into the shared store outside the device, layer 3 (R380). -/
def State.keepImage (s : State) (c serial : Nat) : State :=
  match s.depot.flash.find? fun i => i.cor == c && i.serial == serial with
  | none => s
  | some i =>
    let mine := (s.depot.store.filter fun j => j.cor == c && j.serial != serial) ++ [i]
    { s with depot := { s.depot with store := (s.depot.store.filter fun j => j.cor != c) ++ sortBy Survival.serial mine } }

/-- Masks a vector, or unmasks it and sends what is pending. -/
def Func.mask (f : Func) (v : Nat) (on : Bool) : Func :=
  if on then { f with masked := if f.masked.contains v then f.masked else f.masked ++ [v] }
  else
    { f with
      masked := f.masked.filter (· != v), pendingVec := f.pendingVec.filter (· != v)
      posted := if f.pendingVec.contains v then f.posted ++ [(v, none)] else f.posted }

/-- The base of a ring: address and size. -/
def ringMask : Word := 0xFFFFFFFFFFFFF00F

/-- The number by which a register write names the depot, which is no function: timeout, retries and the flight time of the
domain are its to set (R355); the number is the model's (assumption 91). -/
def depotFn : Nat := 65

/-- A function or the depot writes a register: one of PF0 alone is not written through another function, an aperture only
through the function of its PASID or PF0 (R350, R361). -/
def State.writeReg (s : State) (fn : Nat) (r : HostReg) (value : Word) : State :=
  let pf (t : State) : State := if fn = 0 then t else s
  let depot (t : State) : State := if fn = depotFn then t else s
  let own (p : Nat) (t : State) : State := if fn = 0 ∨ (s.func fn).pasid = p then t else s
  let n := value.toNat
  match r with
    | .bar0 _ => s
    | .keepImage c => pf (s.keepImage c n)
    | .notifyPage i => pf (if 16 ≤ i then s else s.onHost fun h => { h with notifyPages := KMap.set h.notifyPages i value })
    | .queueOwner q =>
      pf (if 1024 ≤ q ∨ 64 < n then s else s.setQueue q { s.queue q with owner := n, disabled := false })
    | .functionPasid f => pf (if 64 < f then s else s.setFunc f { s.func f with pasid := bits value 19 0 })
    | .packageNumber => pf (s.onFabric fun f => { f with pkg := bits value 7 0 })
    | .apertureVa p i => own p (s.setAperture p i fun a => { a with va := n })
    | .apertureSize p i => own p (s.setAperture p i fun a => { a with size := n })
    | .aperturePkg p i => own p (s.setAperture p i fun a => { a with pkg := bits value 7 0 })
    | .aperturePasid p i => own p (s.setAperture p i fun a => { a with pasid := bits value 19 0 })
    | .apertureTarget p i => own p (s.setAperture p i fun a => { a with target := n })
    | .sendOwner q => pf (s.setSend q fun k => { k with owner := n })
    | .sendPort q => pf (s.setSend q fun k => { k with port := bits value 1 0 })
    | .sendOrdered q => pf (s.setSend q fun k => { k with ordered := bit value 0 })
    | .sendRing q => pf (s.setSend q fun k => { k with ring := n })
    | .sendHeader q i =>
      pf (s.setSend q fun k => if h : i < 16 then { k with header := k.header.set i value h } else k)
    | .recvBuffer q => s.onHost fun h => { h with
        recvBuffers := KMap.set h.recvBuffers q (KMap.getD h.recvBuffers q [] ++ [(fn, n)]) }
    | .frBase => s.setFunc fn { s.func fn with frBase := value &&& ringMask }
    | .frTail => (s.setFunc fn { s.func fn with frTail := value.setWidth 32 }).flushFaults fn s.host.faults.length
    | .frVec => s.setFunc fn { s.func fn with frVec := value.setWidth 17 }
    | .oflVec => pf (s.onOffline fun o => { o with vec := value.setWidth 17 })
    | .rmpBase => pf (s.onOffline fun o => { o with rmpBase := value &&& ringMask })
    | .rmpTail => pf (s.onOffline fun o => { o with rmpTail := value.setWidth 32 })
    | .vectorMask v => s.setFunc fn ((s.func fn).mask v (bit value 0))
    | .vectorAddr v => s.setFunc fn { s.func fn with vecAddr := KMap.set (s.func fn).vecAddr v value }
    | .rootTable p => pf { s with depot := { s.depot with roots := KMap.set s.depot.roots p (bits value 51 12 * 4096) } }
    | .stage2Table c => pf { s with depot := { s.depot with ctxRoots := KMap.set s.depot.ctxRoots c (bits value 51 12 * 4096) } }
    | .retryTimeout => depot (if 8 ≤ n ∧ n ≤ 1024 then s.onFabric fun f => { f with timeoutUs := n } else s)
    | .retryCount => depot (if n ≤ 3 then s.onFabric fun f => { f with retries := n } else s)
    | .flightTime => depot (s.onFabric fun f => { f with flightUs := n })

/-- The queues that a function owns, ascending. -/
def State.owned (s : State) (fn : Nat) : List Nat := (List.range 1024).filter fun q => (s.queue q).owner == fn

/-- A write to the page fault interface of a function, at an offset of it (R363). -/
def State.writeFr (s : State) (fn offset : Nat) (value : Word) : State :=
  match offset with
  | 0x00 => s.writeReg fn .frBase value
  | 0x10 => s.writeReg fn .frTail value
  | 0x18 => s.writeReg fn .frVec value
  | 0x20 => s.answerFault fn (bits value 31 0) (bit value 32)
  | _ => s

/-- A write to the die offline interface, at an offset of it (R379). -/
def State.writeOfl (s : State) (offset : Nat) (value : Word) : State :=
  match offset with
  | 0x00 => s.writeOflReq value
  | 0x10 => s.writeReg 0 .oflVec value
  | 0x18 => s.writeReg 0 .rmpBase value
  | 0x28 => s.writeReg 0 .rmpTail value
  | 0x30 => s.ackRemap (bits value 31 0)
  | _ => s

/-- A write at an offset of a function's BAR0: PF0's 64 MiB with the doorbells from 0x100000, the page fault interface at
0x200000 and the die offline interface at 0x300000; a virtual function's 128 KiB with the doorbells of the queues it owns and
its page fault interface at 0x10000 (R361).  Any other place, read-only or outside, takes no effect, nor does a write inside
a doorbell's 64 bytes that is not at their start (assumption 89). -/
def State.writeBar0 (s : State) (fn offset : Nat) (value : Word) : State :=
  if fn = 0 then
    if offset < 0x100000 then s
    else if offset < 0x100000 + 64 * 1024 then if offset % 64 = 0 then s.doorbell 0 ((offset - 0x100000) / 64) else s
    else if offset < 0x200000 then s
    else if offset < 0x300000 then s.writeFr 0 (offset - 0x200000) value
    else s.writeOfl (offset - 0x300000) value
  else if fn ≤ 64 then
    if offset < 0x10000 then
      match (s.owned fn)[offset / 64]? with
      | some q => if offset % 64 = 0 then s.doorbell fn q else s
      | none => s
    else s.writeFr fn (offset - 0x10000) value
  else s

/-- `REGISTER_WRITE` (R107, R361): a place of BAR0, or a register that the spec places nowhere. -/
def execRegisterWrite (fn : Nat) (r : HostReg) (value : Word) (s : State) : Out :=
  .next (match r with
    | .bar0 offset => s.writeBar0 fn offset value
    | _ => s.writeReg fn r value)

end Sys2Proof.Machine
end

