-- ==== Sys2Proof/Machine/Dispatch.lean ====
section
/-! DEFINITION. One arm per step of the KX-TH8M: a direct call of its meaning. -/

namespace Sys2Proof.Machine

/-- Executes one instruction or event. -/
def exec (i : Instr) (s : State) : Host.Outcome State Fault Refusal :=
  match i with
  | .add o x => Sys2Proof.Machine.execAdd o x s
  | .sub o x => Sys2Proof.Machine.execSub o x s
  | .mul o x => Sys2Proof.Machine.execMul o x s
  | .mulh o x => Sys2Proof.Machine.execMulh o x s
  | .and_ o => Sys2Proof.Machine.execAnd o s
  | .or_ o => Sys2Proof.Machine.execOr o s
  | .xor_ o => Sys2Proof.Machine.execXor o s
  | .andn o => Sys2Proof.Machine.execAndn o s
  | .shl o => Sys2Proof.Machine.execShl o s
  | .shr o => Sys2Proof.Machine.execShr o s
  | .sra o => Sys2Proof.Machine.execSra o s
  | .rol o => Sys2Proof.Machine.execRol o s
  | .slt o => Sys2Proof.Machine.execSlt o s
  | .sltu o => Sys2Proof.Machine.execSltu o s
  | .seq o => Sys2Proof.Machine.execSeq o s
  | .sne o => Sys2Proof.Machine.execSne o s
  | .min o x => Sys2Proof.Machine.execMin o x s
  | .max o x => Sys2Proof.Machine.execMax o x s
  | .minu o x => Sys2Proof.Machine.execMinu o x s
  | .maxu o x => Sys2Proof.Machine.execMaxu o x s
  | .addi o x => Sys2Proof.Machine.execAddi o x s
  | .andi o => Sys2Proof.Machine.execAndi o s
  | .ori o => Sys2Proof.Machine.execOri o s
  | .xori o => Sys2Proof.Machine.execXori o s
  | .shli o => Sys2Proof.Machine.execShli o s
  | .shri o => Sys2Proof.Machine.execShri o s
  | .srai o => Sys2Proof.Machine.execSrai o s
  | .li o => Sys2Proof.Machine.execLi o s
  | .lih o => Sys2Proof.Machine.execLih o s
  | .ldB o => Sys2Proof.Machine.execLdB o s
  | .ldH o => Sys2Proof.Machine.execLdH o s
  | .ldW o => Sys2Proof.Machine.execLdW o s
  | .ldD o => Sys2Proof.Machine.execLdD o s
  | .ldBs o => Sys2Proof.Machine.execLdBs o s
  | .ldHs o => Sys2Proof.Machine.execLdHs o s
  | .ldWs o => Sys2Proof.Machine.execLdWs o s
  | .stB o => Sys2Proof.Machine.execStB o s
  | .stH o => Sys2Proof.Machine.execStH o s
  | .stW o => Sys2Proof.Machine.execStW o s
  | .stD o => Sys2Proof.Machine.execStD o s
  | .b o => Sys2Proof.Machine.execB o s
  | .j off => Sys2Proof.Machine.execJ off s
  | .call off => Sys2Proof.Machine.execCall off s
  | .jr a => Sys2Proof.Machine.execJr a s
  | .callr a => Sys2Proof.Machine.execCallr a s
  | .ret => Sys2Proof.Machine.execRet s
  | .rep o => Sys2Proof.Machine.execRep o s
  | .div o => Sys2Proof.Machine.execDiv o s
  | .divu o => Sys2Proof.Machine.execDivu o s
  | .rem o => Sys2Proof.Machine.execRem o s
  | .remu o => Sys2Proof.Machine.execRemu o s
  | .clz o => Sys2Proof.Machine.execClz o s
  | .ctz o => Sys2Proof.Machine.execCtz o s
  | .pop o => Sys2Proof.Machine.execPop o s
  | .brev o => Sys2Proof.Machine.execBrev o s
  | .bfx o w => Sys2Proof.Machine.execBfx o w s
  | .bfxs o w => Sys2Proof.Machine.execBfxs o w s
  | .bfi o w => Sys2Proof.Machine.execBfi o w s
  | .sel o c => Sys2Proof.Machine.execSel o c s
  | .selz o c => Sys2Proof.Machine.execSelz o c s
  | .faddF32 o x => Sys2Proof.Machine.execFaddF32 o x s
  | .fsubF32 o x => Sys2Proof.Machine.execFsubF32 o x s
  | .fmulF32 o x => Sys2Proof.Machine.execFmulF32 o x s
  | .fdivF32 o x => Sys2Proof.Machine.execFdivF32 o x s
  | .faddF64 o x => Sys2Proof.Machine.execFaddF64 o x s
  | .fsubF64 o x => Sys2Proof.Machine.execFsubF64 o x s
  | .fmulF64 o x => Sys2Proof.Machine.execFmulF64 o x s
  | .fdivF64 o x => Sys2Proof.Machine.execFdivF64 o x s
  | .fmaF32 o c x => Sys2Proof.Machine.execFmaF32 o c x s
  | .fmsF32 o c x => Sys2Proof.Machine.execFmsF32 o c x s
  | .fnmaF32 o c x => Sys2Proof.Machine.execFnmaF32 o c x s
  | .fnmsF32 o c x => Sys2Proof.Machine.execFnmsF32 o c x s
  | .fmaF64 o c x => Sys2Proof.Machine.execFmaF64 o c x s
  | .fmsF64 o c x => Sys2Proof.Machine.execFmsF64 o c x s
  | .fnmaF64 o c x => Sys2Proof.Machine.execFnmaF64 o c x s
  | .fnmsF64 o c x => Sys2Proof.Machine.execFnmsF64 o c x s
  | .fminF32 o x => Sys2Proof.Machine.execFminF32 o x s
  | .fmaxF32 o x => Sys2Proof.Machine.execFmaxF32 o x s
  | .fminF64 o x => Sys2Proof.Machine.execFminF64 o x s
  | .fmaxF64 o x => Sys2Proof.Machine.execFmaxF64 o x s
  | .fsqrtF32 o x => Sys2Proof.Machine.execFsqrtF32 o x s
  | .fsqrtF64 o x => Sys2Proof.Machine.execFsqrtF64 o x s
  | .feqF32 o => Sys2Proof.Machine.execFeqF32 o s
  | .fltF32 o => Sys2Proof.Machine.execFltF32 o s
  | .fleF32 o => Sys2Proof.Machine.execFleF32 o s
  | .funoF32 o => Sys2Proof.Machine.execFunoF32 o s
  | .feqF64 o => Sys2Proof.Machine.execFeqF64 o s
  | .fltF64 o => Sys2Proof.Machine.execFltF64 o s
  | .fleF64 o => Sys2Proof.Machine.execFleF64 o s
  | .funoF64 o => Sys2Proof.Machine.execFunoF64 o s
  | .fcvt o x => Sys2Proof.Machine.execFcvt o x s
  | .ldaW o op => Sys2Proof.Machine.execLdaW o op s
  | .ldaD o op => Sys2Proof.Machine.execLdaD o op s
  | .vadd o x => Sys2Proof.Machine.execVadd o x s
  | .vsub o x => Sys2Proof.Machine.execVsub o x s
  | .vmul o x => Sys2Proof.Machine.execVmul o x s
  | .vmulh o x => Sys2Proof.Machine.execVmulh o x s
  | .vfma o x => Sys2Proof.Machine.execVfma o x s
  | .vfms o x => Sys2Proof.Machine.execVfms o x s
  | .vfnma o x => Sys2Proof.Machine.execVfnma o x s
  | .vfnms o x => Sys2Proof.Machine.execVfnms o x s
  | .vmin o x => Sys2Proof.Machine.execVmin o x s
  | .vmax o x => Sys2Proof.Machine.execVmax o x s
  | .vabd o x => Sys2Proof.Machine.execVabd o x s
  | .vavg o x => Sys2Proof.Machine.execVavg o x s
  | .vand o => Sys2Proof.Machine.execVand o s
  | .vor o => Sys2Proof.Machine.execVor o s
  | .vxor o => Sys2Proof.Machine.execVxor o s
  | .vandn o => Sys2Proof.Machine.execVandn o s
  | .vshl o => Sys2Proof.Machine.execVshl o s
  | .vshr o => Sys2Proof.Machine.execVshr o s
  | .vsra o => Sys2Proof.Machine.execVsra o s
  | .vrol o => Sys2Proof.Machine.execVrol o s
  | .vcmpEq o => Sys2Proof.Machine.execVcmpEq o s
  | .vcmpLt o => Sys2Proof.Machine.execVcmpLt o s
  | .vcmpLe o => Sys2Proof.Machine.execVcmpLe o s
  | .vcmpNe o => Sys2Proof.Machine.execVcmpNe o s
  | .vsel o => Sys2Proof.Machine.execVsel o s
  | .vcvt o x => Sys2Proof.Machine.execVcvt o x s
  | .vredAdd o x => Sys2Proof.Machine.execVredAdd o x s
  | .vredMin o x => Sys2Proof.Machine.execVredMin o x s
  | .vredMax o x => Sys2Proof.Machine.execVredMax o x s
  | .vredAddo o x => Sys2Proof.Machine.execVredAddo o x s
  | .vdot4 o x => Sys2Proof.Machine.execVdot4 o x s
  | .vdot2 o x => Sys2Proof.Machine.execVdot2 o x s
  | .vld o m => Sys2Proof.Machine.execVld o m s
  | .vst o m => Sys2Proof.Machine.execVst o m s
  | .vgat o => Sys2Proof.Machine.execVgat o s
  | .vsct o => Sys2Proof.Machine.execVsct o s
  | .vbc o => Sys2Proof.Machine.execVbc o s
  | .vins o => Sys2Proof.Machine.execVins o s
  | .vext o t => Sys2Proof.Machine.execVext o t s
  | .vidx o => Sys2Proof.Machine.execVidx o s
  | .vperm o => Sys2Proof.Machine.execVperm o s
  | .vzip o => Sys2Proof.Machine.execVzip o s
  | .vuzp o => Sys2Proof.Machine.execVuzp o s
  | .vrot o => Sys2Proof.Machine.execVrot o s
  | .vsf o f x => Sys2Proof.Machine.execVsf o f x s
  | .vsfFast o f x => Sys2Proof.Machine.execVsfFast o f x s
  | .vrng o m => Sys2Proof.Machine.execVrng o m s
  | .vrngF o m => Sys2Proof.Machine.execVrngF o m s
  | .gaddr o t => Sys2Proof.Machine.execGaddr o t s
  | .gowner o t => Sys2Proof.Machine.execGowner o t s
  | .mlease n => Sys2Proof.Machine.execMlease n s
  | .mtry d n => Sys2Proof.Machine.execMtry d n s
  | .mrel => Sys2Proof.Machine.execMrel s
  | .mmma o => Sys2Proof.Machine.execMmma o s
  | .ast h a => Sys2Proof.Machine.execAst h a s
  | .astAdd h a => Sys2Proof.Machine.execAstAdd h a s
  | .ald h a => Sys2Proof.Machine.execAld h a s
  | .azero h => Sys2Proof.Machine.execAzero h s
  | .arel h => Sys2Proof.Machine.execArel h s
  | .mwait h => Sys2Proof.Machine.execMwait h s
  | .dld o => Sys2Proof.Machine.execDld o s
  | .dst o => Sys2Proof.Machine.execDst o s
  | .dpt d a m lin => Sys2Proof.Machine.execDpt d a m lin s
  | .dpte d g m lin => Sys2Proof.Machine.execDpte d g m lin s
  | .dpm d a b m lin => Sys2Proof.Machine.execDpm d a b m lin s
  | .dadd o => Sys2Proof.Machine.execDadd o s
  | .dsub o => Sys2Proof.Machine.execDsub o s
  | .dmul o => Sys2Proof.Machine.execDmul o s
  | .ddiv o => Sys2Proof.Machine.execDdiv o s
  | .dmin o => Sys2Proof.Machine.execDmin o s
  | .dmax o => Sys2Proof.Machine.execDmax o s
  | .dmix o => Sys2Proof.Machine.execDmix o s
  | .dscl d a b m => Sys2Proof.Machine.execDscl d a b m s
  | .dsht d a b m => Sys2Proof.Machine.execDsht d a b m s
  | .dmom d a f m => Sys2Proof.Machine.execDmom d a f m s
  | .dqnt d a b m => Sys2Proof.Machine.execDqnt d a b m s
  | .dcdf d a b m => Sys2Proof.Machine.execDcdf d a b m s
  | .dtgr d a => Sys2Proof.Machine.execDtgr d a s
  | .dtgw d a m lin => Sys2Proof.Machine.execDtgw d a m lin s
  | .dmov d a m => Sys2Proof.Machine.execDmov d a m s
  | .qcfg a => Sys2Proof.Machine.execQcfg a s
  | .qres a => Sys2Proof.Machine.execQres a s
  | .qstg n a => Sys2Proof.Machine.execQstg n a s
  | .qtm d a f => Sys2Proof.Machine.execQtm d a f s
  | .qfin g a la => Sys2Proof.Machine.execQfin g a la s
  | .qdec d g b => Sys2Proof.Machine.execQdec d g b s
  | .qst a b => Sys2Proof.Machine.execQst a b s
  | .qset o => Sys2Proof.Machine.execQset o s
  | .ldfW o => Sys2Proof.Machine.execLdfW o s
  | .ldfD o => Sys2Proof.Machine.execLdfD o s
  | .vldf o => Sys2Proof.Machine.execVldf o s
  | .stfW o => Sys2Proof.Machine.execStfW o s
  | .stfD o => Sys2Proof.Machine.execStfD o s
  | .vstf o => Sys2Proof.Machine.execVstf o s
  | .accF32 a b => Sys2Proof.Machine.execAccF32 a b s
  | .accF64 a b => Sys2Proof.Machine.execAccF64 a b s
  | .accI64 a b => Sys2Proof.Machine.execAccI64 a b s
  | .accV16 a b => Sys2Proof.Machine.execAccV16 a b s
  | .amoiW o op => Sys2Proof.Machine.execAmoiW o op s
  | .amoiD o op => Sys2Proof.Machine.execAmoiD o op s
  | .cpush a => Sys2Proof.Machine.execCpush a s
  | .cpushTry d a => Sys2Proof.Machine.execCpushTry d a s
  | .mbw d => Sys2Proof.Machine.execMbw d s
  | .mbwTo d a => Sys2Proof.Machine.execMbwTo d a s
  | .mbp d => Sys2Proof.Machine.execMbp d s
  | .mbpTry d => Sys2Proof.Machine.execMbpTry d s
  | .pfl o u => Sys2Proof.Machine.execPfl o u s
  | .pflClr => Sys2Proof.Machine.execPflClr s
  | .pflN o u => Sys2Proof.Machine.execPflN o u s
  | .xall o => Sys2Proof.Machine.execXall o s
  | .bar => Sys2Proof.Machine.execBar s
  | .barRed g op => Sys2Proof.Machine.execBarRed g op s
  | .barEnd => Sys2Proof.Machine.execBarEnd s
  | .barEndr g op => Sys2Proof.Machine.execBarEndr g op s
  | .vote => Sys2Proof.Machine.execVote s
  | .bwait a b => Sys2Proof.Machine.execBwait a b s
  | .fence mask kind => Sys2Proof.Machine.execFence mask kind s
  | .csrr d n => Sys2Proof.Machine.execCsrr d n s
  | .csrw d a n => Sys2Proof.Machine.execCsrw d a n s
  | .csrs d a n => Sys2Proof.Machine.execCsrs d a n s
  | .csrc d a n => Sys2Proof.Machine.execCsrc d a n s
  | .trap code => Sys2Proof.Machine.execTrap code s
  | .ebrk code => Sys2Proof.Machine.execEbrk code s
  | .yld => Sys2Proof.Machine.execYld s
  | .tlbi a b => Sys2Proof.Machine.execTlbi a b s
  | .rfe => Sys2Proof.Machine.execRfe s
  | .wfe => Sys2Proof.Machine.execWfe s
  | .ipost a b => Sys2Proof.Machine.execIpost a b s
  | .illegalDecode priv => Sys2Proof.Machine.execIllegalDecode priv s
  | .windowDataLands id w => Sys2Proof.Machine.execWindowDataLands id w s
  | .farReadServe id w => Sys2Proof.Machine.execFarReadServe id w s
  | .remoteDeltaAccept c st n => Sys2Proof.Machine.execRemoteDeltaAccept c st n s
  | .laybyWake id => Sys2Proof.Machine.execLaybyWake id s
  | .mbwTimeout id => Sys2Proof.Machine.execMbwTimeout id s
  | .copy id n => Sys2Proof.Machine.execCopy id n s
  | .bcast id n => Sys2Proof.Machine.execBcast id n s
  | .send id n => Sys2Proof.Machine.execSend id n s
  | .fill id n => Sys2Proof.Machine.execFill id n s
  | .digest id n => Sys2Proof.Machine.execDigest id n s
  | .exchange id n => Sys2Proof.Machine.execExchange id n s
  | .commandComplete id n => Sys2Proof.Machine.execCommandComplete id n s
  | .mailboxPost id => Sys2Proof.Machine.execMailboxPost id s
  | .stagerUnitFetch c vt st n => Sys2Proof.Machine.execStagerUnitFetch c vt st n s
  | .stagedUnitLands c vt st n => Sys2Proof.Machine.execStagedUnitLands c vt st n s
  | .stagedCopyForward c st n => Sys2Proof.Machine.execStagedCopyForward c st n s
  | .leaseGrant tile => Sys2Proof.Machine.execLeaseGrant tile s
  | .slotAllocate id => Sys2Proof.Machine.execSlotAllocate id s
  | .matrixCommandRun tile => Sys2Proof.Machine.execMatrixCommandRun tile s
  | .matrixCommandDone tile => Sys2Proof.Machine.execMatrixCommandDone tile s
  | .arrival id => Sys2Proof.Machine.execArrival id s
  | .quiesce c st => Sys2Proof.Machine.execQuiesce c st s
  | .linkTimeout c st => Sys2Proof.Machine.execLinkTimeout c st s
  | .strikeHorizon c st => Sys2Proof.Machine.execStrikeHorizon c st s
  | .junctionVote c st => Sys2Proof.Machine.execJunctionVote c st s
  | .junctionDecision c st vt => Sys2Proof.Machine.execJunctionDecision c st vt s
  | .commitDrain c st vt => Sys2Proof.Machine.execCommitDrain c st vt s
  | .farDrainEntry c st => Sys2Proof.Machine.execFarDrainEntry c st s
  | .commitFarComplete c st => Sys2Proof.Machine.execCommitFarComplete c st s
  | .heldOpRelease id => Sys2Proof.Machine.execHeldOpRelease id s
  | .atomicExecute n => Sys2Proof.Machine.execAtomicExecute n s
  | .amoiResult id => Sys2Proof.Machine.execAmoiResult id s
  | .crossStageDelivery n => Sys2Proof.Machine.execCrossStageDelivery n s
  | .resultAreaWrite c st => Sys2Proof.Machine.execResultAreaWrite c st s
  | .corridorCompletion c => Sys2Proof.Machine.execCorridorCompletion c s
  | .earlyAbort c st => Sys2Proof.Machine.execEarlyAbort c st s
  | .rollback c st vt => Sys2Proof.Machine.execRollback c st vt s
  | .causeService c st => Sys2Proof.Machine.execCauseService c st s
  | .strikeReport die block => Sys2Proof.Machine.execStrikeReport die block s
  | .sensorSelfTest die block good => Sys2Proof.Machine.execSensorSelfTest die block good s
  | .eccError at_ fatal => Sys2Proof.Machine.execEccError at_ fatal s
  | .parityError site => Sys2Proof.Machine.execParityError site s
  | .lineRetire pa => Sys2Proof.Machine.execLineRetire pa s
  | .suspicionDecay => Sys2Proof.Machine.execSuspicionDecay s
  | .tileWithdraw tile => Sys2Proof.Machine.execTileWithdraw tile s
  | .targetedTest tile pass => Sys2Proof.Machine.execTargetedTest tile pass s
  | .ageingMonitorRead die cluster birth count => Sys2Proof.Machine.execAgeingMonitorRead die cluster birth count s
  | .clockStepApply die cluster => Sys2Proof.Machine.execClockStepApply die cluster s
  | .clockStepTimeout die cluster => Sys2Proof.Machine.execClockStepTimeout die cluster s
  | .modulePowerEvent watts => Sys2Proof.Machine.execModulePowerEvent watts s
  | .coreCurrentEvent amps die => Sys2Proof.Machine.execCoreCurrentEvent amps die s
  | .thermalEvent die cluster celsius => Sys2Proof.Machine.execThermalEvent die cluster celsius s
  | .boot b => Sys2Proof.Machine.execBoot b s
  | .depotException id cause addr => Sys2Proof.Machine.execDepotException id cause addr s
  | .dtmExpire id => Sys2Proof.Machine.execDtmExpire id s
  | .doorbell fn q => Sys2Proof.Machine.execDoorbell fn q s
  | .queueMap => Sys2Proof.Machine.execQueueMap s
  | .queueSlotTimeout q => Sys2Proof.Machine.execQueueSlotTimeout q s
  | .launch n => Sys2Proof.Machine.execLaunch n s
  | .preempt n => Sys2Proof.Machine.execPreempt n s
  | .resume n => Sys2Proof.Machine.execResume n s
  | .launchPlace c => Sys2Proof.Machine.execLaunchPlace c s
  | .sliceExpiry c => Sys2Proof.Machine.execSliceExpiry c s
  | .drainTimeout c => Sys2Proof.Machine.execDrainTimeout c s
  | .immediatePreempt c => Sys2Proof.Machine.execImmediatePreempt c s
  | .kill c => Sys2Proof.Machine.execKill c s
  | .swapOut c => Sys2Proof.Machine.execSwapOut c s
  | .corridorResume c place => Sys2Proof.Machine.execCorridorResume c place s
  | .migration c place => Sys2Proof.Machine.execMigration c place s
  | .hostHaltRequest c => Sys2Proof.Machine.execHostHaltRequest c s
  | .debugStateWrite id w => Sys2Proof.Machine.execDebugStateWrite id w s
  | .singleStep id => Sys2Proof.Machine.execSingleStep id s
  | .debugResume c => Sys2Proof.Machine.execDebugResume c s
  | .invalidationService pasid => Sys2Proof.Machine.execInvalidationService pasid s
  | .walkComplete die => Sys2Proof.Machine.execWalkComplete die s
  | .connectionTableWrite circuit value => Sys2Proof.Machine.execConnectionTableWrite circuit value s
  | .circuitLockLoss circuit => Sys2Proof.Machine.execCircuitLockLoss circuit s
  | .flitReceive port flit => Sys2Proof.Machine.execFlitReceive port flit s
  | .laneFailure port lane => Sys2Proof.Machine.execLaneFailure port lane s
  | .retrainComplete port => Sys2Proof.Machine.execRetrainComplete port s
  | .fabricRequest r => Sys2Proof.Machine.execFabricRequest r s
  | .fabricReply r => Sys2Proof.Machine.execFabricReply r s
  | .fabricAttemptTimeout pkg tag => Sys2Proof.Machine.execFabricAttemptTimeout pkg tag s
  | .busyRetry pkg tag => Sys2Proof.Machine.execBusyRetry pkg tag s
  | .tagQuarantineEnd pkg tag => Sys2Proof.Machine.execTagQuarantineEnd pkg tag s
  | .duplicateEntryExpire pkg tag inc => Sys2Proof.Machine.execDuplicateEntryExpire pkg tag inc s
  | .ueInboundMessage q data => Sys2Proof.Machine.execUeInboundMessage q data s
  | .ueMessageDone q acked => Sys2Proof.Machine.execUeMessageDone q acked s
  | .bar2Access a => Sys2Proof.Machine.execBar2Access a s
  | .functionLevelReset vf => Sys2Proof.Machine.execFunctionLevelReset vf s
  | .pf0LinkReset => Sys2Proof.Machine.execPf0LinkReset s
  | .atsInvalidation pasid va => Sys2Proof.Machine.execAtsInvalidation pasid va s
  | .pageRequestResponse c ok => Sys2Proof.Machine.execPageRequestResponse c ok s
  | .pageRequestTimeout c => Sys2Proof.Machine.execPageRequestTimeout c s
  | .frResp fn seq fail => Sys2Proof.Machine.execFrResp fn seq fail s
  | .frTimeout fn seq => Sys2Proof.Machine.execFrTimeout fn seq s
  | .oflReq value => Sys2Proof.Machine.execOflReq value s
  | .dieOffline phase => Sys2Proof.Machine.execDieOffline phase s
  | .rmpAck seq => Sys2Proof.Machine.execRmpAck seq s
  | .rmpTimeout seq => Sys2Proof.Machine.execRmpTimeout seq s
  | .registerWrite fn r value => Sys2Proof.Machine.execRegisterWrite fn r value s
  | .retuningComplete circuit => Sys2Proof.Machine.execRetuningComplete circuit s
  | .flashLayerWrite c serial => Sys2Proof.Machine.execFlashLayerWrite c serial s
  | .replicaDigestRequest c mm => Sys2Proof.Machine.execReplicaDigestRequest c mm s
  | .dieControllerFailure die => Sys2Proof.Machine.execDieControllerFailure die s

end Sys2Proof.Machine
end

