-- ==== Sys2Proof/Machine/Progress.lean ====
section
/-! DEFINITION. What the next step of the package is: an event of the agenda, an instruction of a ready strand, an event of
the device's own engines, or nothing (assumption 16). -/

namespace Sys2Proof.Machine

/-- The row is an event of the device: it has no encoding. -/
def isEvent (i : Instr) : Bool := (Encode.chain i).isNone

/-! ### Events that the package's own engines may bring about -/

/-- What an event does to the state. -/
abbrev Due := State → Out

/-- Those of one strand: its far reads, its windows, its commands, its mailbox, what its commits released. -/
def State.strandEvents (s : State) (id : StrandId) : List Due :=
  let x := s.strand id
  let command (c : CopyCmd) : Due :=
    if c.exchange then execExchange id c.seq
    else
      match bits c.w0 7 0 with
      | 1 => execCopy id c.seq
      | 2 => execBcast id c.seq
      | 3 => execSend id c.seq
      | 4 => execFill id c.seq
      | _ => execDigest id c.seq
  (x.windows.flatMap fun w =>
    if w.read.isSome then [execFarReadServe id w.id] else if w.landed then [] else [execWindowDataLands id w.id]) ++
  (if x.status == .arriving then [execArrival id] else []) ++
  (x.running.map fun c => if c.done then execCommandComplete id c.seq else command c) ++
  (x.fifo.take 1).map command ++
  (if x.mailWaiting.isEmpty then [] else [execMailboxPost id]) ++
  (match x.wait with
   | .mail _ => [execLaybyWake id]
   | .mailTimed _ d => if x.mailbox.isEmpty then (if d ≤ s.clock then [execMbwTimeout id] else []) else [execLaybyWake id]
   | .stage _ _ => [execLaybyWake id]
   | .slot => [execSlotAllocate id]
   | _ => []) ++
  (if x.released.isEmpty then [] else [execHeldOpRelease id]) ++
  (if s.amoResults.any fun r => decide (r.id = id) then [execAmoiResult id] else [])

/-- Those of one tile's matrix unit and lease, and of its suspicion score. -/
def State.tileEvents (s : State) (p : Nat) : List Due :=
  let t := s.tile p
  (if t.cmdRunning.isSome then [execMatrixCommandDone p] else if t.queue.isEmpty then [] else [execMatrixCommandRun p]) ++
  (if t.leaseQueue.isEmpty then [] else [execLeaseGrant p]) ++
  (if 1024 ≤ t.score || t.closed then [execTileWithdraw p] else [])

/-- Those of what a tile holds for a stage: what it sends, what has been staged for it. -/
def State.stageTileEvents (s : State) (c vt st : Nat) : List Due :=
  let x := s.stageTile c vt st
  (if x.outbound.isEmpty then [] else [execRemoteDeltaAccept c st vt]) ++
  ((List.range x.staged.length).filterMap fun n =>
    match x.staged[n]? with
    | some u => (match u.st with | .fetched _ _ => some (execStagedUnitLands c vt st n) | _ => none)
    | none => none)

/-- The tiles of a stage that phase 7 has still to treat, and a number under which the junction goes on once none is left. -/
def State.applying (s : State) (c st : Nat) : List Nat :=
  ((s.stageVts c st).filter fun vt => !(s.stageTile c vt st).settled) ++ [0]

/-- Those of a stage that runs: its abort, its barrier, its commit, the service of its causes. -/
def State.barrierEvents (s : State) (c st : Nat) : List Due :=
  let g := s.stage c st
  (if g.undecided && s.earlyCause c st && !s.hasVoted c st then [execEarlyAbort c st] else []) ++
  (match g.phase with
   | .quiesce => [execQuiesce c st]
   | .horizon => [execStrikeHorizon c st]
   | .vote => [execJunctionVote c st]
   | .decided =>
     [execJunctionDecision c st (((s.stageVts c st).find? fun vt => (s.stageTile c vt st).decided.isNone).getD 0)]
   | .apply => (s.applying c st).map fun vt => if g.decision = some true then execCommitDrain c st vt else execRollback c st vt
   | .service => [execCauseService c st]
   | _ => [])

/-- Those of what a stage has committed, which go on when its corridor stops. -/
def State.drainEvents (s : State) (c st : Nat) : List Due :=
  let g := s.stage c st
  (if g.farLeft.isEmpty then [] else [execFarDrainEntry c st]) ++
  (if g.farReady && g.farDone && !(s.spread c && g.crossDone != g.mm) then [] else [execCommitFarComplete c st]) ++
  ((List.range (s.records c st).length).filterMap fun n =>
    match (s.records c st)[n]? with
    | some p => if p.2.due.isEmpty then none else some (execStagedCopyForward c st n)
    | none => none) ++
  (if g.resultDue.isSome then [execResultAreaWrite c st] else [])

/-- Those of a corridor. -/
def State.corridorEvents (s : State) (c : Nat) : List Due :=
  let k := s.cor c
  (if (s.ending c).isSome then [execCorridorCompletion c] else []) ++
  (if k.requests.any Request.kill then [execKill c] else []) ++
  (if k.requests.any Request.immediate then [execImmediatePreempt c] else []) ++
  (if k.requests.any fun r => decide (r.deadline ≠ 0 ∧ r.deadline ≤ s.clock) then [execDrainTimeout c] else []) ++
  (if k.sliceOver s.clock then [execSliceExpiry c] else []) ++
  (match k.state with
   | .waiting => [execLaunchPlace c]
   | .stopping => [execSwapOut c]
   | .swapped =>
     (if s.evicted c then (match s.findPlace c k with | some p => [execMigration c p] | none => []) else []) ++
       [execSwapOut c, execCorridorResume c []]
   | .exported => [execCorridorResume c []]
   | _ => [])

/-- Those of the lightway die and the ports: what retunes and retrains. -/
def State.pathEvents (s : State) : List Due :=
  (s.lightway.retuning.map fun p => execRetuningComplete p.1) ++
  ((s.fabric.ports.filter fun p => p.2.retraining).map fun p => execRetrainComplete p.1)

/-- Those of the depot: queues, records taken, walks, apertures to install, a die going offline; of the dies' stagers, and of
transfers between tiles. -/
def State.depotEvents (s : State) : List Due :=
  ((List.range s.host.taken.length).filterMap fun n =>
    (s.host.taken[n]?).map fun t =>
      match bits (t.words.getD 0 0) 7 0 with
      | 2 => execPreempt n
      | 3 => execResume n
      | _ => execLaunch n) ++
  (if s.host.queues.any fun q => q.2.pending || q.2.mapped || q.2.rung then [execQueueMap] else []) ++
  ((List.range 4).filterMap fun d => if (s.die d).walks.isEmpty then none else some (execWalkComplete d)) ++
  ((List.range 4).filterMap fun d =>
    (s.stagerNext d).map fun r => execStagerUnitFetch r.1.1 r.1.2.1 r.1.2.2.1 r.1.2.2.2) ++
  ((distinct (s.host.apertureNext.map fun p => p.1.1)).map execInvalidationService) ++
  ((List.range s.travelling.length).map execCrossStageDelivery) ++
  ((List.range s.atomics.length).map execAtomicExecute) ++
  (if s.depot.offline.active.isSome then [execDieOffline s.depot.offline.phase] else [])

/-- Every event that may be due, in the model's order. -/
def State.dueEvents (s : State) : List Due :=
  (s.strands.flatMap fun p => s.strandEvents p.1) ++
  (s.tiles.flatMap fun p => s.tileEvents p.1) ++
  (s.stageTiles.flatMap fun p => if (s.cor p.1.1).live then s.stageTileEvents p.1.1 p.1.2.1 p.1.2.2 else []) ++
  (s.stages.flatMap fun p =>
    (if (s.cor p.1.1).live then s.barrierEvents p.1.1 p.1.2 else []) ++ s.drainEvents p.1.1 p.1.2) ++
  s.depotEvents ++ s.pathEvents ++
  s.corridors.flatMap fun p => s.corridorEvents p.1

/-- The state after an event, where the event does something. -/
def State.moves (s : State) (f : Due) : Option State :=
  match f s with
  | .next t => if t = s then none else some t
  | _ => none

/-- The state after the next event that the package's own engines bring about: the first that does something, the search
starting at a place that moves on with the clock (assumption 16). -/
def State.nextEvent (s : State) : Option State :=
  let l := s.dueEvents
  let n := if l.length = 0 then 0 else s.clock / 4 % l.length
  (l.drop n ++ l.take n).findSome? s.moves

/-- What one step does: stop, execute a row in a state, or go on with a state in which no instruction has executed; and which
strand had its turn. -/
inductive Action where
  | stop (f : Fault)
  | run (i : Instr) (s : State) (issuer : Option StrandId)
  | pass (s : State) (issuer : Option StrandId)
  deriving DecidableEq, Repr

/-- The instruction that a strand executes when its turn has come. -/
def State.issueAction (s : State) (id : StrandId) : Action :=
  let t := s.issue id
  match t.fetched with
  | .run i => .run i t (some id)
  | .annul i => .pass (annulled i t) (some id)
  | .outside => .pass (outsideFault t) (some id)
  | .illegal => .run (.illegalDecode false) t (some id)

/-- A strand's instruction where one is ready. -/
def State.strandAction (s : State) : Option Action := s.nextStrand.map s.issueAction

/-- An event of the package's engines where one is due. -/
def State.engineAction (s : State) : Option Action := s.nextEvent.map fun t => .pass t none

/-- The statuses with which boot halts the package (R377). -/
def haltingStatus (b : BitVec 8) : Bool := decide (2 ≤ b.toNat ∧ b.toNat ≤ 6)

/-- What the next step does: the agenda first, then strands, and engines where no strand is ready and in every fourth
cycle. -/
def State.action (s : State) : Action :=
  match s.agenda with
  | i :: r => if isEvent i then .run i { s with agenda := r } none else .pass { s with agenda := r } none
  | [] =>
    if s.power.removed then .stop .powerRemoved
    else
      match s.depot.booted with
      | some b =>
        if haltingStatus b then .stop (.bootHalted b)
        else if s.clock % 4 = 3 then (s.engineAction.orElse fun _ => s.strandAction).getD (.pass s none)
        else (s.strandAction.orElse fun _ => s.engineAction).getD (.pass s none)
      | none => .pass s none

/-- A corridor runs, so that CYC counts: its strands have started, the debugger does not hold it, and some stage of it has not stopped for a
pre-emption (R110). -/
def State.counting (s : State) (c : Nat) (k : Corridor) : Bool :=
  !k.haltedBy && s.planesKnown c &&
    (match k.state with
     | .running => true
     | .stopping => (List.range k.image.stages).any fun st => (s.stage c st).phase != .stopped && !(s.stage c st).ended
     | _ => false)

/-- One cycle passes: CYC of the running corridors and the depot's timers count (R110, R374). -/
def State.tick (s : State) : State :=
  { s with
    clock := s.clock + 1
    corridors := s.corridors.map fun p => (p.1, if s.counting p.1 p.2 then { p.2 with cyc := p.2.cyc + 1 } else p.2)
    strands := s.strands.map fun p => (p.1,
      if isDepotId p.1 && p.2.depot.dtm != 0 then
        { p.2 with depot := { p.2.depot with
            dtm := p.2.depot.dtm - 1
            evt := if p.2.depot.dtm = 1 then p.2.depot.evt ||| 4 else p.2.depot.evt } }
      else p.2) }

/-- The end of a step: a strand that is to halt does, a depot that has failed takes the corridors with it, strands leave the
sets of those that yielded to them, and the cycle passes. -/
def State.finishStep (s : State) (issuer : Option StrandId) : State :=
  State.tick (((match issuer with | some id => s.afterStep id | none => s).depotFailed).settleYields issuer)

/-! ### Placing an instruction -/

/-- Writes code words from an offset of a tile's memory. -/
def Mem.writeHalves (m : Mem) (a : Nat) (ws : List Half) : Mem := Mem.write m a (ws.flatMap fun w => leBytes 2 w.toNat)

/-- A package with one corridor of one strand at the start of its code window, as a launch of one tile leaves it. -/
def State.launchedOne (s : State) : State :=
  let im : Image := { Image.reset with entries := [⟨0, 0, true⟩] }
  let record : List Word := [0x0000000100000101, 0, 0x1000001F00, 0, 0, 0, 0, 0x243D0, 0, 0, 0, 0, 0, 0x4000]
  let s := { s with depot := { s.depot with booted := some 0 } }
  let s := s.setCor 1 { Corridor.reset with state := .running, record, image := im }
  let s := s.setVtile 1 0 VTile.reset
  let s := s.setStage 1 0 Stage.reset
  s.setStrand ⟨1, 0, 0⟩ { Strand.reset with status := .running }

/-- The package with words of code where its next strand fetches; where no strand is ready, one is launched first. -/
def State.withCode (s : State) (ws : List Half) : State :=
  let s := { s with agenda := [], power := { s.power with removed := false } }
  let s := match s.nextStrand with
    | some _ => match s.depot.booted with | some b => if haltingStatus b then s.launchedOne else s | none => s.launchedOne
    | none => s.launchedOne
  let s := { s with clock := (s.clock + 3) / 4 * 4 }
  match s.nextStrand with
  | none => s
  | some id =>
    let p := s.phys id.cor id.vt
    let a := (s.code id.cor).1 + (s.strand id).pc0.toNat
    s.setTile p { s.tile p with mem := Mem.writeHalves (s.tile p).mem a ws }

end Sys2Proof.Machine
end

