-- ==== Sys2Proof/Machine/Step.lean ====
section
/-! DEFINITION. One step of the package, and the placing of one instruction for the next step. -/

namespace Sys2Proof.Machine

/-- One step. -/
def step (s : State) : Host.Outcome State Fault Refusal :=
  match s.action with
  | .stop f => .fault f
  | .pass t id => .next (t.finishStep id)
  | .run i t id =>
    match exec i t with
    | .next u => .next (u.finishStep id)
    | .fault f => .fault f
    | .refused r => .refused r

/-- The state with one instruction's words, and zeros after them, where the next step fetches; the words are those of
the opcode table's number, the first in the high half (assumption 1). -/
def State.withFetchWord (s : State) (nbits w : Nat) : State :=
  s.withCode (tableHalves ((nbits + 15) / 16) w ++ [0, 0, 0, 0])

end Sys2Proof.Machine
end

