-- ==== Sys2Proof/Safety.lean ====
section
/-! DEFINITION. The terms in which claims speak of a step: what an instruction leaves as it was, what a tile's and the far
memory's bytes read as, and what holds of every state that a step can leave. -/

namespace Sys2Proof.Machine

/-! ### What an instruction leaves of its strand -/

/-- A lookahead window ends with the instruction that the strand steps through now, and writes the register (R158). -/
def Strand.endsOn (x : Strand) (d : Dest) : Bool :=
  x.windows.any fun w => decide (w.left ≤ 1) && w.landed && w.writes.any fun p => decide (p.1 = d)

/-- The strand without what stepping and the register writes of an instruction change: its status, its stage, its
arrival and causes, its queues, its mailbox, what it holds, its exception registers. -/
def Strand.rest (x : Strand) : Strand :=
  { x with
    s := Vector.replicate 32 0, sres := Vector.replicate 32 0, v := Vector.replicate 32 0,
    d := Vector.replicate 16 Dist.reset, p := Vector.replicate 8 0, ctl := Ctl.reset, windows := [], nextWin := 0,
    pc0 := 0, pc1 := 0, pc2 := 0, annul := 0, slots := 0, wait := .none, rep := none }

/-- What an instruction that writes the registers `ds` and the predicates `ps` and raises the flags `fl` leaves of its
strand: every other register but those that a window writes now, every predicate, every control register but FLG, which
takes the flags beside those it holds (R128), and the rest. -/
structure Strand.Kept (x y : Strand) (ds : List Dest) (ps : List (BitVec 3)) (fl : Flags) : Prop where
  s : ∀ r, Dest.s r ∉ ds → x.endsOn (.s r) = false → y.getS r = x.getS r ∧ y.getRes r = x.getRes r
  v : ∀ r, Dest.v r ∉ ds → x.endsOn (.v r) = false → y.getV r = x.getV r
  d : ∀ r, Dest.d r ∉ ds → x.endsOn (.d r) = false → y.getD r = x.getD r
  p : ∀ r, r ∉ ps → y.getP r = x.getP r
  ctl : y.ctl = { x.ctl with flg := x.ctl.flg ||| fl.setWidth 64 }
  rest : y.rest = x.rest

/-- The strand has stepped past the instruction at PC0: outside a repetition PC1 and PC2 move up and PC2 goes past the
chain it stood at, as the memory of `u` holds it, and the annul marks move with them (R155). -/
def SteppedIn (u s t : State) : Prop :=
  s.me.rep = none →
    t.me.pc0 = s.me.pc1 ∧ t.me.pc1 = s.me.pc2 ∧ t.me.pc2 = u.after s.cur s.me.pc2 ∧ t.me.annul = s.me.annul >>> 1 ∧
      t.me.rep = none

/-- The strand has stepped past the instruction at PC0, through code that the instruction has not changed. -/
def Stepped (s t : State) : Prop := SteppedIn s s t

/-- Everything but one strand is as it was: every other strand, every byte of every tile, the far memory, the caches, the
stages and corridors, the host interface and the depot. -/
structure OnlyMe (s t : State) : Prop where
  others : ∀ id, id ≠ s.cur → t.strand id = s.strand id
  state : { t with strands := s.strands } = s

/-- The frame of an instruction that works on registers alone. -/
structure Frame (s t : State) (ds : List Dest) (ps : List (BitVec 3)) (fl : Flags) : Prop where
  only : OnlyMe s t
  me : Strand.Kept s.me t.me ds ps fl
  stepped : Stepped s t

/-- The value a scalar register holds after w is written to it: s0 stays 0 (R102). -/
def written (d : Reg) (w : Word) : Word := if d = 0 then 0 else w

/-- The instruction completes, writes w to the scalar register d and raises the flags fl, and changes nothing else. -/
def Writes (i : Instr) (s : State) (d : Reg) (w : Word) (fl : Flags) : Prop :=
  ∃ t, exec i s = .next t ∧ t.getS d = written d w ∧ Frame s t [.s d] [] fl

/-- The instruction completes, writes the line l to the vector register d and raises the flags fl, and changes nothing
else. -/
def WritesV (i : Instr) (s : State) (d : Reg) (l : Line) (fl : Flags) : Prop :=
  ∃ t, exec i s = .next t ∧ t.getV d = l ∧ Frame s t [.v d] [] fl

/-- The instruction completes, writes e to the distribution register d and raises the flags fl, and changes nothing
else. -/
def WritesD (i : Instr) (s : State) (d : BitVec 4) (e : Dist) (fl : Flags) : Prop :=
  ∃ t, exec i s = .next t ∧ t.getD d = e ∧ Frame s t [.d d] [] fl

/-- A strand takes the precise trap `c`: what `raise` does, and nothing of the instruction's own effect (R330, R374). -/
def Traps (i : Instr) (s : State) (c : BitVec 8) (addr : Word) (wr : Bool) : Prop :=
  exec i s = .next (raise c addr false wr s)

/-- The instruction completes, writes w to the predicate register d (p0 stays all ones, R104) and raises the flags fl, and
changes nothing else. -/
def WritesP (i : Instr) (s : State) (d : BitVec 3) (w : Word) (fl : Flags) : Prop :=
  ∃ t, exec i s = .next t ∧ t.getP d = (if d = 0 then BitVec.allOnes 64 else w) ∧ Frame s t [] [d] fl

/-- The instruction completes and writes the vector register d lane by lane: lane n takes the low bits of `f n` where the
mask enables it and keeps its value elsewhere; the flags raised are those of the enabled lanes, and nothing else changes
(R209). -/
def Lanewise (i : Instr) (s : State) (d : Reg) (m : BitVec 3) (w : Nat) (f : Nat → Nat × Flags) : Prop :=
  ∃ t fl, exec i s = .next t ∧ Frame s t [.v d] [] fl ∧
    (∀ n, n < 512 / w → lane (t.getV d) w n = if s.enabled m n = true then (f n).1 % 2 ^ w else lane (s.getV d) w n) ∧
    ∀ b : Nat, fl.getLsbD b = true ↔ ∃ n, n < 512 / w ∧ s.enabled m n = true ∧ (f n).2.getLsbD b = true

/-- The instruction completes and writes the distribution register d: element e takes `f e` where the mask enables it and
keeps its value elsewhere, the header is written whole; the flags raised are those of the enabled elements, and nothing
else changes (R244, R247). -/
def Elementwise (i : Instr) (s : State) (d : BitVec 4) (m : BitVec 3) (mask : BitVec 16) (align approx : Bool)
    (f : Nat → DElem × Flags) : Prop :=
  ∃ t fl, exec i s = .next t ∧ Frame s t [.d d] [] fl ∧ (t.getD d).mask = mask ∧ (t.getD d).align = align ∧
    (t.getD d).approx = approx ∧
    (∀ e, e < 8 → (t.getD d).elem e = if s.enabled m e = true then (f e).1 else (s.getD d).elem e) ∧
    ∀ b : Nat, fl.getLsbD b = true ↔ ∃ e, e < 8 ∧ s.enabled m e = true ∧ (f e).2.getLsbD b = true

/-! ### Memory -/

/-- Every tile's memory and the far memory are in canonical form, and every overlay of held bytes is sorted. -/
def Tidy (s : State) : Prop :=
  (∀ e ∈ s.tiles, Mem.wf e.2.mem = true) ∧ Mem.wf s.far.mem = true ∧ ∀ e ∈ s.stageTiles, rising e.2.loc = true

/-- One byte of a tile as the strands of a stage see it (R46). -/
def State.seen (s : State) (c vt st a : Nat) : Byte := (s.viewBytes c vt st a 1).headD 0

/-- Some byte of a range of the executing strand's tile holds an uncorrectable error (R97). -/
def State.unsound (s : State) (off n : Nat) : Bool := !s.isDepot && poisoned (s.tile s.myTile).poison off n

/-- The frame of an instruction that reads bytes of tile memory: no byte of any memory changes, and no other strand; where
the bytes are sound, nothing at all but the strand (a read of an uncorrectable word makes the tile vote for an abort,
R97). -/
structure LoadFrame (s t : State) (ds : List Dest) (sound : Prop) : Prop where
  others : ∀ id, id ≠ s.cur → t.strand id = s.strand id
  me : Strand.Kept s.me t.me ds [] 0
  stepped : Stepped s t
  seen : ∀ c vt st a, t.seen c vt st a = s.seen c vt st a
  far : t.far = s.far
  state : sound → { t with strands := s.strands } = s

/-- A strand without the marks that its own later stores set on its unfinished commands (R48). -/
def Strand.untaint (x : Strand) : Strand :=
  { x with fifo := x.fifo.map fun k => { k with tainted := false }
           running := x.running.map fun k => { k with tainted := false }
           pushing := x.pushing.map fun k => { k with tainted := false } }

/-- The frame of an instruction that stores `n` bytes of local memory at `off`: every byte outside is as it was in every
view; every byte at all in the views of tiles that lie elsewhere, and for a corridor's strand in those of every other stage
and tile; no register changes but `ds`, and no other strand but for the marks of R48. -/
structure StoreFrame (s t : State) (ds : List Dest) (off n : Nat) : Prop where
  others : ∀ id, id ≠ s.cur → (t.strand id).untaint = (s.strand id).untaint
  me : Strand.Kept s.me.untaint t.me.untaint ds [] 0
  stepped : SteppedIn t s t
  seen : ∀ c vt st a, a < off ∨ off + n ≤ a → t.seen c vt st a = s.seen c vt st a
  foreign : s.isDepot = false → ∀ c vt st a, (c, vt, st) ≠ (s.cur.cor, s.cur.vt, s.me.stage) →
    t.seen c vt st a = s.seen c vt st a
  elsewhere : ∀ c vt st a, s.phys c vt ≠ s.myTile → t.seen c vt st a = s.seen c vt st a
  far : t.far = s.far

/-- A local load of `size` bytes through an LD-format operand: where the effective address passes the checks of R30 and
the staged bytes have landed, it completes; with lookahead 0 the destination holds the bytes' value, else it keeps its
value and a window stands open over the next instructions (R158, R170); the base is post-incremented (R151). -/
def LoadsScalar (i : Instr) (s : State) (o : LdOp) (size : Nat) (value : List Byte → Word) : Prop :=
  ∀ off, s.checkAddr (s.ea o.a o.off size) (s.me.resOk o.a) onlyLocal size size false = .ok (.loc off) →
    s.stagedAt s.cur.cor s.cur.vt s.me.stage off size = .ready →
    ∃ t, exec i s = .next t ∧ LoadFrame s t (.s o.d :: if o.inc then [.s o.a] else []) (s.unsound off size = false) ∧
      (o.la = 0 → t.getS o.d = written o.d (value (s.readView off size))) ∧
      (o.la ≠ 0 → ¬(o.inc = true ∧ o.a = o.d) → t.getS o.d = s.getS o.d ∧
        ∃ w ∈ t.me.windows, w.left = o.la.toNat ∧ w.landed = true ∧
          w.writes = [(.s o.d, .s (value (s.readView off size)))]) ∧
      (o.inc = true → o.a ≠ o.d → t.getS o.a = written o.a (s.getS o.a + BitVec.ofNat 64 size))

/-- A local store of bytes through an SM-format operand: where the effective address passes the checks of R30, the staged
bytes have landed and the verge buffer has room, it completes, and its own stage reads the bytes stored (R46, R171). -/
def StoresLocal (i : Instr) (s : State) (o : StOp) (sp : Spaces) (bs : List Byte) : Prop :=
  ∀ off, s.checkAddr (s.ea o.a o.off bs.length) (s.me.resOk o.a) sp bs.length bs.length true = .ok (.loc off) →
    s.stagedAt s.cur.cor s.cur.vt s.me.stage off bs.length = .ready → s.localRoom off bs.length = true → Tidy s →
    ∃ t, exec i s = .next t ∧ StoreFrame s t [] off bs.length ∧
      ∀ n (h : n < bs.length), t.seen s.cur.cor s.cur.vt s.me.stage (off + n) = bs[n]

/-- The register holds a value that a window wrote. -/
def Strand.reads (x : Strand) (d : Dest) (v : WinVal) : Prop :=
  match d, v with
  | .s r, .s w => x.getS r = written r w
  | .v r, .v l => x.getV r = l
  | .d r, .d e => x.getD r = e
  | _, _ => False

/-- A window over the next `la` instructions stands open after the step, with one register to write. -/
def Strand.windowOn (x : Strand) (la : BitVec 4) (d : Dest) (v : WinVal) (read : Option FarRead) (landed : Bool) : Prop :=
  ∃ w ∈ x.windows, w.left = la.toNat ∧ w.landed = landed ∧ w.read = read ∧ w.writes = [(d, v)]

/-- The frame of an instruction whose effect its own strand and its stage hold on its own tile: the strand stands as `y`
stepped, but for the registers `ds`, and the tile holds `m` for the stage; caches of translations and the counters take
note; no byte of any memory, no other strand and nothing else changes. -/
structure HeldFrame (s t : State) (y : Strand) (m : StageTile) (ds : List Dest) (fl : Flags) : Prop where
  others : ∀ id, id ≠ s.cur → t.strand id = s.strand id
  me : Strand.Kept y t.me ds [] fl
  stepped : Stepped s t
  mine : t.stageTile s.cur.cor s.cur.vt s.me.stage = m
  notMine : ∀ c vt st, (c, vt, st) ≠ (s.cur.cor, s.cur.vt, s.me.stage) → t.stageTile c vt st = s.stageTile c vt st
  tile : ∀ p, { t.tile p with tlb := (s.tile p).tlb } = s.tile p
  die : ∀ d, { t.die d with counters := (s.die d).counters, walks := (s.die d).walks } = s.die d
  state : { t with strands := s.strands, stageTiles := s.stageTiles, tiles := s.tiles, dies := s.dies } = s

/-- The frame of an instruction that works on its strand and on one record of its physical tile: the strand stands as `y`
stepped, but for the registers `ds`, the tile is `x`, and nothing else changes. -/
structure TileFrame (s t : State) (y : Strand) (x : Tile) (ds : List Dest) : Prop where
  others : ∀ id, id ≠ s.cur → t.strand id = s.strand id
  me : Strand.Kept y t.me ds [] 0
  stepped : Stepped s t
  tile : t.tile s.myTile = x
  notTile : ∀ p, p ≠ s.myTile → t.tile p = s.tile p
  state : { t with strands := s.strands, tiles := s.tiles } = s

/-- The frame of a sequencer instruction that works on registers and its tile's context alone. -/
structure SeqFrame (s t : State) (x : SeqCtx) : Prop where
  others : ∀ id, id ≠ s.cur → t.strand id = s.strand id
  me : Strand.Kept s.me t.me [] [] 0
  stepped : Stepped s t
  seq : t.vtile s.cur.cor s.cur.vt = { s.vtile s.cur.cor s.cur.vt with seq := x }
  notSeq : ∀ c vt, (c, vt) ≠ (s.cur.cor, s.cur.vt) → t.vtile c vt = s.vtile c vt
  state : { t with strands := s.strands, vtiles := s.vtiles } = s

/-- The strand waits and issues the same instruction again; nothing else changes. -/
def WaitsFor (i : Instr) (s : State) (c : WaitCond) : Prop :=
  exec i s = .next (s.onMe fun x => { x with wait := .again c })

/-- The instruction steps on and changes nothing else. -/
def JustSteps (i : Instr) (s : State) : Prop := ∃ t, exec i s = .next t ∧ Frame s t [] [] 0

/-- A branch, jump, call or return outside a repetition: PC0 and PC1 move up, PC2 takes the target, or goes past its
chain where the branch is not taken; the annul marks move up, or both slots are annulled; two delay slots follow, and no
register but `ds` changes (R155, R156). -/
structure Branches (s t : State) (ds : List Dest) (target : Option Word) (nullify : Bool) : Prop where
  only : OnlyMe s t
  me : Strand.Kept s.me t.me ds [] 0
  pc0 : t.me.pc0 = s.me.pc1
  pc1 : t.me.pc1 = s.me.pc2
  pc2 : t.me.pc2 = target.getD (s.after s.cur s.me.pc2)
  annul : t.me.annul = (if nullify then (3 : BitVec 2) else s.me.annul >>> 1)
  slots : t.me.slots = 2
  rep : t.me.rep = none

end Sys2Proof.Machine
end

