-- ==== Sys2Proof/Certificates/Slice0/Obligations.lean ====
section
/-! DEFINITION. The statements for the provers. -/

open Sys2Proof Sys2Proof.Machine

/-! ### Scalar instructions -/

/-- R187: the arithmetic group computes an exact integer, applies the modifiers of R145 and writes it wrapped or clamped;
nothing else changes. R187, R116: without modifiers the result is the wrapped value and no flag is set; under sat it is the nearest value of
the type, and saturate is set exactly where the value lies outside it. -/
def Obligations.ScalarArithmetic : Prop :=
  (∀ (s : State) (o : R3) (x : Mod) (imm : RI),
     let a := (s.getS o.a).toInt
     let b := (s.getS o.b).toInt
     let ua := (s.getS o.a).toNat
     let ub := (s.getS o.b).toNat
     let acts (i : Instr) (d : Reg) (f : IFmt) (y : Int) : Prop :=
       Writes i s d (BitVec.ofNat 64 (wrapInt f x.sat (modifyInt x y)).1) (wrapInt f x.sat (modifyInt x y)).2
     acts (.add o x) o.d ⟨64, true⟩ (a + b) ∧
     acts (.sub o x) o.d ⟨64, true⟩ (a - b) ∧
     acts (.mul o x) o.d ⟨64, true⟩ (a * b) ∧
     acts (.mulh o x) o.d ⟨64, true⟩ (a * b / 2 ^ 64) ∧
     acts (.min o x) o.d ⟨64, true⟩ (min a b) ∧
     acts (.max o x) o.d ⟨64, true⟩ (max a b) ∧
     acts (.minu o x) o.d ⟨64, false⟩ (min ua ub : Nat) ∧
     acts (.maxu o x) o.d ⟨64, false⟩ (max ua ub : Nat) ∧
     acts (.addi imm x) imm.d ⟨64, true⟩ ((s.getS imm.a).toInt + imm.imm)) ∧
  ((∀ (s : State) (o : R3),
     let x : Mod := ⟨false, false, false, false, 0⟩
     Writes (.add o x) s o.d (s.getS o.a + s.getS o.b) 0 ∧ Writes (.sub o x) s o.d (s.getS o.a - s.getS o.b) 0 ∧
     Writes (.mul o x) s o.d (s.getS o.a * s.getS o.b) 0) ∧
   (∀ (s : State) (o : R3),
     let x : Mod := ⟨true, false, false, false, 0⟩
     let y := (s.getS o.a).toInt + (s.getS o.b).toInt
     Writes (.add o x) s o.d (if y < -2 ^ 63 then BitVec.intMin 64 else if 2 ^ 63 ≤ y then BitVec.intMax 64 else BitVec.ofInt 64 y)
       (if -2 ^ 63 ≤ y ∧ y < 2 ^ 63 then 0 else flSaturate)))

/-- R188: the logic and shift instructions act bitwise and set no flag. R189, R190, R194: the comparisons write 1 or 0, li and lih write the immediate's bits, sel and selz choose. -/
def Obligations.ScalarLogicAndMoves : Prop :=
  (∀ (s : State) (o : R3) (k : RI),
     let a := s.getS o.a
     let b := s.getS o.b
     let n := b.toNat % 64
     let c := s.getS k.a
     let m := BitVec.ofInt 64 k.imm
     Writes (.and_ o) s o.d (a &&& b) 0 ∧ Writes (.or_ o) s o.d (a ||| b) 0 ∧ Writes (.xor_ o) s o.d (a ^^^ b) 0 ∧
     Writes (.andn o) s o.d (a &&& ~~~b) 0 ∧
     Writes (.andi k) s k.d (c &&& m) 0 ∧ Writes (.ori k) s k.d (c ||| m) 0 ∧ Writes (.xori k) s k.d (c ^^^ m) 0 ∧
     Writes (.shl o) s o.d (a <<< n) 0 ∧ Writes (.shr o) s o.d (a >>> n) 0 ∧ Writes (.sra o) s o.d (a.sshiftRight n) 0 ∧
     Writes (.rol o) s o.d (a.rotateLeft n) 0 ∧
     (0 ≤ k.imm → k.imm ≤ 63 →
       Writes (.shli k) s k.d (c <<< k.imm.toNat) 0 ∧ Writes (.shri k) s k.d (c >>> k.imm.toNat) 0 ∧
       Writes (.srai k) s k.d (c.sshiftRight k.imm.toNat) 0)) ∧
  (∀ (s : State) (o : R3) (l : LI) (c : Reg),
     let a := s.getS o.a
     let b := s.getS o.b
     Writes (.slt o) s o.d (if a.toInt < b.toInt then 1 else 0) 0 ∧
     Writes (.sltu o) s o.d (if a.toNat < b.toNat then 1 else 0) 0 ∧
     Writes (.seq o) s o.d (if a = b then 1 else 0) 0 ∧
     Writes (.sne o) s o.d (if a = b then 0 else 1) 0 ∧
     Writes (.li l) s l.d (BitVec.ofInt 64 l.imm) 0 ∧
     Writes (.lih l) s l.d ((BitVec.ofInt 64 l.imm).extractLsb' 0 32 ++ (s.getS l.d).extractLsb' 0 32) 0 ∧
     Writes (.sel o c) s o.d (if s.getS c = 0 then b else a) 0 ∧
     Writes (.selz o c) s o.d (if s.getS c = 0 then a else b) 0)

/-- R191: quotients round toward zero and remainders take the sign of the dividend, with -2^63 / -1 = -2^63; a zero
divisor raises DIVZ and writes nothing, whatever the destination. -/
def Obligations.Division : Prop :=
  ∀ (s : State) (o : R3),
    let a := s.getS o.a
    let b := s.getS o.b
    (b ≠ 0 →
      Writes (.div o) s o.d (a.sdiv b) 0 ∧ Writes (.rem o) s o.d (a.srem b) 0 ∧
      Writes (.divu o) s o.d (a.udiv b) 0 ∧ Writes (.remu o) s o.d (a.umod b) 0) ∧
    (b = 0 →
      Traps (.div o) s cDIVZ 0 false ∧ Traps (.rem o) s cDIVZ 0 false ∧ Traps (.divu o) s cDIVZ 0 false ∧
      Traps (.remu o) s cDIVZ 0 false)

/-- R192: leading and trailing zeros, 64 for 0; the number of one bits; the bits reversed. R193: the field of width w + 1 at position q, cut at bit 63, read with zeros or its sign above it, or replaced. -/
def Obligations.BitOperations : Prop :=
  (∀ (s : State) (o : R2),
     let a := s.getS o.a
     (∃ n ≤ 64, Writes (.clz o) s o.d (BitVec.ofNat 64 n) 0 ∧ (∀ i < n, a.getLsbD (63 - i) = false) ∧
       (n < 64 → a.getLsbD (63 - n) = true)) ∧
     (∃ n ≤ 64, Writes (.ctz o) s o.d (BitVec.ofNat 64 n) 0 ∧ (∀ i < n, a.getLsbD i = false) ∧
       (n < 64 → a.getLsbD n = true)) ∧
     Writes (.pop o) s o.d (BitVec.ofNat 64 ((List.range 64).countP fun i => a.getLsbD i)) 0 ∧
     (∃ w, Writes (.brev o) s o.d w 0 ∧ ∀ i < 64, w.getLsbD i = a.getLsbD (63 - i))) ∧
  (∀ (s : State) (o : R3) (w : BitVec 5),
     let a := s.getS o.a
     let q := (s.getS o.b).toNat % 64
     let n := min (w.toNat + 1) (64 - q)
     Writes (.bfx o w) s o.d ((a.extractLsb' q n).setWidth 64) 0 ∧
     Writes (.bfxs o w) s o.d ((a.extractLsb' q n).signExtend 64) 0 ∧
     ∃ r, Writes (.bfi o w) s o.d r 0 ∧
       ∀ i < 64, r.getLsbD i = if q ≤ i ∧ i < q + n then a.getLsbD (i - q) else (s.getS o.d).getLsbD i)

/-- R105: where the residues of the operands are right, the predicted residue of the result is right. -/
def Obligations.ResiduesStayRight : Prop :=
  ∀ (s t : State) (o : R3) (k : RI) (l : LI) (x : Mod),
    (s.me.resOk o.a = true → s.me.resOk o.b = true →
      ∀ i ∈ [Instr.add o x, Instr.sub o x, Instr.mul o x, Instr.mulh o x, Instr.and_ o, Instr.shl o, Instr.slt o],
        exec i s = .next t → t.me.resOk o.d = true) ∧
    (s.me.resOk k.a = true → exec (.addi k x) s = .next t → t.me.resOk k.d = true) ∧
    (s.me.resOk k.a = true → exec (.shli k) s = .next t → t.me.resOk k.d = true) ∧
    (s.me.resOk l.d = true → exec (.lih l) s = .next t → t.me.resOk l.d = true)

/-! ### Scalar floating point -/

/-- R195 to R197: the exact result under the modifiers, rounded once into the format under VFC, with the flags of the
operation and of the rounding. R198: the compares write 1 or 0; a NaN operand makes feq 0, flt and fle 0 with invalid, and funo 1. -/
def Obligations.ScalarFloat : Prop :=
  (∀ (s : State) (o : R3) (u : R2) (c : Reg) (x : Mod),
     let r (f : Fmt) (y : XR × Flags) : Nat × Flags :=
       ((f.round s.me.fctl x.sat (XR.modify x y.1)).1, y.2 ||| (f.round s.me.fctl x.sat (XR.modify x y.1)).2)
     let acts (i : Instr) (d : Reg) (f : Fmt) (y : XR × Flags) : Prop := Writes i s d (BitVec.ofNat 64 (r f y).1) (r f y).2
     let both (i j : Instr) (y : Fmt → XR × Flags) : Prop := acts i o.d fmtF32 (y fmtF32) ∧ acts j o.d fmtF64 (y fmtF64)
     let a (f : Fmt) : XR := f.input s.me.fctl (s.getS o.a).toNat
     let b (f : Fmt) : XR := f.input s.me.fctl (s.getS o.b).toNat
     let e (f : Fmt) : XR := f.input s.me.fctl (s.getS c).toNat
     let rm := s.me.fctl.rm
     both (.faddF32 o x) (.faddF64 o x) (fun f => XR.sum rm [a f, b f]) ∧
     both (.fsubF32 o x) (.fsubF64 o x) (fun f => XR.sum rm [a f, (b f).neg]) ∧
     both (.fmulF32 o x) (.fmulF64 o x) (fun f => XR.mul (a f) (b f)) ∧
     both (.fdivF32 o x) (.fdivF64 o x) (fun f => XR.div (a f) (b f)) ∧
     both (.fmaF32 o c x) (.fmaF64 o c x) (fun f => XR.fma rm (a f) (b f) (e f)) ∧
     both (.fmsF32 o c x) (.fmsF64 o c x) (fun f => XR.fma rm (a f) (b f) (e f).neg) ∧
     both (.fnmaF32 o c x) (.fnmaF64 o c x) (fun f => XR.fma rm (a f).neg (b f) (e f).neg) ∧
     both (.fnmsF32 o c x) (.fnmsF64 o c x) (fun f => XR.fma rm (a f).neg (b f) (e f)) ∧
     both (.fminF32 o x) (.fminF64 o x) (fun f => (XR.pickMinMax false (a f) (b f), 0)) ∧
     both (.fmaxF32 o x) (.fmaxF64 o x) (fun f => (XR.pickMinMax true (a f) (b f), 0)) ∧
     acts (.fsqrtF32 u x) u.d fmtF32 (XR.sqrt (fmtF32.input s.me.fctl (s.getS u.a).toNat)) ∧
     acts (.fsqrtF64 u x) u.d fmtF64 (XR.sqrt (fmtF64.input s.me.fctl (s.getS u.a).toNat))) ∧
  (∀ (s : State) (o : R3),
     let acts (f : Fmt) (eq lt le uno : Instr) : Prop :=
       let a := f.input s.me.fctl (s.getS o.a).toNat
       let b := f.input s.me.fctl (s.getS o.b).toNat
       if a.isNan = true ∨ b.isNan = true then
         Writes eq s o.d 0 0 ∧ Writes lt s o.d 0 flInvalid ∧ Writes le s o.d 0 flInvalid ∧ Writes uno s o.d 1 0
       else
         Writes eq s o.d (if XR.cmp a b = some 0 then 1 else 0) 0 ∧
         Writes lt s o.d (if XR.cmp a b = some (-1) then 1 else 0) 0 ∧
         Writes le s o.d (if XR.cmp a b = some 1 then 0 else 1) 0 ∧ Writes uno s o.d 0 0
     acts fmtF32 (.feqF32 o) (.fltF32 o) (.fleF32 o) (.funoF32 o) ∧
     acts fmtF64 (.feqF64 o) (.fltF64 o) (.fleF64 o) (.funoF64 o))

/-- R199, R145: fcvt reads the source type, applies the modifiers to the exact value, clp too where the result is an
integer, and delivers it into the destination type under the rounding of fn, which overrides VFC.rmode.
Where the spec leaves a point open this is the model's choice: assumption 70. -/
def Obligations.ScalarConversion : Prop :=
  ∀ (s : State) (o : CvtOp) (x : Mod),
    let c : FCtl := { s.me.fctl with rm := o.rm }
    let raw := (s.getS o.a).toNat
    let acts (r : Nat × Flags) : Prop := Writes (.fcvt o x) s o.d (BitVec.ofNat 64 r.1) r.2
    let f32to (f : Fmt) : Prop := o.src = 0 → acts (f.round c x.sat (XR.modify x (fmtF32.input c raw)))
    let f64to (f : Fmt) : Prop := o.src = 1 → acts (f.round c x.sat (XR.modify x (fmtF64.input c raw)))
    let i64to (f : Fmt) : Prop := o.src = 2 → acts (f.round c x.sat (XR.modify x (XR.ofInt (BitVec.ofNat 64 raw).toInt)))
    let n64to (f : Fmt) : Prop := o.src = 3 → acts (f.round c x.sat (XR.modify x (XR.ofInt raw)))
    let toInt (f : Fmt) (g : IFmt) : Prop :=
      let y := XR.modify { x with clp := false } (f.input c raw)
      acts (XR.toInt g c.rm (if x.clp = true ∧ y.sign = true then XR.zero false else y))
    (o.dst = 0 → f64to fmtF32 ∧ i64to fmtF32 ∧ n64to fmtF32) ∧
    (o.dst = 1 → f32to fmtF64 ∧ i64to fmtF64 ∧ n64to fmtF64) ∧
    (o.dst = 2 → (o.src = 0 → toInt fmtF32 ⟨64, true⟩) ∧ (o.src = 1 → toInt fmtF64 ⟨64, true⟩)) ∧
    (o.dst = 3 → (o.src = 0 → toInt fmtF32 ⟨64, false⟩) ∧ (o.src = 1 → toInt fmtF64 ⟨64, false⟩))

/-! ### Local memory -/

/-- R29, R30: the first check of an effective address that fails names the cause; an address that passes them all leads to
its local offset, to another tile's, or to its device VA; each kind of instruction takes the spaces of R29 alone. R28, R92: a
corridor's strand reaches exactly its granted range below the system area, and writes it outside the code window.
Where the spec leaves a point open this is the model's choice: assumptions 9 and 12. -/
def Obligations.AddressChecks : Prop :=
  (∀ (s : State) (ea : Word) (ok : Bool) (size : Nat) (wr : Bool), size ∈ [1, 2, 4, 8, 64, 256] →
     let r := s.checkAddr ea ok onlyLocal size size wr
     let space := (ea >>> 62).toNat
     let upper := (ea.extractLsb' 21 41).toNat
     let off := ea.toNat % 2 ^ 21
     (ok = false → r = .bad cRESIDUE) ∧
     (ok = true →
       (space = 3 → r = .bad (if s.isDepot then cPROT else cPRIV)) ∧
       (space = 1 ∨ space = 2 → r = .bad cPROT) ∧
       (space = 0 →
         (upper ≠ 0 → r = .bad cPROT) ∧
         (upper = 0 →
           (ea.toNat % size ≠ 0 → r = .bad cALIGN) ∧
           (ea.toNat % size = 0 →
             r = if s.inGrant s.cur.cor off size = true ∧ (wr = true → s.inCode s.cur.cor off size = false) then
               .ok (.loc off) else .bad cPROT))))) ∧
  (∀ (s : State) (ea : Word) (ok : Bool) (align size : Nat) (wr : Bool),
     let space := (ea >>> 62).toNat
     let off := ea.toNat % 2 ^ 21
     let vt := (ea.extractLsb' 21 16).toNat
     let fine := s.inGrant s.cur.cor off size = true ∧ (wr = true → s.inCode s.cur.cor off size = false)
     ∀ sp ∈ [anySpace, onlyFar],
       let r := s.checkAddr ea ok sp align size wr
       (ok = false → r = .bad cRESIDUE) ∧
       (ok = true →
         (space = 3 → r = .bad (if s.isDepot then cPROT else cPRIV)) ∧
         (space = 2 →
           ((ea.extractLsb' 48 14).toNat ≠ 0 → r = .bad cPROT) ∧
           ((ea.extractLsb' 48 14).toNat = 0 →
             (ea.toNat % align ≠ 0 → r = .bad cALIGN) ∧ (ea.toNat % align = 0 → r = .ok (.far (ea.toNat % 2 ^ 48))))) ∧
         (sp = onlyFar → space = 0 ∨ space = 1 → r = .bad cPROT) ∧
         (sp = anySpace → space = 0 →
           ((ea.extractLsb' 21 41).toNat ≠ 0 → r = .bad cPROT) ∧
           ((ea.extractLsb' 21 41).toNat = 0 →
             (ea.toNat % align ≠ 0 → r = .bad cALIGN) ∧
             (ea.toNat % align = 0 → (fine → r = .ok (.loc off)) ∧ (¬ fine → r = .bad cPROT)))) ∧
         (sp = anySpace → space = 1 →
           ((ea.extractLsb' 37 25).toNat ≠ 0 → r = .bad cPROT) ∧
           ((ea.extractLsb' 37 25).toNat = 0 →
             (ea.toNat % align ≠ 0 → r = .bad cALIGN) ∧
             (ea.toNat % align = 0 →
               let limit := if s.isDepot = true then 576 else (s.cor s.cur.cor).image.vtiles
               (limit ≤ vt ∨ ¬ fine → r = .bad cPROT) ∧
               (vt < limit → fine → r = if vt = s.cur.vt then .ok (.loc off) else .ok (.tsp vt off))))))) ∧
  (∀ (s : State) (c off size : Nat), c ≠ depotCor → 0 < size →
     let k := s.cor c
     (s.inGrant c off size = true ↔
       ∀ a, off ≤ a → a < off + size → k.grantBase ≤ a ∧ a < k.grantBase + k.grantLen ∧ a < 0x1F0000) ∧
     (s.inCode c off size = true ↔ ∃ a, off ≤ a ∧ a < off + size ∧ k.codeBase ≤ a ∧ a < k.codeBase + k.codeLen))

/-- R171, R158, R170: the scalar loads write the bytes' value, zero- or sign-extended. R168, R171, R46: the scalar stores lay the register's low bytes, least significant first, into the strand's stage's
view of its tile. -/
def Obligations.LocalAccesses : Prop :=
  (∀ (s : State) (o : LdOp),
     let n (k : Nat) (bs : List Byte) : Word := (BitVec.ofNat k (ofLE bs)).setWidth 64
     let i (k : Nat) (bs : List Byte) : Word := (BitVec.ofNat k (ofLE bs)).signExtend 64
     LoadsScalar (.ldB o) s o 1 (n 8) ∧ LoadsScalar (.ldH o) s o 2 (n 16) ∧ LoadsScalar (.ldW o) s o 4 (n 32) ∧
     LoadsScalar (.ldD o) s o 8 (n 64) ∧ LoadsScalar (.ldBs o) s o 1 (i 8) ∧ LoadsScalar (.ldHs o) s o 2 (i 16) ∧
     LoadsScalar (.ldWs o) s o 4 (i 32)) ∧
  (∀ (s : State) (o : StOp), s.me.resOk o.s = true →
     let bs (k : Nat) : List Byte := leBytes k (s.getS o.s).toNat
     StoresLocal (.stB o) s o onlyLocal (bs 1) ∧ StoresLocal (.stH o) s o onlyLocal (bs 2) ∧ StoresLocal (.stW o) s o onlyLocal (bs 4) ∧
     StoresLocal (.stD o) s o onlyLocal (bs 8))

/-- R30, R52, R168, R169, R172: a local load or store whose address fails a check, or whose base or data register's residue is
wrong, or that touches marked staged bytes, takes the trap of that check with nothing of its effect but the post-increment that a
load past the checks of R30 has made at issue; over staged bytes that have not landed it waits.
Where the spec leaves a point open this is the model's choice: assumptions 15, 77 and 94. -/
def Obligations.LocalTraps : Prop :=
  ∀ (s : State) (l : LdOp) (k : StOp),
    (∀ p ∈ [(Instr.ldB l, 1), (.ldH l, 2), (.ldW l, 4), (.ldD l, 8), (.ldBs l, 1), (.ldHs l, 2), (.ldWs l, 4)],
      let ea := s.ea l.a l.off p.2
      let r := s.checkAddr ea (s.me.resOk l.a) onlyLocal p.2 p.2 false
      (∀ c, r = .bad c → Traps p.1 s c (if c = cRESIDUE then 0 else ea) false) ∧
      (∀ off va, r = .ok (.loc off) → s.stagedAt s.cur.cor s.cur.vt s.me.stage off p.2 = .marked va →
        exec p.1 s = .next (raise cSTAGE_FAULT (BitVec.ofNat 64 va) false false (s.postInc l.a l.inc p.2))) ∧
      (∀ off, r = .ok (.loc off) → s.stagedAt s.cur.cor s.cur.vt s.me.stage off p.2 = .notLanded →
        exec p.1 s = .next (s.onMe fun x => { x with wait := .again .staged }))) ∧
    (∀ p ∈ [(Instr.stB k, 1), (.stH k, 2), (.stW k, 4), (.stD k, 8)],
      let ea := s.ea k.a k.off p.2
      let r := s.checkAddr ea (s.me.resOk k.a) onlyLocal p.2 p.2 true
      (s.me.resOk k.s = false ∨ s.me.resOk k.a = false → Traps p.1 s cRESIDUE 0 false) ∧
      (s.me.resOk k.s = true → s.me.resOk k.a = true →
        (∀ c, r = .bad c → Traps p.1 s c ea true) ∧
        (∀ off, r = .ok (.loc off) → s.stagedAt s.cur.cor s.cur.vt s.me.stage off p.2 = .notLanded → WaitsFor p.1 s .staged) ∧
        (∀ off va, r = .ok (.loc off) → s.stagedAt s.cur.cor s.cur.vt s.me.stage off p.2 = .marked va →
          Traps p.1 s cSTAGE_FAULT (BitVec.ofNat 64 va) true) ∧
        (∀ off, r = .ok (.loc off) → s.stagedAt s.cur.cor s.cur.vt s.me.stage off p.2 = .ready →
          s.localRoom off p.2 = false → Traps p.1 s cDELTA_FULL ea true)))

/-- R173, R166: the local atomic writes the old value to rd and stores the operation's new value where it changes the
bytes, or is a swap, or is a cas that matches. -/
def Obligations.LocalAtomics : Prop :=
  ∀ (s : State) (o : R3) (op : BitVec 5) (size : Nat), (size = 4 ∨ size = 8) → op.toNat ≤ 9 → Tidy s →
    ∀ off, s.checkAddr (s.getS o.a) (s.me.resOk o.a) onlyLocal size size true = .ok (.loc off) →
      s.stagedAt s.cur.cor s.cur.vt s.me.stage off size = .ready → s.localRoom off size = true →
      s.unsound off size = false →
      let i := if size = 4 then Instr.ldaW o op else Instr.ldaD o op
      let w := 8 * size
      let old : BitVec w := BitVec.ofNat w (ofLE (s.readView off size))
      let b : BitVec w := (s.getS o.b).setWidth w
      let cmp : BitVec w := (s.getS o.d).setWidth w
      let new : BitVec w := match op.toNat with
        | 0 => old + b
        | 1 => old &&& b
        | 2 => old ||| b
        | 3 => old ^^^ b
        | 4 => if old.sle b then old else b
        | 5 => if b.sle old then old else b
        | 6 => if old.ule b then old else b
        | 7 => if b.ule old then old else b
        | 8 => b
        | _ => if old = cmp then b else old
      ∃ t, exec i s = .next t ∧ t.getS o.d = written o.d (old.setWidth 64) ∧
        ofLE ((List.range size).map fun n => t.seen s.cur.cor s.cur.vt s.me.stage (off + n)) = new.toNat ∧
        StoreFrame s t [.s o.d] off size

/-! ### Branches and repetition -/

/-- R153, R201: a branch tests its register and is taken to its own address and twice the offset; not taken with n = 1 it
annuls both slots.  In the body of a rep it is illegal (R156). R202, R203, R155: jumps, calls and returns go to their target; a call writes to s31 the address after its second delay
slot; a target in a register with bit 0 set raises ALIGN; in the body of a rep all are illegal.
Where the spec leaves a point open this is the model's choice: assumption 10. -/
def Obligations.BranchesAndJumps : Prop :=
  (∀ (s : State) (o : BrOp),
     let a := s.getS o.a
     let taken : Prop :=
       match o.cc.toNat with
       | 0 => a = 0
       | 1 => a ≠ 0
       | 2 => a.toInt < 0
       | 3 => 0 ≤ a.toInt
       | 4 => 0 < a.toInt
       | 5 => a.toInt ≤ 0
       | 6 => True
       | _ => a.getLsbD 0 = true
     (s.me.rep = none → taken →
       ∃ t, exec (.b o) s = .next t ∧ Branches s t [] (some (s.me.pc0 + BitVec.ofInt 64 (2 * o.off))) false) ∧
     (s.me.rep = none → ¬ taken → ∃ t, exec (.b o) s = .next t ∧ Branches s t [] none o.n) ∧
     (s.me.rep ≠ none → Traps (.b o) s cILLEGAL 0 false)) ∧
  (∀ (s : State) (off : Int) (a : Reg),
     let rel := s.me.pc0 + BitVec.ofInt 64 (2 * off)
     let link := s.after s.cur s.me.pc2
     (s.me.rep = none →
       (∃ t, exec (.j off) s = .next t ∧ Branches s t [] (some rel) false) ∧
       (∃ t, exec (.call off) s = .next t ∧ t.getS 31 = link ∧ Branches s t [.s 31] (some rel) false) ∧
       ((s.getS a).getLsbD 0 = false →
         (∃ t, exec (.jr a) s = .next t ∧ Branches s t [] (some (s.getS a)) false) ∧
         (∃ t, exec (.callr a) s = .next t ∧ t.getS 31 = link ∧ Branches s t [.s 31] (some (s.getS a)) false)) ∧
       ((s.getS a).getLsbD 0 = true →
         Traps (.jr a) s cALIGN (s.getS a) false ∧ Traps (.callr a) s cALIGN (s.getS a) false) ∧
       ((s.getS 31).getLsbD 0 = false →
         ∃ t, exec .ret s = .next t ∧ Branches s t [] (some (s.getS 31)) false) ∧
       ((s.getS 31).getLsbD 0 = true → Traps .ret s cALIGN (s.getS 31) false)) ∧
     (s.me.rep ≠ none → ∀ i ∈ [Instr.j off, .call off, .jr a, .callr a, .ret], Traps i s cILLEGAL 0 false))

/-- R157, R204: rep runs the next n chains as many times as its count register says, from the first on; a count of 0 skips
them; in a delay slot or a body it is illegal. R157: inside a repetition every instruction that retires moves PC0 to the next address of the unrolled sequence, and
after the last pass to the code behind the body, where the repetition is over.
Where the spec leaves a point open this is the model's choice: assumptions 10 and 37. -/
def Obligations.Repetition : Prop :=
  (∀ (s : State) (o : RepOp),
     let c := s.getS (o.cnt.setWidth 5)
     (s.me.slots = 0 → s.me.rep = none → ∀ body after,
       s.bodyFrom s.cur (o.nm1.toNat + 1) s.me.pc1 = .ok (body, after) →
       ∃ t, exec (.rep o) s = .next t ∧ OnlyMe s t ∧ Strand.Kept s.me t.me [] [] 0 ∧ body.length = o.nm1.toNat + 1 ∧
         (c = 0 → t.me.pc0 = after ∧ t.me.rep = none) ∧
         (c ≠ 0 → t.me.pc0 = s.me.pc1 ∧ t.me.rep = some ⟨body, after, c, 0, 0, o.stride, o.fields⟩)) ∧
     (s.me.slots ≠ 0 ∨ s.me.rep ≠ none → Traps (.rep o) s cILLEGAL 0 false)) ∧
  (∀ (s : State) (r : RepRun), s.me.rep = some r → r.pass.toNat < r.passes.toNat → r.idx < r.body.length →
     let last := r.pass.toNat + 1 = r.passes.toNat ∧ r.idx + 1 = r.body.length
     let x := (retire s).me
     (r.idx + 1 < r.body.length →
       x.pc0 = r.body.getD (r.idx + 1) 0 ∧ x.rep = some { r with idx := r.idx + 1 }) ∧
     (r.idx + 1 = r.body.length → ¬ last →
       x.pc0 = r.body.getD 0 0 ∧ x.rep = some { r with pass := r.pass + 1, idx := 0 }) ∧
     (last → x.pc0 = r.after ∧ x.rep = none))

/-! ### Vector instructions -/

/-- R209, R210: the two-source lane operations compute one exact value per enabled lane, apply the modifiers, and wrap,
clamp or round it once. R216: vdot4 and vdot2 add four or two products to each enabled 32-bit lane exactly, then wrap, clamp or round once.
Where the spec leaves a point open this is the model's choice: assumption 70. -/
def Obligations.VectorArithmetic : Prop :=
  (∀ (s : State) (o : V3) (x : Mod),
     let w := laneWidth o.t
     let c := s.me.fctl
     let a (n : Nat) := lane (s.getV o.a) w n
     let b (n : Nat) := lane (s.getV o.b) w n
     let e (n : Nat) := lane (s.getV o.d) w n
     let ints (i : Instr) (y : Nat → Int → Int → Int → Int) : Prop := ∀ g, elemOf o.t = .int g →
       Lanewise i s o.d o.m w fun n => wrapInt g x.sat (modifyInt x (y g.width (g.read (a n)) (g.read (b n)) (g.read (e n))))
     let flts (i : Instr) (y : XR → XR → XR → XR × Flags) : Prop := ∀ g, elemOf o.t = .flt g →
       Lanewise i s o.d o.m w fun n =>
         let r := y (g.input c (a n)) (g.input c (b n)) (g.input c (e n))
         let z := g.round c x.sat (XR.modify x r.1)
         (z.1, r.2 ||| z.2)
     let add (u v : XR) := XR.sum c.rm [u, v]
     (ints (.vadd o x) (fun _ u v _ => u + v) ∧ flts (.vadd o x) (fun u v _ => add u v)) ∧
     (ints (.vsub o x) (fun _ u v _ => u - v) ∧ flts (.vsub o x) (fun u v _ => add u v.neg)) ∧
     (ints (.vmul o x) (fun _ u v _ => u * v) ∧ flts (.vmul o x) (fun u v _ => XR.mul u v)) ∧
     ints (.vmulh o x) (fun k u v _ => u * v / 2 ^ k) ∧
     (ints (.vfma o x) (fun _ u v z => u * v + z) ∧ flts (.vfma o x) (fun u v z => XR.fma c.rm u v z)) ∧
     (ints (.vfms o x) (fun _ u v z => u * v - z) ∧ flts (.vfms o x) (fun u v z => XR.fma c.rm u v z.neg)) ∧
     (ints (.vfnma o x) (fun _ u v z => -(u * v) - z) ∧ flts (.vfnma o x) (fun u v z => XR.fma c.rm u.neg v z.neg)) ∧
     (ints (.vfnms o x) (fun _ u v z => z - u * v) ∧ flts (.vfnms o x) (fun u v z => XR.fma c.rm u.neg v z)) ∧
     (ints (.vmin o x) (fun _ u v _ => min u v) ∧ flts (.vmin o x) (fun u v _ => (XR.pickMinMax false u v, 0))) ∧
     (ints (.vmax o x) (fun _ u v _ => max u v) ∧ flts (.vmax o x) (fun u v _ => (XR.pickMinMax true u v, 0))) ∧
     (ints (.vabd o x) (fun _ u v _ => ((u - v).natAbs : Int)) ∧ flts (.vabd o x) (fun u v _ => ((add u v.neg).1.abs, (add u v.neg).2))) ∧
     (ints (.vavg o x) (fun _ u v _ => (u + v + 1) / 2) ∧
       flts (.vavg o x) (fun u v _ => ((add u v).1.scale (-1), (add u v).2)))) ∧
  (∀ (s : State) (o : V3) (x : Mod),
     let w := laneWidth o.t
     let c := s.me.fctl
     let a (n : Nat) := lane (s.getV o.a) w n
     let b (n : Nat) := lane (s.getV o.b) w n
     let e (n : Nat) := lane (s.getV o.d) 32 n
     let acts (i : Instr) (k : Nat) : Prop :=
       (∀ g, elemOf o.t = .int g →
         let r : IFmt := ⟨32, g.signed⟩
         Lanewise i s o.d o.m 32 fun n => wrapInt r x.sat (modifyInt x
           (r.read (e n) + ((List.range k).map fun j => g.read (a (k * n + j)) * g.read (b (k * n + j))).sum))) ∧
       (∀ g, elemOf o.t = .flt g →
         Lanewise i s o.d o.m 32 fun n =>
           let ps := (List.range k).map fun j => XR.mul (g.input c (a (k * n + j))) (g.input c (b (k * n + j)))
           let y := XR.sum c.rm (fmtF32.input c (e n) :: ps.map Prod.fst)
           let z := fmtF32.round c x.sat (XR.modify x y.1)
           (z.1, (ps.map Prod.snd).foldl (· ||| ·) y.2 ||| z.2))
     acts (.vdot4 o x) 4 ∧ acts (.vdot2 o x) 2)

/-- R211, R213, R219, R220: the bitwise, shift, select, insert and permute instructions move bits lane by lane and set no
flag; shift amounts and indices are taken modulo the width or the number of lanes. -/
def Obligations.VectorBits : Prop :=
  ∀ (s : State) (o : V3) (u : V2) (e : R3),
    let w := laneWidth o.t
    let k := 512 / w
    let a (n : Nat) : BitVec w := BitVec.ofNat w (lane (s.getV o.a) w n)
    let b (n : Nat) : BitVec w := BitVec.ofNat w (lane (s.getV o.b) w n)
    let old (n : Nat) : BitVec w := BitVec.ofNat w (lane (s.getV o.d) w n)
    let sa := (s.getS o.a).toNat
    let sb := (s.getS o.b).toNat
    let acts (i : Instr) (f : Nat → BitVec w) : Prop := Lanewise i s o.d o.m w fun n => ((f n).toNat, 0)
    acts (.vand o) (fun n => a n &&& b n) ∧ acts (.vor o) (fun n => a n ||| b n) ∧ acts (.vxor o) (fun n => a n ^^^ b n) ∧
    acts (.vandn o) (fun n => a n &&& ~~~b n) ∧
    acts (.vshl o) (fun n => a n <<< ((b n).toNat % w)) ∧ acts (.vshr o) (fun n => a n >>> ((b n).toNat % w)) ∧
    acts (.vsra o) (fun n => (a n).sshiftRight ((b n).toNat % w)) ∧ acts (.vrol o) (fun n => (a n).rotateLeft ((b n).toNat % w)) ∧
    acts (.vins o) (fun n => if n = sb % k then BitVec.ofNat w sa else old n) ∧
    acts (.vidx o) (fun n => BitVec.ofNat w (sa + n * sb)) ∧
    acts (.vperm o) (fun n => a ((b n).toNat % k)) ∧
    acts (.vzip o) (fun n => if n % 2 = 0 then a (n / 2) else b ((n - 1) / 2)) ∧
    acts (.vuzp o) (fun n => if n < k / 2 then a (2 * n) else b (2 * n - k)) ∧
    acts (.vrot o) (fun n => a ((n + sb) % k)) ∧
    (Lanewise (.vbc u) s u.d u.m (laneWidth u.t) fun _ => ((s.getS u.a).toNat, 0)) ∧
    (∃ t, exec (.vsel o) s = .next t ∧ Frame s t [.v o.d] [] 0 ∧
      ∀ n, n < k → lane (t.getV o.d) w n = if s.enabled o.m n = true then lane (s.getV o.a) w n else lane (s.getV o.b) w n) ∧
    (let x : BitVec w := BitVec.ofNat w (lane (s.getV e.a) w ((s.getS e.b).toNat % k))
     (∀ g, elemOf o.t = .int g → Writes (.vext e o.t) s e.d (if g.signed then x.signExtend 64 else x.setWidth 64) 0) ∧
     (∀ g, elemOf o.t = .flt g → Writes (.vext e o.t) s e.d (x.setWidth 64) 0))

/-- R212: vcmp writes bit n of its predicate where lane n is enabled and the condition holds, and 0 everywhere else; a NaN
in an enabled lane makes eq, lt and le false and ne true, and sets invalid for lt and le.  A compare into p0 writes
nothing. R214: vcvt converts element n of the low lanes where the mask enables it, keeps the destination's lane where it does
not, and writes 0 above the elements.
Where the spec leaves a point open this is the model's choice: assumption 70. -/
def Obligations.VectorComparesAndConversion : Prop :=
  (∀ (s : State) (o : VCmp),
     let w := laneWidth o.t
     let order (n : Nat) : Option Int :=
       match elemOf o.t with
       | .int g =>
         let d := g.read (lane (s.getV o.a) w n) - g.read (lane (s.getV o.b) w n)
         some (if d < 0 then -1 else if d = 0 then 0 else 1)
       | .flt g => XR.cmp (g.input s.me.fctl (lane (s.getV o.a) w n)) (g.input s.me.fctl (lane (s.getV o.b) w n))
     let acts (i : Instr) (f : Option Int → Bool) (signals : Bool) : Prop :=
       ∃ t fl, exec i s = .next t ∧ Frame s t [] [o.d] fl ∧
         (o.d = 0 → t.getP o.d = BitVec.allOnes 64) ∧
         (o.d ≠ 0 → ∀ n, n < 64 → ((t.getP o.d).getLsbD n = true ↔ n < 512 / w ∧ s.enabled o.m n = true ∧ f (order n) = true)) ∧
         (fl = flInvalid ∨ fl = 0) ∧
         (fl = flInvalid ↔ signals = true ∧ ∃ n, n < 512 / w ∧ s.enabled o.m n = true ∧ order n = none)
     acts (.vcmpEq o) (fun r => r == some 0) false ∧ acts (.vcmpLt o) (fun r => r == some (-1)) true ∧
     acts (.vcmpLe o) (fun r => r == some (-1) || r == some 0) true ∧ acts (.vcmpNe o) (fun r => r != some 0) false) ∧
  (∀ (s : State) (o : VCvt) (x : Mod),
     let c := s.me.fctl
     let ws := laneWidth o.src
     let wd := laneWidth o.dst
     let m := min (512 / ws) (512 / wd)
     let acts (f : Nat → Nat × Flags) : Prop :=
       ∃ t fl, exec (.vcvt o x) s = .next t ∧ Frame s t [.v o.d] [] fl ∧
         (∀ n, n < 512 / wd → lane (t.getV o.d) wd n =
           if m ≤ n then 0
           else if s.enabled o.m n = true then (f (lane (s.getV o.a) ws n)).1 % 2 ^ wd else lane (s.getV o.d) wd n) ∧
         ∀ b : Nat, fl.getLsbD b = true ↔
           ∃ n, n < m ∧ s.enabled o.m n = true ∧ (f (lane (s.getV o.a) ws n)).2.getLsbD b = true
     (∀ f g, elemOf o.src = .int f → elemOf o.dst = .int g →
       acts fun raw => wrapInt g x.sat (modifyInt x (f.read raw))) ∧
     (∀ f g, elemOf o.src = .flt f → elemOf o.dst = .int g →
       acts fun raw =>
         let y := XR.modify { x with clp := false } (f.input c raw)
         XR.toInt g c.rm (if x.clp = true ∧ y.sign = true then XR.zero false else y)) ∧
     (∀ f g, elemOf o.src = .int f → elemOf o.dst = .flt g →
       acts fun raw => g.round c x.sat (XR.modify x (XR.ofInt (f.read raw)))) ∧
     (∀ f g, elemOf o.src = .flt f → elemOf o.dst = .flt g →
       acts fun raw => g.round c x.sat (XR.modify x (f.input c raw))))

/-- R215, R226: the integer reductions give the total, the least or the greatest of the enabled lanes, the empty reduction 0
or the end of the type; with every lane disabled no flag is set; floating vred.add is the pairwise tree, an empty lane giving the
other one, each sum rounded before the next; vred.min and vred.max give the least and the greatest lane, -0 below +0, and a NaN only
where every lane is one; the modifiers act before the last rounding; vred.addo adds floating lanes one after the other, each sum rounded but the last, whose exact value
takes the modifiers; lane 0 holds the result and every other lane 0. -/
def Obligations.VectorReductions : Prop :=
  ∀ (s : State) (o : V2) (x : Mod),
    let w := laneWidth o.t
    let c := s.me.fctl
    let on : List Nat := ((List.range (512 / w)).filter fun n => s.enabled o.m n).map fun n => lane (s.getV o.a) w n
    let acts (i : Instr) (r : Nat × Flags) : Prop :=
      WritesV i s o.d (BitVec.ofNat 512 (r.1 % 2 ^ w)) (if on = [] then 0 else r.2)
    (∀ g, elemOf o.t = .int g →
      let ls := on.map g.read
      acts (.vredAdd o x) (wrapInt g x.sat (modifyInt x ls.sum)) ∧
      (∃ y, acts (.vredMin o x) (wrapInt g x.sat (modifyInt x y)) ∧ (ls = [] → y = g.hi) ∧
        (ls ≠ [] → y ∈ ls ∧ ∀ z ∈ ls, y ≤ z)) ∧
      (∃ y, acts (.vredMax o x) (wrapInt g x.sat (modifyInt x y)) ∧ (ls = [] → y = g.lo) ∧
        (ls ≠ [] → y ∈ ls ∧ ∀ z ∈ ls, z ≤ y))) ∧
    (∀ g, elemOf o.t = .flt g →
      let ls := on.map (g.input c)
      let acc := g.input c (lane (s.getV o.d) w 0)
      let final (y : XR) (fl : Flags) : Nat × Flags :=
        ((g.round c x.sat (XR.modify x y)).1, fl ||| (g.round c x.sat (XR.modify x y)).2)
      (ls = [] → acts (.vredAdd o x) (final (XR.zero false) 0) ∧ acts (.vredMin o x) (final (.inf false) 0) ∧
        acts (.vredMax o x) (final (.inf true) 0) ∧ acts (.vredAddo o x) (final acc 0)) ∧
      (let settled (p : XR × Flags) : XR × Flags :=
          (g.read c.b8inf (g.round c false p.1).1, p.2 ||| (g.round c false p.1).2)
       let both (p q : Option (XR × Flags)) : Option (XR × Flags) :=
         match p, q with
         | none, q => q
         | p, none => p
         | some p, some q =>
           let r := XR.add c.rm (settled p).1 (settled q).1
           some (r.1, (settled p).2 ||| (settled q).2 ||| r.2)
       let level : Nat → Nat → Option (XR × Flags) := fun k => Nat.rec (motive := fun _ => Nat → Option (XR × Flags))
         (fun n => if s.enabled o.m n = true then some (g.input c (lane (s.getV o.a) w n), 0) else none)
         (fun _ f n => both (f (2 * n)) (f (2 * n + 1))) k
       ∀ k p, 2 ^ k = 512 / w → level k 0 = some p → acts (.vredAdd o x) (final p.1 p.2)) ∧
      (ls ≠ [] → ∃ y ∈ ls, acts (.vredMin o x) (final y 0) ∧ ∀ z ∈ ls, (y.isNan = true → z.isNan = true) ∧
        XR.lt z y = false ∧ (z.isZero = true → z.sign = true → y.isZero = true → y.sign = true)) ∧
      (ls ≠ [] → ∃ y ∈ ls, acts (.vredMax o x) (final y 0) ∧ ∀ z ∈ ls, (y.isNan = true → z.isNan = true) ∧
        XR.lt y z = false ∧ (z.isZero = true → z.sign = false → y.isZero = true → y.sign = false)) ∧
      ∃ sums : List (XR × Flags), sums.length = ls.length + 1 ∧ sums[0]? = some (acc, 0) ∧
        (∀ n y fl z, sums[n]? = some (y, fl) → ls[n]? = some z →
          let r := g.round c false y
          sums[n + 1]? = some ((XR.sum c.rm [g.read c.b8inf r.1, z]).1, fl ||| r.2 ||| (XR.sum c.rm [g.read c.b8inf r.1, z]).2)) ∧
        ∀ y fl, sums[ls.length]? = some (y, fl) → acts (.vredAddo o x) (final y fl))

/-- R221, R222: the special functions complete lane by lane, and give the results of R222 on the special operands. R223: the generator's hash, in 32-bit arithmetic; vrng.f gives its upper 24 bits as a fraction.
Where the spec leaves a point open this is the model's choice: assumption 8. -/
def Obligations.VectorFunctions : Prop :=
  ((∀ (s : State) (o : V2) (f : BitVec 3) (x : Mod) (g : Fmt), elemOf o.t = .flt g →
     (Lanewise (.vsf o f x) s o.d o.m (laneWidth o.t) fun n => g.special false s.me.fctl x f (lane (s.getV o.a) (laneWidth o.t) n)) ∧
     (Lanewise (.vsfFast o f x) s o.d o.m (laneWidth o.t) fun n => g.special true s.me.fctl x f (lane (s.getV o.a) (laneWidth o.t) n))) ∧
   ∀ (c : FCtl) (raw : Nat),
     let x : Mod := ⟨false, false, false, false, 0⟩
     let is (f : BitVec 3) (y : XR) (r : XR) (fl : Flags) : Prop := fmtF32.input c raw = y →
       fmtF32.special false c x f raw = ((fmtF32.round c false r).1, fl)
     (∀ f, is f .nan .nan 0) ∧
     is 0 (.inf true) (XR.zero false) 0 ∧ is 0 (.inf false) (.inf false) 0 ∧ (∀ n, is 0 (XR.zero n) .one 0) ∧
     (∀ n, is 1 (XR.zero n) (.inf true) flDivz) ∧ (∀ m e, m ≠ 0 → is 1 (.fin true m e) .nan flInvalid) ∧
     is 1 (.inf false) (.inf false) 0 ∧
     (∀ n, is 2 (XR.zero n) (.inf n) flDivz) ∧ (∀ n, is 2 (.inf n) (XR.zero n) 0) ∧
     (∀ n, is 3 (XR.zero n) (.inf n) flDivz) ∧ (∀ m e, m ≠ 0 → is 3 (.fin true m e) .nan flInvalid) ∧
     is 3 (.inf false) (XR.zero false) 0 ∧
     (∀ n, is 4 (XR.zero n) (XR.zero n) 0) ∧ (∀ n, is 4 (.inf n) (.fin n 1 0) 0) ∧
     is 5 (.inf true) (XR.zero false) 0 ∧ is 5 (.inf false) .one 0 ∧ (∀ n, is 5 (XR.zero n) (.fin false 1 (-1)) 0) ∧
     (∀ n, is 6 (XR.zero n) (XR.zero n) 0) ∧ (∀ n, is 6 (.inf n) .nan flInvalid) ∧
     (∀ n, is 7 (XR.zero n) .one 0) ∧ (∀ n, is 7 (.inf n) .nan flInvalid)) ∧
  (∀ (s : State) (o : R3) (m : BitVec 3),
     let k0 := (s.getS o.b).extractLsb' 0 32
     let k1 := (s.getS o.b).extractLsb' 32 32
     let mix (x : BitVec 32) (n : Nat) : BitVec 32 := x ^^^ (x >>> n)
     let hash (c : BitVec 32) : BitVec 32 :=
       mix ((mix ((mix ((c ^^^ k0) * 0x9E3779B1) 15 ^^^ k1) * 0x85EBCA77) 13 + k0) * 0xC2B2AE3D) 16
     let out (n : Nat) : BitVec 32 := hash (BitVec.ofNat 32 (lane (s.getV o.a) 32 n))
     (Lanewise (.vrng o m) s o.d m 32 fun n => ((out n).toNat, 0)) ∧
     Lanewise (.vrngF o m) s o.d m 32 fun n => ((fmtF32.round .rne false (.fin false ((out n) >>> 8).toNat (-24))).1, 0))

/-- R225: gowner and gaddr find the owner and the local element of coordinates under a distribution table; an unused table
or a coordinate at or beyond its extent raises PROT. -/
def Obligations.TablePlaces : Prop :=
  ∀ (s : State) (o : R2) (k : BitVec 5),
    let t := KMap.getD s.image.dtabs k.toNat []
    let h := t.getD 0 0
    let dims := (h.extractLsb' 16 3).toNat
    let field (d n : Nat) : Nat := ((t.getD (1 + d) 0).extractLsb' (16 * n) 16).toNat
    let coord (d : Nat) : Nat := ((s.getS o.a).extractLsb' (16 * d) 16).toNat
    let owner := (List.range dims).foldl (fun r d => r * field d 2 + coord d / field d 1 % field d 2) 0
    let loc := (List.range dims).foldl
      (fun r d => r * field d 3 + (coord d / (field d 1 * field d 2) * field d 1 + coord d % field d 1)) 0
    let vt := (h.extractLsb' 0 16).toNat + owner
    let off := (h.extractLsb' 24 21).toNat + loc * 2 ^ (h.extractLsb' 20 4).toNat
    (dims ≠ 0 → (∀ d, d < dims → coord d < field d 0) →
      Writes (.gowner o k) s o.d (BitVec.ofNat 64 vt) 0 ∧
      Writes (.gaddr o k) s o.d (BitVec.ofNat 64 (0x4000000000000000 + vt * 2 ^ 21 + off)) 0) ∧
    ((dims = 0 ∨ ∃ d, d < dims ∧ field d 0 ≤ coord d) →
      Traps (.gowner o k) s cPROT 0 false ∧ Traps (.gaddr o k) s cPROT 0 false)

/-! ### Vector memory -/

/-- R217: vld and vst move the bytes that the mask enables between a vector register and one line of the strand's view,
after the checks of R30 on the whole line; a byte not enabled is neither waited for nor written. -/
def Obligations.VectorLines : Prop :=
  ∀ (s : State) (l : LdOp) (k : StOp) (m : BitVec 3),
    let on (n : Nat) : Bool := s.enabled m n
    let fine (off : Nat) : Prop := ∀ n, n < 64 → on n = true → s.stagedAt s.cur.cor s.cur.vt s.me.stage (off + n) 1 = .ready
    (∀ off, s.checkAddr (s.ea l.a l.off 64) (s.me.resOk l.a) onlyLocal 64 64 false = .ok (.loc off) → fine off → Tidy s →
      ∃ t new, exec (.vld l m) s = .next t ∧
        LoadFrame s t (.v l.d :: if l.inc then [.s l.a] else []) (s.unsound off 64 = false) ∧
        (∀ n, n < 64 → lane new 8 n = if on n = true then (s.seen s.cur.cor s.cur.vt s.me.stage (off + n)).toNat
          else lane (s.getV l.d) 8 n) ∧
        (l.la = 0 → t.getV l.d = new) ∧
        (l.la ≠ 0 → t.getV l.d = s.getV l.d ∧
          ∃ w ∈ t.me.windows, w.left = l.la.toNat ∧ w.landed = true ∧ w.writes = [(.v l.d, .v new)]) ∧
        (l.inc = true → t.getS l.a = written l.a (s.getS l.a + 64))) ∧
    (∀ off, s.checkAddr (s.ea k.a k.off 64) (s.me.resOk k.a) onlyLocal 64 64 true = .ok (.loc off) → fine off →
      ((∀ n, n < 64 → on n = false) ∨ s.localRoom off 64 = true) → Tidy s →
      ∃ t, exec (.vst k m) s = .next t ∧ StoreFrame s t [] off 64 ∧
        ∀ n, n < 64 → t.seen s.cur.cor s.cur.vt s.me.stage (off + n) =
          if on n = true then BitVec.ofNat 8 (lane (s.getV k.s) 8 n) else s.seen s.cur.cor s.cur.vt s.me.stage (off + n)) ∧
    (∀ c, s.checkAddr (s.ea l.a l.off 64) (s.me.resOk l.a) onlyLocal 64 64 false = .bad c →
      Traps (.vld l m) s c (if c = cRESIDUE then 0 else s.ea l.a l.off 64) false) ∧
    (∀ c, s.checkAddr (s.ea k.a k.off 64) (s.me.resOk k.a) onlyLocal 64 64 true = .bad c →
      Traps (.vst k m) s c (if c = cRESIDUE then 0 else s.ea k.a k.off 64) true)

/-- R218: the base of a gather or scatter is checked whatever the mask, and the first enabled lane outside the granted
range, or for vsct in the code window, raises PROT at its offset before any lane is performed. R218: vgat and vsct access one element for each enabled lane at the base and the lane's unsigned index, in ascending
lane order, after every enabled lane has passed its checks; where two stores meet the higher lane's stands.
Where the spec leaves a point open this is the model's choice: assumption 75. -/
def Obligations.GatherScatter : Prop :=
  (∀ (s : State) (o : V3),
     let w := laneWidth o.t
     let ea := s.getS o.a
     let off (n : Nat) : Nat := ea.toNat + lane (s.getV o.b) w n * (w / 8)
     let fine (n : Nat) : Prop := s.inGrant s.cur.cor (off n) (w / 8) = true ∧
       s.stagedAt s.cur.cor s.cur.vt s.me.stage (off n) (w / 8) = .ready
     let both (c : BitVec 8) (a : Word) : Prop := Traps (.vgat o) s c a false ∧ Traps (.vsct o) s c a true
     (s.me.resOk o.a = false → both cRESIDUE 0) ∧
     (s.me.resOk o.a = true →
       (3 * 2 ^ 62 ≤ ea.toNat → both (if s.isDepot then cPROT else cPRIV) ea) ∧
       (2 ^ 21 ≤ ea.toNat → ea.toNat < 3 * 2 ^ 62 → both cPROT ea) ∧
       (ea.toNat < 2 ^ 21 → ea.toNat % (w / 8) ≠ 0 → both cALIGN ea) ∧
       (ea.toNat < 2 ^ 21 → ea.toNat % (w / 8) = 0 → ∀ n, n < 512 / w → s.enabled o.m n = true →
         (∀ k, k < n → s.enabled o.m k = true → fine k) → s.inGrant s.cur.cor (off n) (w / 8) = false →
         Traps (.vgat o) s cPROT (BitVec.ofNat 64 (off n)) false) ∧
       (ea.toNat < 2 ^ 21 → ea.toNat % (w / 8) = 0 → ∀ n, n < 512 / w → s.enabled o.m n = true →
         (∀ k, k < n → s.enabled o.m k = true → fine k ∧ s.inCode s.cur.cor (off k) (w / 8) = false) →
         (s.isDepot = true ∨ ∀ k, k < n → s.room s.cur.cor s.cur.vt s.me.stage (newLines s.mine.loc (distinct
           (((List.range (k + 1)).filter fun j => s.enabled o.m j).map fun j => off j / 64))) = true) →
         s.inGrant s.cur.cor (off n) (w / 8) = false ∨ s.inCode s.cur.cor (off n) (w / 8) = true →
         Traps (.vsct o) s cPROT (BitVec.ofNat 64 (off n)) true))) ∧
  (∀ (s : State) (o : V3),
     let w := laneWidth o.t
     let base := (s.getS o.a).toNat
     let here (t : State) (a : Nat) : Byte := t.seen s.cur.cor s.cur.vt s.me.stage a
     let on (n : Nat) : Prop := n < 512 / w ∧ s.enabled o.m n = true
     let off (n : Nat) : Nat := base + lane (s.getV o.b) w n * (w / 8)
     let lines := distinct (((List.range (512 / w)).filter fun n => s.enabled o.m n).map fun n => off n / 64)
     s.me.resOk o.a = true → base < 2 ^ 21 → base % (w / 8) = 0 → 8 ≤ w → Tidy s →
     (∀ n, on n → s.inGrant s.cur.cor (off n) (w / 8) = true ∧
       s.stagedAt s.cur.cor s.cur.vt s.me.stage (off n) (w / 8) = .ready) →
     (∃ t, exec (.vgat o) s = .next t ∧ LoadFrame s t [.v o.d] (s.unsound 0 0x200000 = false) ∧
       ∀ n, n < 512 / w → lane (t.getV o.d) w n =
         if s.enabled o.m n = true then ofLE ((List.range (w / 8)).map fun k => here s (off n + k)) else lane (s.getV o.d) w n) ∧
     ((∀ n, on n → s.inCode s.cur.cor (off n) (w / 8) = false) →
       (s.isDepot = true ∨ s.room s.cur.cor s.cur.vt s.me.stage (newLines s.mine.loc lines) = true) →
       ∃ t, exec (.vsct o) s = .next t ∧ StoreFrame s t [] 0 0x200000 ∧
         (∀ c vt st a, (∀ n, on n → a < off n ∨ off n + w / 8 ≤ a) → t.seen c vt st a = s.seen c vt st a) ∧
         ∀ n, on n → (∀ k, on k → n < k → off k ≠ off n) →
           ofLE ((List.range (w / 8)).map fun k => here t (off n + k)) = lane (s.getV o.d) w n))

/-! ### Far and remote accesses -/

/-- R174, R158: the far loads take one access from the strand's own view, from another vtile's committed bytes, or from far
memory, where a corridor's access opens a window that waits for the home controller and a depot strand's reads at once;
a page of class 11 raises PROT, a byte that the stage has marked STAGE_FAULT (R75), and another package's byte is asked for;
an access waits for a place in the walk queue (R41), a depot strand's for its accesses before it (R67).
Where the spec leaves a point open this is the model's choice: assumptions 40 and 94. -/
def Obligations.FarLoads : Prop :=
  ∀ (s : State) (o : LdOp),
    let c := s.cur.cor
    let inc : List Dest := if o.inc then [.s o.a] else []
    let acts (i : Instr) (size : Nat) (d : Dest) (val : List Byte → WinVal) : Prop :=
      let ea := s.ea o.a o.off size
      let r := s.checkAddr ea (s.me.resOk o.a) anySpace size size false
      let gives (t : State) (v : WinVal) : Prop :=
        (o.la = 0 → t.me.reads d v) ∧ (o.la ≠ 0 → t.me.windowOn o.la d v none true) ∧
          (o.inc = true → d ≠ .s o.a → t.getS o.a = written o.a (s.getS o.a + BitVec.ofNat 64 size))
      let asks (t : State) (pkg va addr : Nat) : Prop :=
        ∃ q ∈ t.fabric.open_, q.pkg = pkg ∧ q.kind = .rd ∧ q.va = va ∧ q.size = size ∧ q.use = .read s.cur s.me.nextWin addr
      (∀ k, r = .bad k → Traps i s k (if k = cRESIDUE then 0 else ea) false) ∧
      (∀ off, r = .ok (.loc off) → s.stagedAt c s.cur.vt s.me.stage off size = .ready →
        ∃ t, exec i s = .next t ∧ LoadFrame s t (d :: inc) (s.unsound off size = false) ∧ gives t (val (s.readView off size))) ∧
      (∀ vt off, r = .ok (.tsp vt off) →
        (s.isDepot = true ∨ s.onPackage c vt = true ∧ s.stagedAt c vt s.me.stage off size = .ready ∧
          s.joined (s.myTile / 144) (s.phys c vt / 144) = true) →
        ∃ t, exec i s = .next t ∧
          LoadFrame s t (d :: inc) (s.isDepot = true ∨ poisoned (s.tile (s.phys c vt)).poison off size = false) ∧
          gives t (val (Mem.readN (s.tile (s.phys c vt)).mem off size))) ∧
      (∀ vt off va, r = .ok (.tsp vt off) → s.isDepot = false → s.onPackage c vt = true →
        s.stagedAt c vt s.me.stage off size = .marked va →
        exec i s = .next (raise cSTAGE_FAULT (BitVec.ofNat 64 va) false false (s.postInc o.a o.inc size))) ∧
      (∀ vt off, r = .ok (.tsp vt off) → s.isDepot = false → s.onPackage c vt = false →
        (s.freeTag (s.homePackage c vt)).isSome = true →
        ∃ t v, exec i s = .next t ∧ HeldFrame s { t with fabric := s.fabric } s.me s.mine inc 0 ∧
          t.me.windowOn o.la d v none false ∧ asks t (s.homePackage c vt) ea.toNat ea.toNat) ∧
      (∀ va, r = .ok (.far va) → s.isDepot = true → s.accessesDone s.cur = false → WaitsFor i s .stored) ∧
      (∀ va, r = .ok (.far va) → (s.isDepot = true → s.accessesDone s.cur = true) → s.walkFull c s.myTile va = true →
        WaitsFor i s .walks) ∧
      (∀ va, r = .ok (.far va) → (s.isDepot = true → s.accessesDone s.cur = true) → s.walkFull c s.myTile va = false →
        let x := s.farAt c s.myTile va ⟨true, false, !s.isDepot⟩
        let u := s.noteFar c s.myTile va
        let noted : State := if s.isDepot then u.forgetProbe (s.space c).1 va else u
        (∀ f, x = .bad f → exec i s = .next (raise f.cause (BitVec.ofNat 64 va) f.s2 false noted)) ∧
        (∀ pa, x = .at_ pa 3 → exec i s = .next (raise cPROT (BitVec.ofNat 64 va) false false noted)) ∧
        (∀ a, x = .probe a → ∃ t, exec i s = .next t ∧ t.me.wait = .again .probe) ∧
        (∀ pa k pkg, x = .at_ pa k → k ≠ 3 → s.isDepot = true → peerOf pa = some pkg → (s.freeTag pkg).isSome = true →
          ∃ t v, exec i s = .next t ∧ HeldFrame s { t with fabric := s.fabric } s.me s.mine inc 0 ∧
            t.me.windowOn o.la d v none false ∧ asks t pkg (pa % paSpan) va) ∧
        (∀ pa k, x = .at_ pa k → k ≠ 3 → s.isDepot = true → peerOf pa = none →
          ∃ t, exec i s = .next t ∧ HeldFrame s { t with fabric := s.fabric } s.me s.mine (d :: inc) 0 ∧
            gives t (val (Mem.readN s.far.mem pa size))) ∧
        (∀ pa k, x = .at_ pa k → k ≠ 3 → s.isDepot = false →
          ∃ t v, exec i s = .next t ∧ HeldFrame s t s.me s.mine inc 0 ∧
            t.me.windowOn o.la d v (some ⟨va, pa, size, d, (s.stage c s.me.stage).mm, k⟩) false))
    acts (.ldfW o) 4 (.s o.d) (fun b => .s (BitVec.ofNat 64 (ofLE b))) ∧
    acts (.ldfD o) 8 (.s o.d) (fun b => .s (BitVec.ofNat 64 (ofLE b))) ∧
    acts (.vldf o) 64 (.v o.d) (fun b => .v (BitVec.ofNat 512 (ofLE b)))

/-- R175, R53, R62: the far stores write the strand's own view, send a delta to a vtile of the stage, hold cross-stage
data, log a versioned page's bytes or queue an immediate page's; no far memory changes before the commit, but for a depot
strand's store, which acts at once (R67); a store to a byte that the stage has marked raises STAGE_FAULT (R75).
Where the spec leaves a point open this is the model's choice: assumption 94. -/
def Obligations.FarStores : Prop :=
  ∀ (s : State) (o : StOp),
    let c := s.cur.cor
    let st := s.me.stage
    let m := s.mine
    let acts (i : Instr) (bs : List Byte) : Prop :=
      let size := bs.length
      let ea := s.ea o.a o.off size
      let r := s.checkAddr ea (s.me.resOk o.a) anySpace size size true
      let next : Strand := { s.me with seq := s.me.seq + 1 }
      StoresLocal i s o anySpace bs ∧
      (s.me.resOk o.a = true → ∀ k, r = .bad k → Traps i s k ea true) ∧
      (∀ vt off va, r = .ok (.tsp vt off) → s.isDepot = false →
        markIn (s.stageTile c vt st).staged off size = some va → Traps i s cSTAGE_FAULT (BitVec.ofNat 64 va) true) ∧
      (∀ vt off, r = .ok (.tsp vt off) → s.isDepot = false → markIn (s.stageTile c vt st).staged off size = none →
        let w : Sent := ⟨vt, s.cur.slot, s.me.seq, (s.stage c st).mm, (s.stage c st).run, runCells off bs, false, size⟩
        let m' : StageTile := if s.image.holds vt st = true then
          { m with outbound := m.outbound ++ [w], pending := m.pending + size } else { m with cross := m.cross ++ [w] }
        let u := ((s.setMine m').setMe next)
        (u.fits c s.cur.vt st = true → ∃ t, exec i s = .next t ∧ HeldFrame s t next m' [] 0) ∧
        (u.fits c s.cur.vt st = false → Traps i s cDELTA_FULL ea true)) ∧
      (∀ vt off, r = .ok (.tsp vt off) → s.isDepot = true → Tidy s →
        ∃ t, exec i s = .next t ∧ StoreFrame s t [] off size ∧
          ∀ n (h : n < bs.length), t.seen c vt 0 (off + n) = bs[n]) ∧
      (∀ va, r = .ok (.far va) → s.isDepot = true → s.accessesDone s.cur = false → WaitsFor i s .stored) ∧
      (∀ va, r = .ok (.far va) → (s.isDepot = true → s.accessesDone s.cur = true) → s.walkFull c s.myTile va = true →
        WaitsFor i s .walks) ∧
      (∀ va, r = .ok (.far va) → (s.isDepot = true → s.accessesDone s.cur = true) → s.walkFull c s.myTile va = false →
        let x := s.farAt c s.myTile va ⟨false, true, !s.isDepot⟩
        let u := s.noteFar c s.myTile va
        let noted : State := if s.isDepot then u.forgetProbe (s.space c).1 va else u
        (∀ f, x = .bad f → exec i s = .next (raise f.cause (BitVec.ofNat 64 va) f.s2 true noted)) ∧
        (∀ pa k, x = .at_ pa k → k ≠ 0 → k ≠ 1 →
          exec i s = .next (raise cPROT (BitVec.ofNat 64 va) false true noted)) ∧
        (∀ pa k, x = .at_ pa k → k = 0 ∨ k = 1 → s.isDepot = false →
          let h : HeldOp := .store pa bs
          let y : Strand := if k = 0 then next else { next with
            held := s.me.held.filter (fun p => decide (p.1 ≤ s.me.seq)) ++ (s.me.seq, h) :: s.me.held.filter fun p => decide (s.me.seq < p.1) }
          let m' : StageTile := if k = 0 then
            { m with farlog := m.farlog ++ [⟨(s.stage c st).mm, s.cur.vt, s.cur.slot, s.me.seq, runCells pa bs, [], []⟩] } else m
          (((s.setMine m').setMe y).fits c s.cur.vt st = true → ∃ t, exec i s = .next t ∧ HeldFrame s t y m' [] 0) ∧
          (((s.setMine m').setMe y).fits c s.cur.vt st = false → exec i s = .next (raise cDELTA_FULL ea false true noted))) ∧
        (∀ pa k, x = .at_ pa k → k = 0 ∨ k = 1 → s.isDepot = true → peerOf pa = none → Tidy s →
          ∃ t, exec i s = .next t ∧ HeldFrame s { t with far := s.far, fabric := s.fabric } s.me m [] 0 ∧
            ∀ a, Mem.read t.far.mem a = if pa ≤ a ∧ a < pa + size then bs.getD (a - pa) 0 else Mem.read s.far.mem a))
    (s.me.resOk o.s = true → acts (.stfW o) (leBytes 4 (s.getS o.s).toNat) ∧ acts (.stfD o) (leBytes 8 (s.getS o.s).toNat)) ∧
    (s.me.resOk o.s = false → Traps (.stfW o) s cRESIDUE 0 false ∧ Traps (.stfD o) s cRESIDUE 0 false) ∧
    (s.me.resOk o.a = true → acts (.vstf o) (leBytes 64 (s.getV o.s).toNat)) ∧
    (s.me.resOk o.a = false → Traps (.vstf o) s cRESIDUE 0 false)

/-- R176, R56: an accumulate converts its operand to fixed point exactly or rounded to even, logs one cell (sixteen for
acc.v16, in lane order) for the commit and sets the flags of the conversions; a page that cannot be reached traps, one that is no
accumulation page raises PROT, and a full verge buffer DELTA_FULL; a depot strand's accumulate adds to the cells at once.
Where the spec leaves a point open this is the model's choice: assumption 76. -/
def Obligations.Accumulates : Prop :=
  ∀ (s : State) (a b : Reg),
    let c := s.cur.cor
    let ea := s.getS a
    let m := s.mine
    let next : Strand := { s.me with seq := s.me.seq + 1 }
    let acts (i : Instr) (qs : List (BitVec 128 × Flags)) : Prop :=
      let size := 16 * qs.length
      let fl := (qs.map Prod.snd).foldl (· ||| ·) 0
      let r := s.checkAddr ea (s.me.resOk a) onlyFar size size true
      (∀ k, r = .bad k → Traps i s k ea true) ∧
      (∀ va, r = .ok (.far va) → s.isDepot = true → s.accessesDone s.cur = false → WaitsFor i s .stored) ∧
      (∀ va, r = .ok (.far va) → (s.isDepot = true → s.accessesDone s.cur = true) → s.walkFull c s.myTile va = true →
        WaitsFor i s .walks) ∧
      ∀ va, r = .ok (.far va) → (s.isDepot = true → s.accessesDone s.cur = true) → s.walkFull c s.myTile va = false →
        let x := s.farAt c s.myTile va ⟨false, true, !s.isDepot⟩
        let u := s.noteFar c s.myTile va
        let noted : State := if s.isDepot then u.forgetProbe (s.space c).1 va else u
        (∀ f, x = .bad f → exec i s = .next (raise f.cause (BitVec.ofNat 64 va) f.s2 true noted)) ∧
        (∀ pa k, x = .at_ pa k → k ≠ 2 →
          exec i s = .next (raise cPROT (BitVec.ofNat 64 va) false true noted)) ∧
        (∀ pa, x = .at_ pa 2 → s.isDepot = false →
          let cells := (List.range qs.length).map fun n => (pa + 16 * n, (qs.getD n (0, 0)).1)
          let m' : StageTile := { m with farlog := m.farlog ++ [⟨(s.stage c s.me.stage).mm, s.cur.vt, s.cur.slot, s.me.seq, [], cells, []⟩] }
          (((s.setMine m').setMe next).fits c s.cur.vt s.me.stage = true →
            ∃ t, exec i s = .next t ∧ HeldFrame s t next m' [] fl) ∧
          (((s.setMine m').setMe next).fits c s.cur.vt s.me.stage = false →
            exec i s = .next (raise cDELTA_FULL ea false true noted))) ∧
        (∀ pa, x = .at_ pa 2 → s.isDepot = true → peerOf pa = none → Tidy s →
          ∃ t, exec i s = .next t ∧ HeldFrame s { t with far := s.far, fabric := s.fabric } s.me m [] fl ∧
            (∀ n, n < qs.length → Mem.load t.far.mem (pa + 16 * n) 16 =
              (Mem.load s.far.mem (pa + 16 * n) 16 + (qs.getD n (0, 0)).1.toNat) % 2 ^ 128) ∧
            ∀ k, k < pa ∨ pa + size ≤ k → Mem.read t.far.mem k = Mem.read s.far.mem k)
    let q (x : XR) : BitVec 128 × Flags := toQ6464 x
    let bad (i : Instr) : Prop := Traps i s cRESIDUE 0 false
    (s.me.resOk a = true → s.me.resOk b = true →
      acts (.accF32 a b) [q (fmtF32.read false ((s.getS b).extractLsb' 0 32).toNat)] ∧
      acts (.accF64 a b) [q (fmtF64.read false (s.getS b).toNat)] ∧
      acts (.accI64 a b) [((s.getS b).signExtend 128 <<< 64, 0)]) ∧
    (s.me.resOk a = true →
      acts (.accV16 a b) ((List.range 16).map fun n => q (fmtF32.read false (lane (s.getV b) 32 n)))) ∧
    (s.me.resOk a = false → bad (.accF32 a b) ∧ bad (.accF64 a b) ∧ bad (.accI64 a b) ∧ bad (.accV16 a b)) ∧
    (s.me.resOk b = false → bad (.accF32 a b) ∧ bad (.accF64 a b) ∧ bad (.accI64 a b))

/-- R177, R62: an immediate atomic on an immediate page is held in the strand's queue until the commit, with its operand,
its compare value and its tag; a page that cannot be reached traps, one of another class raises PROT, and sixteen outstanding ones or
a full verge buffer DELTA_FULL; a depot strand's goes to the home controller at
once.
Where the spec leaves a point open this is the model's choice: assumption 76. -/
def Obligations.ImmediateAtomics : Prop :=
  ∀ (s : State) (o : R3) (op : BitVec 5) (size : Nat), (size = 4 ∨ size = 8) →
    let i := if size = 4 then Instr.amoiW o op else Instr.amoiD o op
    let c := s.cur.cor
    let ea := s.getS o.a
    let tag : BitVec 16 := (s.getS o.d).setWidth 16
    let operand := if op = 9 then s.getS (o.b + 1) else s.getS o.b
    let compare := if op = 9 then s.getS o.b else 0
    let sound := s.me.resOk o.a = true ∧ s.me.resOk o.b = true ∧ s.me.resOk o.d = true ∧ (op = 9 → s.me.resOk (o.b + 1) = true)
    let r := s.checkAddr ea true onlyFar size size true
    (¬ sound → Traps i s cRESIDUE 0 false) ∧
    (sound → (∀ k, r = .bad k → Traps i s k ea true) ∧
      (∀ va, r = .ok (.far va) → s.isDepot = true → s.accessesDone s.cur = false → WaitsFor i s .stored) ∧
      (∀ va, r = .ok (.far va) → (s.isDepot = true → s.accessesDone s.cur = true) → s.walkFull c s.myTile va = true →
        WaitsFor i s .walks) ∧
      ∀ va, r = .ok (.far va) → (s.isDepot = true → s.accessesDone s.cur = true) → s.walkFull c s.myTile va = false →
        let x := s.farAt c s.myTile va ⟨false, true, !s.isDepot⟩
        let u := s.noteFar c s.myTile va
        let noted : State := if s.isDepot then u.forgetProbe (s.space c).1 va else u
        (∀ f, x = .bad f → exec i s = .next (raise f.cause (BitVec.ofNat 64 va) f.s2 true noted)) ∧
        (∀ pa k, x = .at_ pa k → k ≠ 1 →
          exec i s = .next (raise cPROT (BitVec.ofNat 64 va) false true noted)) ∧
        (∀ pa, x = .at_ pa 1 → 16 ≤ s.amoOutstanding s.cur →
          exec i s = .next (raise cDELTA_FULL ea false true noted)) ∧
        (∀ pa, x = .at_ pa 1 → s.amoOutstanding s.cur < 16 → s.isDepot = false →
          let h : HeldOp := .amo pa size op operand compare tag
          let y : Strand := { s.me with
            seq := s.me.seq + 1
            held := s.me.held.filter (fun p => decide (p.1 ≤ s.me.seq)) ++ (s.me.seq, h) :: s.me.held.filter fun p => decide (s.me.seq < p.1) }
          ((s.setMe y).fits c s.cur.vt s.me.stage = true → ∃ t, exec i s = .next t ∧ HeldFrame s t y s.mine [] 0) ∧
          ((s.setMe y).fits c s.cur.vt s.me.stage = false → exec i s = .next (raise cDELTA_FULL ea false true noted))) ∧
        (∀ pa, x = .at_ pa 1 → s.amoOutstanding s.cur < 16 → s.isDepot = true →
          ∃ t, exec i s = .next t ∧ t.atomics = s.atomics ++ [⟨s.cur, pa, size, op, operand, compare, tag, false⟩] ∧
            HeldFrame s { t with atomics := s.atomics, fabric := s.fabric } s.me s.mine [] 0))

/-! ### Copy commands, mailbox, fetch lists -/

/-- R178, R79: cpush and cpush.try read four registers as a command, check its format, and append it to the strand's FIFO
with the bytes it will write to other tiles of the stage pending; on a full FIFO cpush waits with the command as it judged it and cpush.try writes 1. R183, R86: xall checks its block size and its two regions, then queues the exchange of one block with every member of
the stage.
Where the spec leaves a point open this is the model's choice: assumptions 39 and 79. -/
def Obligations.CopyPush : Prop :=
  (∀ (s : State) (a : Reg) (c : CopyCmd), s.me.pushing = some c →
     let pend := s.pendingOf s.cur c
     let y : Strand := { s.me with fifo := s.me.fifo ++ [{ c with unsent := pend }], seq := s.me.seq + 1, pushing := none }
     let m : StageTile := { s.mine with pending := s.mine.pending + pend }
     (s.me.fifo.length < 8 → (bits c.w0 7 0 = 3 → ((s.setMine m).setMe y).fits s.cur.cor s.cur.vt s.me.stage = true) →
       ∃ t, exec (.cpush a) s = .next t ∧ HeldFrame s t y m [] 0) ∧
     (8 ≤ s.me.fifo.length → WaitsFor (.cpush a) s .fifo)) ∧
  (∀ (s : State) (d a : Reg), s.me.pushing = none →
     let w (n : BitVec 5) : Word := s.getS (a + n)
     let sound := ∀ n : BitVec 5, n < 4 → s.me.resOk (a + n) = true
     let both (f : Instr → Prop) : Prop := f (.cpush a) ∧ f (.cpushTry d a)
     let n := bits (w 0) 35 32
     let esize := 2 ^ bits (w 0) 39 36
     let cmd : CopyCmd := s.command (w 0) (w 1) (w 2) (w 3) []
     let shaped := formatOk (w 0) (w 2) (w 3) = true ∧ n = 0 ∧ (w 3).toNat ≤ 2 ^ 40 ∧ (w 3).toNat % esize = 0
     let pend := s.pendingOf s.cur cmd
     let y : Strand := { s.me with fifo := s.me.fifo ++ [{ cmd with unsent := pend }], seq := s.me.seq + 1 }
     let m : StageTile := { s.mine with pending := s.mine.pending + pend }
     (¬ sound → both fun i => Traps i s cRESIDUE 0 false) ∧
     (sound →
       (formatOk (w 0) (w 2) (w 3) = false → both fun i => Traps i s cCMD_FORMAT 0 false) ∧
       (formatOk (w 0) (w 2) (w 3) = true → n = 0 → 2 ^ 40 < (w 3).toNat ∨ (w 3).toNat % esize ≠ 0 →
         both fun i => Traps i s cCMD_FORMAT 0 false) ∧
       (shaped → ∀ k v, s.commandFault s.cur cmd = some (k, v) → both fun i => Traps i s k v false) ∧
       (shaped → s.commandFault s.cur cmd = none → s.me.fifo.length < 8 →
         (bits (w 0) 7 0 = 3 → ((s.setMine m).setMe y).fits s.cur.cor s.cur.vt s.me.stage = true) →
         (∃ t, exec (.cpush a) s = .next t ∧ HeldFrame s t y m [] 0) ∧
         ∃ t, exec (.cpushTry d a) s = .next t ∧ HeldFrame s t y m [.s d] 0 ∧ t.getS d = 0) ∧
       (shaped → s.commandFault s.cur cmd = none → 8 ≤ s.me.fifo.length →
         exec (.cpush a) s = .next (s.onMe fun x => { x with wait := .again .fifo, pushing := some cmd }) ∧
         Writes (.cpushTry d a) s d 1 0) ∧
       (formatOk (w 0) (w 2) (w 3) = true → n ≠ 0 → (w 3).toNat % 16 = 0 → (w 3).toNat < 0x200000 →
         s.inGrant s.cur.cor (w 3).toNat (16 * (n + 1)) = true →
         s.stagedAt s.cur.cor s.cur.vt s.me.stage (w 3).toNat (16 * (n + 1)) = .ready →
         s.unsound (w 3).toNat (16 * (n + 1)) = false → Tidy s →
         let dims := (List.range (n + 1)).map fun k => dimOf (s.readView ((w 3).toNat + 16 * k) 16)
         let cmd : CopyCmd := s.command (w 0) (w 1) (w 2) (w 3) dims
         let pend := s.pendingOf s.cur cmd
         let y : Strand := { s.me with fifo := s.me.fifo ++ [{ cmd with unsent := pend }], seq := s.me.seq + 1 }
         let m : StageTile := { s.mine with pending := s.mine.pending + pend }
         (2 ^ 40 < cmd.count → both fun i => Traps i s cCMD_FORMAT 0 false) ∧
         (cmd.count ≤ 2 ^ 40 → s.commandFault s.cur cmd = none → s.me.fifo.length < 8 →
           (∃ t, exec (.cpush a) s = .next t ∧ HeldFrame s t y m [] 0) ∧
           ∃ t, exec (.cpushTry d a) s = .next t ∧ HeldFrame s t y m [.s d] 0 ∧ t.getS d = 0)))) ∧
  (∀ (s : State) (o : R3), s.me.pushing = none →
     let b := (s.getS o.d).toNat
     let src := s.getS o.a
     let dst := s.getS o.b
     let p := (s.image.members s.me.stage).length
     let n := p * b
     let block := b % 64 = 0 ∧ 64 ≤ b ∧ b ≤ 65536
     let ranges := src.toNat < 2 ^ 21 ∧ dst.toNat < 2 ^ 21 ∧ src.toNat % 64 = 0 ∧ dst.toNat % 64 = 0 ∧
       s.inGrant s.cur.cor src.toNat n = true ∧ s.inGrant s.cur.cor dst.toNat n = true ∧ s.inCode s.cur.cor dst.toNat n = false
     (s.me.resOk o.a = false ∨ s.me.resOk o.b = false → Traps (.xall o) s cRESIDUE 0 false) ∧
     (s.me.resOk o.a = true → s.me.resOk o.b = true →
     (¬ block → Traps (.xall o) s cCMD_FORMAT 0 false) ∧
     (block → 2 ^ 21 ≤ src.toNat → Traps (.xall o) s cPROT src false) ∧
     (block → src.toNat < 2 ^ 21 → 2 ^ 21 ≤ dst.toNat → Traps (.xall o) s cPROT dst false) ∧
     (block → ranges → s.me.fifo.length < 8 →
       ∃ t c, exec (.xall o) s = .next t ∧ c.exchange = true ∧ c.w0 = s.getS o.d ∧ c.w1 = src ∧ c.w2 = dst ∧ c.done = false ∧
         c.seq = s.me.seq ∧ c.view = s.viewAll s.cur ∧
         HeldFrame s t { s.me with fifo := s.me.fifo ++ [c], seq := s.me.seq + 1 }
           { s.mine with pending := s.mine.pending + ((p - 1) * b : Nat) } [] 0) ∧
     (block → ranges → 8 ≤ s.me.fifo.length →
       ∃ c, c.exchange = true ∧ c.w0 = s.getS o.d ∧ c.w1 = src ∧ c.w2 = dst ∧
         exec (.xall o) s = .next (s.onMe fun x => { x with wait := .again .fifo, pushing := some c }))))

/-- R179, R180, R63: mbw counts the mailbox or parks the strand, mbp takes the oldest entry as two words or waits, and
mbp.try answers an empty mailbox with status 0xFF. R182, R71, R72: pfl and pfl.n put one entry on the fetch list under the lowest free index, which they write; with 64
entries they raise PFL_FULL; pfl.clr takes the strand's own entries off the list, and what a peer still answers for them is
dropped.
Where the spec leaves a point open this is the model's choice: assumption 39. -/
def Obligations.MailboxAndFetchLists : Prop :=
  (∀ (s : State) (d a : Reg),
     let n : Word := BitVec.ofNat 64 s.me.mailbox.length
     let head (m : MailEntry) : Word := (0 : BitVec 32) ++ m.source ++ m.status ++ m.tag
     let taken (m : MailEntry) (r : List MailEntry) : Strand :=
       { s.me with mailbox := r, popped := if m.source = 2 then s.me.popped ++ [m] else s.me.popped }
     let pair (i : Instr) (y : Strand) (w0 w1 : Word) : Prop :=
       ∃ t, exec i s = .next t ∧ OnlyMe s t ∧ Stepped s t ∧ Strand.Kept y t.me [.s d, .s (d + 1)] [] 0 ∧
         t.getS d = written d w0 ∧ t.getS (d + 1) = written (d + 1) w1
     (s.me.mailbox ≠ [] → Writes (.mbw d) s d n 0) ∧
     (s.me.mailbox = [] → exec (.mbw d) s = .next (s.onMe fun x => { x with wait := .mail d })) ∧
     (s.me.mailbox ≠ [] ∨ s.getS a = 0 → Writes (.mbwTo d a) s d n 0) ∧
     (s.me.mailbox = [] → s.getS a ≠ 0 →
       exec (.mbwTo d a) s = .next (s.onMe fun x => { x with wait := .mailTimed d (s.clock + (s.getS a).toNat) })) ∧
     (∀ m r, s.me.mailbox = m :: r →
       pair (.mbp d) (taken m r) (head m) m.payload ∧ pair (.mbpTry d) (taken m r) (head m) m.payload) ∧
     (s.me.mailbox = [] → exec (.mbp d) s = .next (s.onMe fun x => { x with wait := .again .mailbox }) ∧
       pair (.mbpTry d) s.me 0xFF0000 0)) ∧
  (∀ (s : State) (o : R3) (u : BitVec 5),
     let x := s.mine
     let va := s.getS o.a
     let dst := s.getS o.b
     let n := u.toNat + 1
     let used (k : Nat) : Prop := ∃ e ∈ x.fetch, e.index = k
     let units (k : Nat) (notify : Bool) : List FetchUnit := (List.range n).map fun j =>
       ⟨k, s.cur.slot, va.toNat % 2 ^ 48 + 4096 * j, dst.toNat % 2 ^ 21 + 4096 * j, j == 0, j + 1 == n, notify, va, .queued, [], false, s.clock, false⟩
     let acts (i : Instr) (notify : Bool) : Prop :=
       (s.me.resOk o.a = false ∨ s.me.resOk o.b = false → Traps i s cRESIDUE 0 false) ∧
       (s.me.resOk o.a = true → s.me.resOk o.b = true →
         (∀ c v, s.fetchFault va dst n = some (c, v) → Traps i s c v false) ∧
         (s.fetchFault va dst n = none → (∀ k, k < 64 → used k) → Traps i s cPFL_FULL 0 false) ∧
         (s.fetchFault va dst n = none → ∀ k, k < 64 → ¬ used k → (∀ j, j < k → used j) →
           ∃ t, exec i s = .next t ∧ t.getS o.d = written o.d (BitVec.ofNat 64 k) ∧
             HeldFrame s t s.me { x with fetch := x.fetch ++ units k notify } [.s o.d] 0))
     acts (.pfl o u) false ∧ acts (.pflN o u) true ∧
     ∃ t, exec .pflClr s = .next t ∧ Strand.Kept s.me t.me [] [] 0 ∧ Stepped s t ∧
       t.stageTile s.cur.cor s.cur.vt s.me.stage = { x with fetch := x.fetch.filter fun e => decide (e.slot ≠ s.cur.slot) } ∧
       (∀ id, id ≠ s.cur → t.strand id = s.strand id) ∧
       (∀ c vt st, (c, vt, st) ≠ (s.cur.cor, s.cur.vt, s.me.stage) → t.stageTile c vt st = s.stageTile c vt st) ∧
       (∀ d, { t.die d with directory := (s.die d).directory } = s.die d) ∧
       (∀ q ∈ t.fabric.open_, ∀ k, q.use = .staged s.cur.cor s.cur.vt s.me.stage k →
         ∀ e ∈ x.fetch, e.slot = s.cur.slot → e.key ≠ k) ∧
       { t.fabric with open_ := s.fabric.open_ } = s.fabric ∧
       { t with strands := s.strands, stageTiles := s.stageTiles, dies := s.dies, fabric := s.fabric } = s)

/-! ### Distributions -/

/-- R248: the constructors fill each enabled element from vector lanes, and the lineage option gives the header. -/
def Obligations.DistConstructors : Prop :=
  ∀ (s : State) (d : BitVec 4) (a b : Reg) (g m : BitVec 3) (lin : BitVec 5),
    let mask : BitVec 16 := if lin.toNat < 16 then BitVec.ofNat 16 (2 ^ lin.toNat) else 0
    let f (r : Reg) (n : Nat) : BitVec 32 := BitVec.ofNat 32 (lane (s.getV r) 32 n)
    let acts (i : Instr) (y : Nat → DElem × Flags) : Prop := Elementwise i s d m mask (decide (lin.toNat < 16)) false y
    let points (l : List (BitVec 32 × Nat)) : DElem := (DElem.ofList (l.map fun p => ⟨p.1, BitVec.ofNat 16 p.2⟩)).canonical
    acts (.dpt d a m lin) (fun e => (points [(f a e, 65535), (f a e, 0), (f a e, 0), (f a e, 0)], 0)) ∧
    acts (.dpte d g m lin) (fun e =>
      (points ((List.range 4).map fun q =>
        (if e < 4 then f (groupReg g 0) (4 * e + q) else f (groupReg g 1) (4 * (e - 4) + q),
          lane (s.getV (groupReg g 2)) 16 (4 * e + q))), 0)) ∧
    acts (.dpm d a b m lin) (fun e =>
      let mu := f32 (f a e)
      let sigma := f32 (f b e)
      let t := XR.mul (f32 0x3FDDB3D7) sigma.abs
      let tv := fl32 t.1
      let lo := XR.sum rmRNE [mu, (f32 tv.1).neg]
      let hi := XR.sum rmRNE [mu, f32 tv.1]
      if sigma.sign = true ∧ sigma.isZero = false then (.nan, flInvalid)
      else
        (points [((fl32 lo.1).1, 16384), (f a e, 65535), ((fl32 hi.1).1, 16384), ((fl32 hi.1).1, 0)],
          t.2 ||| tv.2 ||| (lo.2 ||| (fl32 lo.1).2) ||| (hi.2 ||| (fl32 hi.1).2)))

/-- R249, R250, R251, R254: two operands whose lineages share no source pair fully, those of one aligned lineage with equal
weights point by point, and all others fully with approx and FLG.depx set, or, with DSC.depx_trap, raise DEPX and write
nothing; a full pairing condenses its sixteen candidates.
Where the spec leaves a point open this is the model's choice: assumption 70. -/
def Obligations.DistArithmetic : Prop :=
  ∀ (s : State) (o : D3),
    let a := s.getD o.a
    let b := s.getD o.b
    let on (e : Nat) : Prop := e < 8 ∧ s.enabled o.m e = true
    let cmode := s.me.ctl.dsc.getLsbD 0
    let aligned := a.mask = b.mask ∧ a.align = true ∧ b.align = true ∧
      ∀ e, on e → ∀ q : Fin 4, ((a.elem e).get q).w = ((b.elem e).get q).w
    let pick (high : Bool) (x y : XR) : XR × Flags := if x.isNan || y.isNan then (.nan, 0) else (XR.pickMinMax high x y, 0)
    ∀ p ∈ [(Instr.dadd o, XR.add rmRNE), (.dsub o, XR.sub rmRNE), (.dmul o, XR.mul), (.ddiv o, XR.div),
        (.dmin o, pick false), (.dmax o, pick true)],
      let op (u v : DPoint) : BitVec 32 × Flags :=
        let r := p.2 (f32 u.val) (f32 v.val)
        ((fl32 r.1).1, r.2 ||| (fl32 r.1).2)
      let flags (l : List (Flags × Nat)) : Flags := ((l.filter fun x => x.2 != 0).map Prod.fst).foldl (· ||| ·) 0
      let full (e : Nat) : DElem × Flags :=
        let cs := (a.elem e).toList.flatMap fun u => (b.elem e).toList.map fun v => (op u v, u.w.toNat * v.w.toNat)
        (condense cmode (cs.map fun c => (c.1.1, c.2)), flags (cs.map fun c => (c.1.2, c.2)))
      let pointed (e : Nat) : DElem × Flags :=
        let ps := (List.finRange 4).map fun q => (op ((a.elem e).get q) ((b.elem e).get q), ((a.elem e).get q).w)
        ((DElem.ofList (ps.map fun x => ⟨x.1.1, x.2⟩)).canonical, flags (ps.map fun x => (x.1.2, x.2.toNat)))
      (a.mask &&& b.mask = 0 → Elementwise p.1 s o.d o.m (a.mask ||| b.mask) false (a.approx || b.approx) full) ∧
      (a.mask &&& b.mask ≠ 0 → aligned → Elementwise p.1 s o.d o.m a.mask true (a.approx || b.approx) pointed) ∧
      (a.mask &&& b.mask ≠ 0 → ¬ aligned →
        (s.me.ctl.dsc.getLsbD 1 = true → Traps p.1 s cDEPX 0 false) ∧
        (s.me.ctl.dsc.getLsbD 1 = false →
          ∃ t fl, exec p.1 s = .next t ∧ Frame s t [.d o.d] [] fl ∧ (t.getD o.d).mask = a.mask ||| b.mask ∧
            (t.getD o.d).align = false ∧ (t.getD o.d).approx = true ∧ fl &&& flDepx ≠ 0 ∧
            ∀ e, e < 8 → (t.getD o.d).elem e = if s.enabled o.m e = true then (full e).1 else (s.getD o.d).elem e))

/-- R252, R253, R135: condensation drops weights of 0, gives the canonical void and NaN elements and sorts the others, equal values
by their index.  WARD mode merges the neighbours of least cost, the lowest first, until four points are left, and renormalises their
weights against the largest; an element of infinities of both signs that merge is NaN.  QUANT mode gives each quarter of the mass
one point of weight 65535: the value its points share, their infinity, or their mean.
Where the spec leaves a point open this is the model's choice: assumptions 70 and 94. -/
def Obligations.Condensation : Prop :=
  ∀ (l : List Cand),
    let kept := l.filter fun p => p.2 != 0
    let nan := ∃ p ∈ kept, (f32 p.1).isNan = true
    let R (x : XR) : XR := f64 (fl64 x).1
    let nat (n : Nat) : XR := R (.fin false n 0)
    let cost (a b : Cand) : XR :=
      let d := if XR.eq (f32 a.1) (f32 b.1) = true then XR.zero false else R (XR.sub rmRNE (f32 a.1) (f32 b.1)).1
      R (XR.mul (R (XR.div (nat (a.2 * b.2)) (nat (a.2 + b.2))).1) (R (XR.mul d d).1)).1
    let merged (a b : Cand) : Option (BitVec 32) :=
      if XR.eq (f32 a.1) (f32 b.1) = true then some a.1
      else if (f32 a.1).isInf = true ∧ (f32 b.1).isInf = true then none
      else if (f32 a.1).isInf = true then some a.1
      else if (f32 b.1).isInf = true then some b.1
      else some (fl32 (R (XR.div (R (XR.add rmRNE (R (XR.mul (nat a.2) (f32 a.1)).1) (R (XR.mul (nat b.2) (f32 b.1)).1)).1)
        (nat (a.2 + b.2))).1)).1
    let cheapest (r : List Cand) (k : Nat) (a b : Cand) : Prop := r[k]? = some a ∧ r[k + 1]? = some b ∧
      ∀ (n : Nat) (x y : Cand), r[n]? = some x → r[n + 1]? = some y →
        XR.le (cost a b) (cost x y) = true ∧ (n < k → XR.le (cost x y) (cost a b) = false)
    let points (r : List Cand) : Prop := ∃ top, (∃ p ∈ r, p.2 = top) ∧ (∀ p ∈ r, p.2 ≤ top) ∧
      (∀ (n : Nat) (h : n < 4) (x : Cand), r[n]? = some x →
        let p := (condense false l).get ⟨n, h⟩
        p.val = x.1 ∧ 1 ≤ p.w.toNat ∧ 2 * (65535 * x.2) ≤ (2 * p.w.toNat + 1) * top ∧
          ((2 * p.w.toNat - 1) * top ≤ 2 * (65535 * x.2) ∨ p.w = 1)) ∧
      ∀ (n : Nat) (h : n < 4), r.length ≤ n → (condense false l).get ⟨n, h⟩ = ⟨(r.getLastD (0, 0)).1, 0⟩
    (∀ c, condense c l = condense c kept) ∧
    (kept = [] → ∀ c, condense c l = DElem.void) ∧
    (nan → ∀ c, condense c l = DElem.nan) ∧
    (kept ≠ [] → ¬ nan → ∃ r : List Cand, r.Perm kept ∧ (∀ v, (r.filter fun p => p.1 == v) = kept.filter fun p => p.1 == v) ∧
      (∀ (n : Nat) (x y : Cand), r[n]? = some x → r[n + 1]? = some y → before32 y.1 x.1 = false) ∧
      (∃ (ms : List (List Cand)) (last : List Cand), ms[0]? = some r ∧ ms.getLast? = some last ∧
        (∀ (n : Nat) (p q : List Cand), ms[n]? = some p → ms[n + 1]? = some q → 4 < p.length ∧ q.length + 1 = p.length ∧
          ∀ k a b, cheapest p k a b → ∃ v, merged a b = some v ∧ q = p.take k ++ (v, a.2 + b.2) :: p.drop (k + 2)) ∧
        ((last.length ≤ 4 ∧ points last) ∨
          (4 < last.length ∧ condense false l = DElem.nan ∧ ∀ k a b, cheapest last k a b → merged a b = none))) ∧
      let total := (r.map Prod.snd).sum
      let below (k : Nat) : Nat := ((r.take k).map Prod.snd).sum
      let share (b k : Nat) (x : Cand) : Nat := min (4 * (below k + x.2)) ((b + 1) * total) - max (4 * below k) (b * total)
      let part (b : Nat) : List Cand :=
        (List.range r.length).filterMap fun k => (r[k]?).bind fun x => if 0 < share b k x then some (x.1, share b k x) else none
      let value (b : Nat) (v : Option (BitVec 32)) : Prop :=
        ∃ p q, part b = p :: q ∧
          let same := ∀ x ∈ part b, XR.eq (f32 p.1) (f32 x.1) = true
          let pos := ∃ x ∈ part b, f32 x.1 = .inf false
          let neg := ∃ x ∈ part b, f32 x.1 = .inf true
          (same → v = some p.1) ∧ (¬ same → pos → neg → v = none) ∧
          (¬ same → pos → ¬ neg → ∃ x ∈ part b, f32 x.1 = .inf false ∧ v = some x.1) ∧
          (¬ same → ¬ pos → neg → ∃ x ∈ part b, f32 x.1 = .inf true ∧ v = some x.1) ∧
          (¬ same → ¬ pos → ¬ neg →
            v = some (fl32 (R (XR.div ((part b).foldl (fun s x => R (XR.add rmRNE s
              (R (XR.mul (R (.fin false x.2 (-2))) (f32 x.1)).1)).1) (XR.zero false)) (R (.fin false total (-2)))).1)).1)
      ∃ v : Nat → Option (BitVec 32), (∀ b, b < 4 → value b (v b)) ∧
        ((∃ b, b < 4 ∧ v b = none) → condense true l = DElem.nan) ∧
        ((∀ b, b < 4 → v b ≠ none) → ∀ b : Fin 4, (condense true l).get b = ⟨(v b).getD 0, 65535⟩))

/-- R255, R256, R261: dmix condenses the points of both operands, each weighted by the other's sum; dscl and dsht act on
every point and keep the header; dtgw and dmov copy elements, void and NaN ones in canonical form (R135); dtgr reads the
header.
Where the spec leaves a point open this is the model's choice: assumption 70. -/
def Obligations.DistCopies : Prop :=
  ∀ (s : State) (o : D3) (d a : BitVec 4) (b r : Reg) (m : BitVec 3) (lin : BitVec 5),
    let x := s.getD a
    let u := s.getD o.a
    let v := s.getD o.b
    let k := f32 ((s.getS b).extractLsb' 0 32)
    let mix (e : Nat) : DElem :=
      let wu := ((u.elem e).toList.map fun p => p.w.toNat).sum
      let wv := ((v.elem e).toList.map fun p => p.w.toNat).sum
      let void := wu = 0 ∨ wv = 0
      condense (s.me.ctl.dsc.getLsbD 0)
        (((u.elem e).toList.map fun p => (p.val, p.w.toNat * if void then 1 else wv)) ++
          (v.elem e).toList.map fun p => (p.val, p.w.toNat * if void then 1 else wu))
    let scaled (f : XR → XR → XR × Flags) (e : Nat) : DElem × Flags :=
      let ps := (x.elem e).toList.map fun p => (f (f32 p.val) k, p.w)
      ((DElem.ofList (ps.map fun p => ⟨(fl32 p.1.1).1, p.2⟩)).canonical,
        ((ps.filter fun p => p.2 != 0).map fun p => p.1.2 ||| (fl32 p.1.1).2).foldl (· ||| ·) 0)
    Elementwise (.dmix o) s o.d o.m (u.mask ||| v.mask) false (u.approx || v.approx) (fun e => (mix e, 0)) ∧
    Elementwise (.dscl d a b m) s d m x.mask x.align x.approx (scaled XR.mul) ∧
    Elementwise (.dsht d a b m) s d m x.mask x.align x.approx (scaled (XR.add rmRNE)) ∧
    Elementwise (.dtgw d a m lin) s d m (if lin.toNat < 16 then BitVec.ofNat 16 (2 ^ lin.toNat) else 0)
      (decide (lin.toNat < 16)) x.approx (fun e => ((x.elem e).canonical, 0)) ∧
    Elementwise (.dmov d a m) s d m x.mask x.align x.approx (fun e => ((x.elem e).canonical, 0)) ∧
    Writes (.dtgr r a) s r ((0 : BitVec 46) ++ (BitVec.ofBool x.approx ++ BitVec.ofBool x.align ++ x.mask)) 0

/-- R257, R258: dmom writes two lanes, dqnt and dcdf one lane for each enabled element; the support, the weights and the
cumulative weights are exact, and void and NaN elements and arguments out of range give the canonical NaN. -/
def Obligations.DistExtraction : Prop :=
  ∀ (s : State) (d : Reg) (a : BitVec 4) (b : Reg) (f : BitVec 2) (m : BitVec 3),
    let el (e : Nat) : DElem := (s.getD a).elem e
    let arg (e : Nat) : BitVec 32 := BitVec.ofNat 32 (lane (s.getV b) 32 e)
    let on (e : Nat) : Prop := e < 8 ∧ s.enabled m e = true
    let ofOne (i : Instr) (g : DElem → BitVec 32 → BitVec 32 × Flags) : Prop :=
      ∃ t fl, exec i s = .next t ∧ Frame s t [.v d] [] fl ∧
        (∀ e, e < 8 → lane (t.getV d) 32 e = if s.enabled m e = true then (g (el e) (arg e)).1.toNat else lane (s.getV d) 32 e) ∧
        (∀ n, 8 ≤ n → n < 16 → lane (t.getV d) 32 n = 0) ∧
        ∀ k : Nat, fl.getLsbD k = true ↔ ∃ e, on e ∧ (g (el e) (arg e)).2.getLsbD k = true
    (∃ t fl, exec (.dmom d a f m) s = .next t ∧ Frame s t [.v d] [] fl ∧
      (∀ e, e < 8 → s.enabled m e = true → lane (t.getV d) 32 (2 * e) = (moments f (el e)).1.toNat ∧
        lane (t.getV d) 32 (2 * e + 1) = (moments f (el e)).2.1.toNat) ∧
      (∀ n, n < 16 → s.enabled m (n / 2) = false → lane (t.getV d) 32 n = lane (s.getV d) 32 n) ∧
      ∀ k : Nat, fl.getLsbD k = true ↔ ∃ e, on e ∧ (moments f (el e)).2.2.getLsbD k = true) ∧
    ofOne (.dqnt d a b m) quantile ∧ ofOne (.dcdf d a b m) cumulative ∧
    ∀ (e : DElem) (x : BitVec 32),
      let void := e.points = []
      let total := (e.points.map fun p => p.w.toNat).sum
      let p := f32 x
      let inside := p.isNan = false ∧ XR.lt p (XR.zero false) = false ∧ XR.lt .one p = false
      let upTo (n : Nat) : XR := .fin false ((e.sorted.take n).map Prod.snd).sum 0
      (void ∨ e.isNan = true → (∀ g : BitVec 2, g ≠ 3 → moments g e = (nan32, nan32, 0)) ∧
        (inside → quantile e x = (nan32, 0)) ∧ (p.isNan = false → cumulative e x = (nan32, 0))) ∧
      (¬ inside → quantile e x = (nan32, flInvalid)) ∧ (p.isNan = true → cumulative e x = (nan32, flInvalid)) ∧
      (moments 3 e).1 = (fl32 (.fin false total 0)).1 ∧ (moments 3 e).2.1 = (fl32 (.fin false e.points.length 0)).1 ∧
      (¬ void → e.isNan = false →
        (∃ lo hi, moments 2 e = (lo, hi, 0) ∧ (∃ q ∈ e.points, q.val = lo) ∧ (∃ q ∈ e.points, q.val = hi) ∧
          ∀ q ∈ e.points, before32 q.val lo = false ∧ before32 hi q.val = false) ∧
        (inside → ∃ n c, e.sorted[n]? = some c ∧ quantile e x = (c.1, 0) ∧
          XR.le (XR.mul p (.fin false total 0)).1 (upTo (n + 1)) = true ∧
          ∀ k, k < n → XR.le (XR.mul p (.fin false total 0)).1 (upTo (k + 1)) = false) ∧
        (p.isNan = false →
          cumulative e x = fl32 (XR.div
            (.fin false ((e.points.filter fun q => XR.le (f32 q.val) p).map fun q => q.w.toNat).sum 0)
            (.fin false total 0)).1))

/-- R259, R260, R135: dld takes the enabled elements, in canonical form, and the header from a 256-byte image of the strand's view, dst writes them
there with the header and zeros after it; the bytes of elements not enabled are neither waited for nor touched. R262: a load or
store that touches marked staged bytes writes nothing, its base register included.
Where the spec leaves a point open this is the model's choice: assumption 94. -/
def Obligations.DistMemory : Prop :=
  ∀ (s : State) (l : DLdOp) (k : DStOp),
    let here (t : State) (a : Nat) : Byte := t.seen s.cur.cor s.cur.vt s.me.stage a
    let fine (m : BitVec 3) (off : Nat) (always : Nat → Bool) : Prop :=
      ∀ n, n < 256 → (always n = true ∨ n < 192 ∧ s.enabled m (n / 24) = true) →
        s.stagedAt s.cur.cor s.cur.vt s.me.stage (off + n) 1 = .ready
    let touched (n : Nat) : Bool := decide (192 ≤ n) || s.enabled k.m (n / 24)
    (∀ off, s.checkAddr (s.ea l.a l.off 256) (s.me.resOk l.a) onlyLocal 256 256 false = .ok (.loc off) →
      fine l.m off (fun n => decide (192 ≤ n ∧ n < 200)) → Tidy s →
      ∃ t v, exec (.dld l) s = .next t ∧
        LoadFrame s t (.d l.d :: if l.inc then [.s l.a] else []) (s.unsound off 256 = false) ∧
        (∀ e, e < 8 → v.elem e = if s.enabled l.m e = true then
          (bytesElem ((List.range 24).map fun j => here s (off + 24 * e + j))).canonical else (s.getD l.d).elem e) ∧
        (let h : Word := BitVec.ofNat 64 (ofLE ((List.range 8).map fun j => here s (off + 192 + j)))
         v.approx = h.getLsbD 17 ∧
         (if l.lin.toNat < 16 then v.mask = BitVec.ofNat 16 (2 ^ l.lin.toNat) ∧ v.align = true
          else v.mask = h.extractLsb' 0 16 ∧ v.align = h.getLsbD 16)) ∧
        (l.la = 0 → t.getD l.d = v) ∧ (l.la ≠ 0 → t.getD l.d = s.getD l.d ∧ t.me.windowOn l.la (.d l.d) (.d v) none true) ∧
        (l.inc = true → t.getS l.a = written l.a (s.getS l.a + 256))) ∧
    (∀ off, s.checkAddr (s.ea k.a k.off 256) (s.me.resOk k.a) onlyLocal 256 256 true = .ok (.loc off) →
      fine k.m off (fun n => decide (192 ≤ n)) →
      (s.isDepot = true ∨ s.room s.cur.cor s.cur.vt s.me.stage
        (newLines s.mine.loc (distinct (((List.range 256).filter touched).map fun n => (off + n) / 64))) = true) →
      Tidy s →
      ∃ t, exec (.dst k) s = .next t ∧ StoreFrame s t [] off 256 ∧
        (∀ n, n < 192 → here t (off + n) =
          if s.enabled k.m (n / 24) = true then (elemBytes ((s.getD k.s).elem (n / 24))).getD (n % 24) 0 else here s (off + n)) ∧
        (∀ n, n < 8 → here t (off + 192 + n) = (s.getD k.s).header.extractLsb' (8 * n) 8) ∧
        ∀ n, 200 ≤ n → n < 256 → here t (off + n) = 0) ∧
    (∀ off, s.checkAddr (s.ea l.a l.off 256) (s.me.resOk l.a) onlyLocal 256 256 false = .ok (.loc off) →
      (∃ n va, n < 200 ∧ (192 ≤ n ∨ s.enabled l.m (n / 24) = true) ∧
        s.stagedAt s.cur.cor s.cur.vt s.me.stage (off + n) 1 = .marked va) →
      ∃ va, Traps (.dld l) s cSTAGE_FAULT (BitVec.ofNat 64 va) false) ∧
    (∀ off, s.checkAddr (s.ea k.a k.off 256) (s.me.resOk k.a) onlyLocal 256 256 true = .ok (.loc off) →
      (∃ n va, n < 256 ∧ touched n = true ∧ s.stagedAt s.cur.cor s.cur.vt s.me.stage (off + n) 1 = .marked va) →
      ∃ va, Traps (.dst k) s cSTAGE_FAULT (BitVec.ofNat 64 va) true) ∧
    (∀ c, s.checkAddr (s.ea l.a l.off 256) (s.me.resOk l.a) onlyLocal 256 256 false = .bad c →
      Traps (.dld l) s c (if c = cRESIDUE then 0 else s.ea l.a l.off 256) false) ∧
    ∀ c, s.checkAddr (s.ea k.a k.off 256) (s.me.resOk k.a) onlyLocal 256 256 true = .bad c →
      Traps (.dst k) s c (if c = cRESIDUE then 0 else s.ea k.a k.off 256) true

/-! ### The matrix unit -/

/-- R229, R237, R242: mlease, mtry, mrel, arel and mwait complete: mlease where the strand holds the lease, or it is free and
nobody waits; mtry and mrel always; arel and mwait where the handle is NONE, or is held and no command of the strand on its
slot is left, and mwait of s0 where no command of the strand is left. R229, R230: mlease takes a free lease, or the strand's own anew, with its count, and else joins the waiting order; mtry
takes it or writes 1; mrel gives it up; mlease in a delay slot is illegal. R237, R242: arel frees the slot of a live handle once its commands are done and writes NONE; mwait waits for one slot's
commands, or with s0 for all of the strand's; NONE goes on at once and a dead handle raises MM_CONFIG. -/
def Obligations.LeaseAndSlots : Prop :=
  (∀ (s : State) (d h : Reg) (n : Int),
     let x := s.tile s.myTile
     let v := s.getS h
     let mine (t : State) : Prop := ∃ k, (t.tile s.myTile).lease = some (s.cur, k)
     let free := x.lease = none ∧ x.leaseQueue = []
     let left (q : Nat) : Prop := ∃ c ∈ x.queue ++ x.cmdRunning.toList, c.id = s.cur ∧ c.slot = q
     (s.me.slots = 0 → mine s → ∃ t, exec (.mlease n) s = .next t ∧ Stepped s t ∧ (t.tile s.myTile).lease = some (s.cur, n.toNat)) ∧
     (s.me.slots = 0 → free → ∃ t, exec (.mlease n) s = .next t ∧ Stepped s t ∧ (t.tile s.myTile).lease = some (s.cur, n.toNat)) ∧
     (∃ t, exec (.mtry d n) s = .next t ∧ Stepped s t ∧ (mine s ∨ free → t.getS d = 0 ∧ (t.tile s.myTile).lease = some (s.cur, n.toNat)) ∧
       (¬ (mine s ∨ free) → t.getS d = written d 1 ∧ t.tile s.myTile = x)) ∧
     (∃ t, exec .mrel s = .next t ∧ Stepped s t ∧ ¬ mine t) ∧
     (v = handleNone → (∃ t, exec (.arel h) s = .next t ∧ Stepped s t) ∧ (h ≠ 0 → ∃ t, exec (.mwait h) s = .next t ∧ Stepped s t)) ∧
     (∀ q, v ≠ handleNone → s.me.slotOf v = some q → ¬ left q →
       (∃ t, exec (.arel h) s = .next t ∧ Stepped s t ∧ t.getS h = written h handleNone ∧ (t.tile s.myTile).acc = KMap.erase x.acc q) ∧
       (h ≠ 0 → ∃ t, exec (.mwait h) s = .next t ∧ Stepped s t)) ∧
     ((∀ q, ¬ left q) → ∃ t, exec (.mwait 0) s = .next t ∧ Stepped s t)) ∧
  (∀ (s : State) (d : Reg) (n : Int),
     let x := s.tile s.myTile
     let mine := ∃ k, x.lease = some (s.cur, k)
     let free := x.lease = none ∧ x.leaseQueue = []
     let held : Tile := { x with lease := some (s.cur, n.toNat) }
     (s.me.slots ≠ 0 → Traps (.mlease n) s cILLEGAL 0 false) ∧
     (s.me.slots = 0 → mine ∨ free → ∃ t, exec (.mlease n) s = .next t ∧ TileFrame s t s.me held []) ∧
     (s.me.slots = 0 → ¬ mine → ¬ free →
       exec (.mlease n) s = .next
         ((s.setTile s.myTile { x with leaseQueue := x.leaseQueue ++ [(s.cur, n.toNat)] }).onMe
           fun y => { y with wait := .lease n.toNat })) ∧
     (mine ∨ free → ∃ t, exec (.mtry d n) s = .next t ∧ TileFrame s t s.me held [.s d] ∧ t.getS d = 0) ∧
     (¬ mine → ¬ free → Writes (.mtry d n) s d 1 0) ∧
     (mine → ∃ t, exec .mrel s = .next t ∧ TileFrame s t s.me { x with lease := none } []) ∧
     (¬ mine → JustSteps .mrel s)) ∧
  (∀ (s : State) (h : Reg),
     let v := s.getS h
     let x := s.tile s.myTile
     let idle := s.holds s.cur (.slotIdle v) = true
     let all := s.holds s.cur .matrixIdle = true
     (v = handleNone → JustSteps (.arel h) s ∧ (h ≠ 0 → JustSteps (.mwait h) s)) ∧
     (v ≠ handleNone → s.me.slotOf v = none →
       Traps (.arel h) s cMM_CONFIG 0 false ∧ (h ≠ 0 → Traps (.mwait h) s cMM_CONFIG 0 false)) ∧
     (∀ q, v ≠ handleNone → s.me.slotOf v = some q →
       (idle → (∃ t, exec (.arel h) s = .next t ∧ t.getS h = written h handleNone ∧
           TileFrame s t { s.me with handles := s.me.handles.filter fun p => p.2 != q } { x with acc := KMap.erase x.acc q } [.s h]) ∧
         (h ≠ 0 → JustSteps (.mwait h) s)) ∧
       (¬ idle → WaitsFor (.arel h) s (.slotIdle v) ∧ (h ≠ 0 → WaitsFor (.mwait h) s (.slotIdle v)))) ∧
     (all → JustSteps (.mwait 0) s) ∧ (¬ all → WaitsFor (.mwait 0) s .matrixIdle))

/-- R231, R232, R236, R237: a matrix instruction checks the residues it reads, the lease, its handle, its configuration and
its ranges, in this order, waits for a place in the queue, allocates a zero slot where its handle is NONE and queues one
command; a count that reaches 0 releases the lease.
Where the spec leaves a point open this is the model's choice: assumption 72. -/
def Obligations.MatrixIssue : Prop :=
  ∀ (s : State) (o : MmaOp) (h a : Reg),
    let x := s.tile s.myTile
    let mine := s.holdsLease s.cur = true
    let acts (i : Instr) (op : Nat) (rs : List Reg) (h : Reg) (ranges : Except (BitVec 8 × Word) (List (Nat × Nat)))
        (is : MCmd → Prop) : Prop :=
      let v := s.getS h
      let sound := ∀ r ∈ rs, s.me.resOk r = true
      let store := op = 1 ∨ op = 2
      let left := (x.lease.map fun l => l.2 - 1).getD 0
      let after (t : Tile) (c : MCmd) : Tile :=
        { t with queue := x.queue ++ [c], lease := if left = 0 then none else some (s.cur, left) }
      let this (c : MCmd) (q : Nat) : Prop := c.op = op ∧ c.id = s.cur ∧ c.slot = q ∧ c.tainted = false ∧ is c
      (¬ sound → Traps i s cRESIDUE 0 false) ∧
      (sound → ¬ mine → Traps i s cMM_CONFIG 0 false) ∧
      (sound → mine → (v = handleNone ∧ store) ∨ (v ≠ handleNone ∧ s.me.slotOf v = none) → Traps i s cMM_CONFIG 0 false) ∧
      (sound → mine → (v = handleNone → ¬ store) → (v ≠ handleNone → s.me.slotOf v ≠ none) →
        (∀ c e, ranges = .error (c, e) → Traps i s c e (c == cPROT && decide store)) ∧
        (∀ l, ranges = .ok l → 16 ≤ x.queue.length → WaitsFor i s .matrixQueue) ∧
        (∀ l q, ranges = .ok l → x.queue.length < 16 → s.me.slotOf v = some q →
          ∃ t c, exec i s = .next t ∧ this c q ∧ TileFrame s t s.me (after x c) []) ∧
        (∀ l q, ranges = .ok l → x.queue.length < 16 → s.me.slotOf v = none → x.freeSlot = some q →
          s.me.handles.length ≠ 8 →
          let n := s.me.nextSerial s.cur.slot
          let w : Word := BitVec.ofNat 64 (n.toNat + 256 * s.cur.slot)
          ∃ t c, exec i s = .next t ∧ this c q ∧ t.getS h = written h w ∧
            TileFrame s t { s.me with handles := s.me.handles ++ [(w, q)], serial := n + 1 }
              (after { x with acc := KMap.set x.acc q ⟨s.cur, []⟩ } c) [.s h]) ∧
        (∀ l, ranges = .ok l → x.queue.length < 16 → s.me.slotOf v = none → s.me.handles.length = 8 →
          Traps i s cACC_DEADLOCK 0 false) ∧
        (∀ l, ranges = .ok l → x.queue.length < 16 → s.me.slotOf v = none → x.freeSlot = none → s.me.handles.length ≠ 8 →
          (s.onMe fun y => { y with wait := .slot }).accDeadlock s.myTile = false →
          exec i s = .next (s.onMe fun y => { y with wait := .slot })))
    let ga := o.fn.getLsbD 0
    let gb := o.fn.getLsbD 1
    acts (.mmma o) 0 (o.h :: (if ga then [] else [o.a, o.a + 1]) ++ if gb then [] else [o.b, o.b + 1]) o.h (s.mmmaRanges o)
      (fun c => c.k = 16 * (o.k.toNat + 1) ∧
        (if ga then c.regA = some (s.me.groupBytes (o.a.setWidth 3)) else c.regA = none ∧ c.d0a = s.getS o.a ∧ c.d1a = s.getS (o.a + 1)) ∧
        (if gb then c.regB = some (s.me.groupBytes (o.b.setWidth 3)) else c.regB = none ∧ c.d0b = s.getS o.b ∧ c.d1b = s.getS (o.b + 1))) ∧
    acts (.ast h a) 1 [h, a, a + 1] h (s.moveRanges 1 a) (fun c => c.d0a = s.getS a ∧ c.d1a = s.getS (a + 1)) ∧
    acts (.astAdd h a) 2 [h, a, a + 1] h (s.moveRanges 2 a) (fun c => c.d0a = s.getS a ∧ c.d1a = s.getS (a + 1)) ∧
    acts (.ald h a) 3 [h, a, a + 1] h (s.moveRanges 3 a) (fun c => c.d0a = s.getS a ∧ c.d1a = s.getS (a + 1)) ∧
    acts (.azero h) 4 [h] h (.ok []) (fun _ => True)

/-- R230 to R233, R236, R239, R241: a free lease goes to the first waiter; the unit starts the head of its queue with what
its operands held when it issued (R48); a command ends by laying its results over its slot, or by writing them to the strand's view.
Where the spec leaves a point open this is the model's choice: assumption 36. -/
def Obligations.MatrixEvents : Prop :=
  ∀ (s : State) (p : Nat),
    let x := s.tile p
    (∀ id n r, x.lease = none → x.leaseQueue = (id, n) :: r → (s.strand id).wait = .lease n →
      let u := (s.setTile p { x with leaseQueue := r }).setLease id n
      exec (.leaseGrant p) s = .next ((retire { u with cur := id }).afterStep id)) ∧
    (∀ id i e, (s.strand id).wait = .slot → (s.strand id).status = .running →
      (s.tile (s.phys id.cor id.vt)).freeSlot.isSome = true → ({ s with cur := id } : State).fetched = .run i →
      allocating i { s with cur := id } = some e → exec (.slotAllocate id) s = .next (e.finish.afterStep id)) ∧
    (∀ c r, x.cmdRunning = none → x.queue = c :: r →
      (isDepotId c.id = true ∨
        (∀ q ∈ c.ranges.1, q.2 ≠ 0 ∧ s.stagedAt c.id.cor c.id.vt (s.strand c.id).stage q.1 q.2 = .ready) ∧
        ∀ q ∈ c.reads, poisoned x.poison q.1 q.2 = false) →
      let ctl := (s.strand c.id).ctl
      let y := c.compute ctl c.view (KMap.getD x.acc c.slot ⟨c.id, []⟩)
      exec (.matrixCommandRun p) s = .next (s.setTile p
        { x with queue := r, cmdRunning := some { c with ctl, result := y.1, flags := y.2 } })) ∧
    (∀ c a, x.cmdRunning = some c → c.tainted = false → c.op ≠ 1 → c.op ≠ 2 → KMap.get? x.acc c.slot = some a →
      ∃ t b, exec (.matrixCommandDone p) s = .next t ∧ (t.tile p).cmdRunning = none ∧
        KMap.get? (t.tile p).acc c.slot = some b ∧ b.owner = a.owner ∧
        (c.op = 4 → b.vals = []) ∧
        (c.op ≠ 4 → ∀ n, KMap.getD b.vals n 0 = (KMap.get? c.result n).getD (KMap.getD a.vals n 0)) ∧
        (t.strand c.id).ctl = { (s.strand c.id).ctl with flg := (s.strand c.id).ctl.flg ||| c.flags.setWidth 64 } ∧
        (∀ id, id ≠ c.id → t.strand id = s.strand id) ∧ (∀ q, q ≠ p → t.tile q = s.tile q) ∧
        { t with strands := s.strands, tiles := s.tiles } = s) ∧
    (∀ c u, x.cmdRunning = some c → c.tainted = false → c.op = 1 ∨ c.op = 2 →
      (s.setTile p { x with cmdRunning := none }).commandWrites c.id c.result = some u →
      exec (.matrixCommandDone p) s = .next (u.onStrand c.id fun y => y.addFlags c.flags)) ∧
    (x.cmdRunning = none → exec (.matrixCommandDone p) s = .next s)

/-- R130, R239: on integer operands every value of C takes the sum of its products, wrapped into 32 bits. -/
def Obligations.MatrixIntegers : Prop :=
  ∀ (c : Ctl) (m : Mem) (x : MCmd) (old : AccSlot) (fa fb : IFmt),
    mmPair c = some (.int fa, .int fb) → x.k % 4 = 0 →
    let A := operandAt c m x.regA x.d0a x.d1a (fa.width / 4)
    let B := operandAt c m x.regB x.d0b x.d1b (fb.width / 4)
    ∀ i j, i < A.1 → j < B.1 →
      let v : BitVec 32 := KMap.getD old.vals (128 * i + j) 0
      let sum : Int := ((List.range x.k).map fun k => fa.read (A.2 i k) * fb.read (B.2 j k)).sum
      (128 * i + j, BitVec.ofInt 32 (v.toInt + sum)) ∈ (mmmaResult c m x old).1

/-! ### The solver sequencer -/

/-- R263, R264, R266, R270, R271: qcfg takes a legal block and resets every slot; qres and qset change the slots they name,
qset starting a sample at (t, t_end, h), done where it starts at its end, failed below h_min; every instruction needs the
context unbound or bound to its own stage.
Where the spec leaves a point open this is the model's choice: assumptions 39 and 94. -/
def Obligations.SequencerSetup : Prop :=
  ∀ (s : State) (a : Reg) (o : R3),
    let ctx := s.seqCtx
    let b := ctx.block
    let ready := s.seqBound = true ∧ ctx.configured = true
    let fits := s.me.resOk o.d = true ∧ s.me.resOk o.a = true ∧ s.me.resOk o.b = true
    let n := (s.getS o.d).toNat % 32
    let t0 : BitVec 32 := (s.getS o.a).extractLsb' 0 32
    let te : BitVec 32 := (s.getS o.a).extractLsb' 32 32
    let h : BitVec 32 := (s.getS o.b).extractLsb' 0 32
    let legal := n < cfgSamples b ∧ notFinite t0 = false ∧ notFinite te = false ∧ notFinite h = false ∧
      XR.lt (XR.zero false) (f32 h) = true ∧ XR.lt (f32 te) (f32 t0) = false
    let start (hh : BitVec 32) (status : BitVec 32) : SeqSlot := { SeqSlot.reset with t := t0, tEnd := te, h := hh, status }
    let rem := (fl32 (XR.sum rmRNE [f32 te, (f32 t0).neg]).1).1
    (s.me.resOk a = true → s.seqBound = false → Traps (.qcfg a) s cSEQ_CONFIG 0 false) ∧
    (∀ off, s.me.resOk a = true → s.seqBound = true →
      s.checkAddr (s.getS a) true onlyLocal 64 512 false = .ok (.loc off) →
      s.stagedAt s.cur.cor s.cur.vt s.me.stage off 512 = .ready →
      let u := s.noteRead s.cur.cor s.cur.vt s.me.stage off 512
      let bs := s.readView off 512
      (cfgLegal bs = false → exec (.qcfg a) s = .next (raise cSEQ_CONFIG 0 false false u)) ∧
      (∀ r, cfgLegal bs = true → u.regionFault bs = some r →
        exec (.qcfg a) s = .next (raise cPROT (BitVec.ofNat 64 r) false false u)) ∧
      (cfgLegal bs = true → u.regionFault bs = none →
        ∃ t, exec (.qcfg a) s = .next t ∧ SeqFrame u t ⟨some s.me.stage, true, bs, Vector.replicate 32 SeqSlot.reset⟩)) ∧
    (s.me.resOk a = true → ready →
      ∃ t x, exec (.qres a) s = .next t ∧ SeqFrame s t x ∧ x.bound = ctx.bound ∧ x.configured = true ∧ x.block = b ∧
        ∀ k, k < 32 → x.slot k = if k < cfgSamples b ∧ (s.getS a).getLsbD k = true then SeqSlot.reset else ctx.slot k) ∧
    (s.me.resOk a = true → ¬ ready → Traps (.qres a) s cSEQ_CONFIG 0 false) ∧
    (fits → ready → ¬ legal → Traps (.qset o) s cSEQ_CONFIG 0 false) ∧
    (fits → ready → legal →
      ∃ t x, exec (.qset o) s = .next t ∧ SeqFrame s t x ∧ x.bound = ctx.bound ∧ x.configured = true ∧ x.block = b ∧
        (∀ k, k < 32 → k ≠ n → x.slot k = ctx.slot k) ∧
        x.slot n =
          if XR.cmp (f32 t0) (f32 te) = some 0 then start h 2
          else if XR.lt (f32 h) (f32 (cfgF b 0x5C)) = true then start h 3
          else if XR.le (f32 rem) (f32 h) = true then start rem 9 else start h 1)

/-- R272 to R274, R276, R278: the sequencer's working instructions complete where the bytes they read and write have landed
and find their verge entries; they write the stage inputs, the new states, the accepted states and the slots' images in
ascending order of samples, and qtm writes times and fields to a vector register.
Where the spec leaves a point open this is the model's choice: assumptions 17 and 39. -/
def Obligations.SequencerWork : Prop :=
  ∀ (s : State) (i : BitVec 3) (d a m : Reg) (g : BitVec 3) (la : BitVec 4) (f : BitVec 2),
    let ctx := s.seqCtx
    let b := ctx.block
    let n := cfgBytes b
    let ready := s.seqBound = true ∧ ctx.configured = true
    let staged (rs : List (Nat × Nat)) : Prop := ∀ r ∈ rs, s.stagedAt s.cur.cor s.cur.vt s.me.stage r.1 r.2 = .ready
    let lay (t : State) (ws : List (Nat × List Byte)) : State := ws.foldl (fun t w => t.writeView w.1 w.2) t
    let roomy (t : State) (ws : List (Nat × List Byte)) : Prop :=
      ∀ pre w post, ws = pre ++ w :: post → (lay t pre).localRoom w.1 w.2.length = true
    let act (r : Reg) := s.activeSamples b (s.getS r)
    let k := (s.getS a).toNat % 32
    let inputs := (act a).flatMap fun q => (cfgX b q, n) :: (List.range i.toNat).map fun j => (cfgK b j q, n)
    let states := (act a).flatMap fun q => (cfgX b q, n) :: (List.range (cfgStages b)).map fun j => (cfgK b j q, n)
    (s.me.resOk a = true → ready → cfgStages b ≤ i.toNat → Traps (.qstg i a) s cSEQ_CONFIG 0 false) ∧
    (s.me.resOk a = true → ready → i.toNat < cfgStages b → staged inputs → staged ((act a).map fun q => (cfgIn b q, n)) →
      let u := s.noteRanges inputs
      let ws := (act a).map fun q => (cfgIn b q, encElems b (u.stageInput b i.toNat q))
      roomy u ws → exec (.qstg i a) s = .next (retire (lay u ws))) ∧
    (s.me.resOk a = true → ready → cfgSamples b ≤ k → Traps (.qtm d a f) s cSEQ_CONFIG 0 false) ∧
    (s.me.resOk a = true → ready → k < cfgSamples b →
      ∃ l, WritesV (.qtm d a f) s d l 0 ∧ ∀ j, j < 16 →
        let x := ctx.slot k
        let y := ctx.slot (k / 16 * 16 + j)
        BitVec.ofNat 32 (lane l 32 j) =
          if f = 0 then (if j < cfgStages b then add32 x.t (mul32 (cfgC b j) x.h) else 0)
          else if f = 1 then y.t else if f = 2 then y.h else y.status) ∧
    (s.me.resOk a = true → ready → staged states → staged ((act a).map fun q => (cfgXn b q, n)) →
      let u := s.noteRanges states
      let fin (q : Nat) := u.finishSample b q
      let ws := (act a).map fun q => (cfgXn b q, (fin q).1)
      let lanes := (List.range 32).map fun q => if q ∈ act a then (fin q).2.1 else 0
      let ds := (List.range 4).map fun j => (Dest.v (groupReg g j), WinVal.v (lineOf ((lanes.drop (8 * j)).take 8)))
      let fl := ((act a).map fun q => (fin q).2.2).foldl (· ||| ·) 0
      roomy u ws → exec (.qfin g a la) s = .next (retire (((lay u ws).addFlags fl).open_ la ds none true))) ∧
    (s.me.resOk m = true → ready →
      let dec (q : Nat) := decideSample b (ctx.slot q) ((s.me.groupLanes g).getD q 0)
      let acc := (act m).filter fun q => (dec q).1
      let rs := acc.map fun q => (cfgXn b q, n)
      let u := s.noteRanges rs
      let ws := acc.map fun q => (cfgX b q, u.readView (cfgXn b q) n)
      staged rs → staged (acc.map fun q => (cfgX b q, n)) → roomy u ws →
      ∃ t, exec (.qdec d g m) s = .next t ∧ t.getS d = written d (BitVec.ofNat 64 ((acc.map fun q => 2 ^ q).sum)) ∧
        Strand.Kept s.me.untaint t.me.untaint [.s d] [] 0 ∧ SteppedIn t s t ∧ t.free = s.free ∧
        (∀ q, q < 32 → t.seqCtx.slot q = if q ∈ act m then (dec q).2 else ctx.slot q) ∧
        ∀ c vt st x, t.seen c vt st x = (lay u ws).seen c vt st x) ∧
    (s.me.resOk a = true → s.me.resOk m = true → ready →
      let off := (s.getS a).toNat
      let smps := (List.range (cfgSamples b)).filter fun q => (s.getS m).getLsbD q
      let ws := smps.map fun q => (off + 32 * q, (ctx.slot q).bytes)
      off < 2 ^ 21 → off % 32 = 0 →
      (∀ q ∈ smps, s.inGrant s.cur.cor (off + 32 * q) 32 = true ∧ s.inCode s.cur.cor (off + 32 * q) 32 = false) →
      staged (smps.map fun q => (off + 32 * q, 32)) → roomy s ws → exec (.qst a m) s = .next (retire (lay s ws)))

/-- R276: a sample is accepted where its error is at most 1; it then moves on to t + h, or exactly to t_end on a clipped
step, and counts a step, and otherwise counts a rejection; it is done where t reaches t_end, fails below h_min, and a step
that reaches the end is clipped to it.
Where the spec leaves a point open this is the model's choice: assumption 17. -/
def Obligations.SequencerDecision : Prop :=
  ∀ (b : List Byte) (x : SeqSlot) (n : Word),
    let err := errorNorm b n
    let r := decideSample b x n
    let y := r.2
    let clip := x.status.getLsbD 3
    let t := if r.1 = true then (if clip = true then x.tEnd else add32 x.t x.h) else x.t
    let hn := nextStep b x err r.1
    let rem := sub32 x.tEnd t
    (r.1 = true ↔ XR.le (f32 err) (f32 0x3F800000) = true) ∧
    y.tEnd = x.tEnd ∧ y.err = err ∧
    (r.1 = true → y.rejects = x.rejects ∧ y.steps = (if x.steps = BitVec.allOnes 32 then x.steps else x.steps + 1) ∧
      y.errPrev = if XR.lt (f32 err) (f32 0x38800000) = true then 0x38800000 else err) ∧
    (r.1 = false → y.steps = x.steps ∧ y.errPrev = x.errPrev ∧
      y.rejects = if x.rejects = BitVec.allOnes 32 then x.rejects else x.rejects + 1) ∧
    y.status.getLsbD 2 = (r.1 || x.status.getLsbD 2) ∧ y.status.getLsbD 4 = r.1 ∧
    (if XR.le (f32 x.tEnd) (f32 t) = true then y.phase = 2 ∧ y.t = x.tEnd ∧ y.h = hn
     else y.t = t ∧
      (if XR.lt (f32 hn) (f32 (cfgF b 0x5C)) = true then y.phase = 3 ∧ y.h = hn
       else y.phase = 1 ∧ y.status.getLsbD 3 = XR.le (f32 rem) (f32 hn) ∧
        y.h = if XR.le (f32 rem) (f32 hn) = true then rem else hn)) ∧
    (cfgU b 2 1 ≠ 0 → r.1 = false → hn = mul32 x.h 0x3F000000) ∧
    (cfgU b 2 1 ≠ 0 → r.1 = true →
      hn = if XR.le (f32 err) (.fin false 1 (-(cfgU b 1 1 : Int) - 1)) = true then mul32 0x40000000 x.h else x.h)

/-! ### Barriers, votes, control registers, privileged instructions -/

/-- R284, R287, R289, R156: a barrier instruction of a corridor strand ends its windows, checks the residues that its liveness
entry saves and that no accumulator slot is held, gives up the lease and begins to arrive; in a delay slot, a body or a
depot strand it is illegal; it waits for data that has not landed.
Where the spec leaves a point open this is the model's choice: assumption 71. -/
def Obligations.BarrierArrivals : Prop :=
  ∀ (s : State) (g : BitVec 3) (op : BitVec 5),
    let c := s.cur.cor
    let st := s.me.stage
    let u := s.me.endWindows
    let live := s.image.liveAt u.pc0.toNat
    let saved := ∀ n, n < 32 → Live.s live n = true → u.resOk (BitVec.ofNat 5 n) = true
    let legal := s.me.slots = 0 ∧ s.me.rep = none ∧ s.isDepot = false
    let landed := ∀ w ∈ s.me.windows, w.landed = true
    ∀ p ∈ [(Instr.bar, BarKind.bar, (0 : BitVec 5), (0 : BitVec 3), []), (.barRed g op, .red, op, g, u.groupLanes g),
        (.barEnd, .fin, 0, 0, []), (.barEndr g op, .finRed, op, g, u.groupLanes g)],
      let a : Arrival := ⟨p.2.1, s.me.pc0, p.2.2.1, p.2.2.2.1, p.2.2.2.2, chainWord (s.chainAt s.cur s.me.pc0)⟩
      (¬ legal → Traps p.1 s cILLEGAL 0 false) ∧
      (legal → ¬ landed → WaitsFor p.1 s .windows) ∧
      (legal → landed → ¬ saved → exec p.1 s = .next (raise cRESIDUE 0 false false (s.setMe u))) ∧
      (legal → landed → saved → s.me.handles ≠ [] → exec p.1 s = .next (raise cACC_LIVE 0 false false (s.setMe u))) ∧
      (legal → landed → saved → s.me.handles = [] →
        ∃ t, exec p.1 s = .next t ∧ t.me = { u with status := .arriving, arrival := some a, wait := .none } ∧
          t.stage c st = { s.stage c st with horizonAt := s.clock + 1024 } ∧
          t.tile s.myTile = (if s.holdsLease s.cur = true then { s.tile s.myTile with lease := none } else s.tile s.myTile) ∧
          (∀ id, id ≠ s.cur → t.strand id = s.strand id) ∧ (∀ q, q ≠ s.myTile → t.tile q = s.tile q) ∧
          (∀ x y, (x, y) ≠ (c, st) → t.stage x y = s.stage x y) ∧
          { t with strands := s.strands, tiles := s.tiles, stages := s.stages } = s)

/-- R291 to R295, R298, R299: trap raises VOTE, vote keeps its cause for the junction, bwait goes on once the stage it names
has delivered the commit, or has ended with every delivery of its last commit landed, fence does nothing in a corridor's
strand and in a depot strand waits for the accesses that it orders, ebrk halts the corridor where its launch allows
debugging, and yld lets the tile's other strands go first that are ready at the end of its step.
Where the spec leaves a point open this is the model's choice: assumption 71. -/
def Obligations.StrandControl : Prop :=
  ∀ (s : State) (code : BitVec 11) (a b : Reg) (mask : BitVec 5) (kind : BitVec 2),
    let c := s.cur.cor
    let st := (s.getS a).toNat
    let m := (s.getS b).toNat
    let sound := s.me.resOk a = true ∧ s.me.resOk b = true
    Traps (.trap code) s cVOTE 0 false ∧
    (s.isDepot = true → Traps .vote s cILLEGAL 0 false ∧ Traps (.bwait a b) s cILLEGAL 0 false) ∧
    (s.isDepot = false →
      (∃ t v, exec .vote s = .next t ∧ OnlyMe s t ∧ Stepped s t ∧ Strand.Kept { s.me with voted := some v } t.me [] [] 0 ∧
        (∀ w, s.me.voted = some w → v = w) ∧
        (s.me.voted = none → v.cause = cVOTE ∧ v.vt = s.cur.vt ∧ v.slot = s.cur.slot ∧ v.tileKind = false ∧
          v.pc0 = s.me.pc0 ∧ v.pc1 = s.me.pc1 ∧ v.pc2 = s.me.pc2 ∧ v.annul = s.me.annul)) ∧
      (¬ sound → Traps (.bwait a b) s cRESIDUE 0 false) ∧
      (sound →
        (16 ≤ st ∨ s.image.stages ≤ st → Traps (.bwait a b) s cILLEGAL 0 false) ∧
        (st < 16 → st < s.image.stages → st = s.me.stage →
          (m ≤ (s.stage c st).mm.toNat → JustSteps (.bwait a b) s) ∧
          ((s.stage c st).mm.toNat < m → Traps (.bwait a b) s cILLEGAL 0 false)) ∧
        (st < 16 → st < s.image.stages → st ≠ s.me.stage →
          let mark := s.deliveredMark c s.cur.vt st
          let done := m ≤ mark.toNat ∨ (s.stage c st).ended = true ∧ mark = (s.stage c st).mm
          (done → JustSteps (.bwait a b) s) ∧
          (¬ done →
            exec (.bwait a b) s = .next (s.onMe fun x => { x with wait := .stage st (s.getS b) }))))) ∧
    (kind = 3 → Traps (.fence mask kind) s cILLEGAL 0 false) ∧
    (kind ≠ 3 →
      let i := Instr.fence mask kind
      let orders := s.isDepot = true ∧ mask ≠ 0
      let engines := mask.getLsbD 2 = true ∨ mask.getLsbD 3 = true
      let loads := kind = 2 → s.me.allLanded = true
      let stores := kind ≠ 2 → s.holds s.cur .stored = true
      let copies := engines → s.holds s.cur .fenced = true
      let commands := engines → s.holds s.cur .matrixStarted = true
      (orders → ¬ loads → WaitsFor i s .windows) ∧
      (orders → ¬ stores → WaitsFor i s .stored) ∧
      (orders → loads → stores → ¬ copies → WaitsFor i s .fenced) ∧
      (orders → loads → stores → copies → ¬ commands → WaitsFor i s .matrixStarted) ∧
      (¬ orders → JustSteps i s) ∧
      (loads → stores → copies → commands → JustSteps i s)) ∧
    (s.me.rep ≠ none → Traps (.ebrk code) s cILLEGAL 0 false) ∧
    (s.me.rep = none →
      let debug := s.isDepot = false ∧ (s.cor c).debug = true
      (¬ debug → JustSteps (.ebrk code) s) ∧
      (debug → s.me.allLanded = false → WaitsFor (.ebrk code) s .windows) ∧
      (debug → s.me.allLanded = true →
        ∃ t, exec (.ebrk code) s = .next t ∧ t.me.status = .halted ∧ t.me.pc0 = s.me.pc1 ∧ t.me.pc1 = s.me.pc2 ∧
          t.me.haltCode = some (chainWord (s.chainAt s.cur s.me.pc0)) ∧ (t.cor c).haltedBy = true)) ∧
    ∃ t, exec .yld s = .next t ∧ Frame s t [] [] 0 ∧ t.me.wait = .yield [0, 1, 2, 3] ∧
      ∃ l, (t.settleYields (some s.cur)).me.wait = .yield l ∧
        ∀ q, q ∈ l ↔ q < 4 ∧ (q = t.physSlot s.cur ∨ ∃ id, t.strandAt t.myTile q = some id ∧ t.ready id = true)

/-- R107 to R110, R296, R297: csrr reads a control register; csrw, csrs and csrc also change its writable bits; reserved
numbers and writes of read-only registers are illegal, the depot's registers are privileged; FLG waits for windows and
commands, the format registers for commands not yet started; BANK_WAIT has grown by a free amount (assumption 13); a register to
which no value is given reads as a free value (assumption 2).
Where the spec leaves a point open this is the model's choice: assumptions 13 and 31. -/
def Obligations.ControlRegisters : Prop :=
  ∀ (s : State) (d a : Reg) (n : BitVec 8),
    let k := n.toNat
    let wrs (w : Word) : List (Instr × (Word → Word)) := [(.csrw d a n, fun _ => w), (.csrs d a n, fun old => old ||| w),
      (.csrc d a n, fun old => old &&& ~~~w)]
    let put (m old new : Word) : Word := (old &&& ~~~m) ||| (new &&& m)
    let priv := (48 ≤ k ∧ k < 64) ∨ 80 ≤ k
    let absent := k ∈ [5, 6, 7, 14, 15] ∨ (17 ≤ k ∧ k < 24) ∨ (25 ≤ k ∧ k < 32) ∨ (34 ≤ k ∧ k < 48)
    let readOnly := k < 5 ∨ k = 0x18 ∨ k = 0x20 ∨ k = 0x21 ∨ (0x40 ≤ k ∧ k < 0x50)
    let inCtl : List (Nat × Word × (Ctl → Word) × (Ctl → Word → Ctl)) :=
      [(0x09, 0xF, fun c => c.vfc, fun c x => { c with vfc := x }),
       (0x0A, 0xFFFFFFFF00001FFF, fun c => c.mfc0, fun c x => { c with mfc0 := x }),
       (0x0B, 0x1FFFFF, fun c => c.mfc1, fun c x => { c with mfc1 := x }),
       (0x0C, 0x1FFFFF, fun c => c.mfc2, fun c x => { c with mfc2 := x }),
       (0x0D, 3, fun c => c.mfc3, fun c x => { c with mfc3 := x }),
       (0x10, 3, fun c => c.dsc, fun c x => { c with dsc := x })]
    let inDepot : List (Nat × (DepotRegs → Word) × (DepotRegs → Word → DepotRegs)) :=
      [(0x30, fun r => r.epq, fun r x => { r with epq := put 0x7FFFFFFFFFFFFFFF r.epq x }),
       (0x31, fun r => r.est, fun r x => { r with est := put 0x7FF r.est x }),
       (0x32, fun r => r.ead, fun r x => { r with ead := x }),
       (0x33, fun r => r.evt, fun r x => { r with evt := r.evt &&& ~~~x }),
       (0x34, fun r => r.evb, fun r x => { r with evb := put 0x1FFFFF r.evb x }),
       (0x35, fun r => r.dtm, fun r x => { r with dtm := x })]
    let steps (i : Instr) (y : Strand) (v : Word) : Prop :=
      ∃ t, exec i s = .next t ∧ OnlyMe s t ∧ Stepped s t ∧ Strand.Kept y t.me [.s d] [] 0 ∧ t.getS d = written d v
    (priv → s.isDepot = false → (Traps (.csrr d n) s cPRIV 0 false) ∧ ∀ p ∈ wrs 0, Traps p.1 s cPRIV 0 false) ∧
    (absent → Traps (.csrr d n) s cILLEGAL 0 false ∧ ∀ p ∈ wrs 0, Traps p.1 s cILLEGAL 0 false) ∧
    (readOnly → ∀ p ∈ wrs 0, Traps p.1 s cILLEGAL 0 false) ∧
    (¬ priv → ¬ absent → ¬ readOnly → s.me.resOk a = false → ∀ p ∈ wrs 0, Traps p.1 s cRESIDUE 0 false) ∧
    (s.isDepot = false →
      (k = 0 → Writes (.csrr d n) s d (BitVec.ofNat 64 (s.cur.vt % 2 ^ 16 + s.cur.slot % 4 * 2 ^ 16 + s.me.stage % 16 * 2 ^ 18)) 0) ∧
      (k = 1 → Writes (.csrr d n) s d (BitVec.ofNat 64 (s.cur.cor % 2 ^ 32)) 0) ∧
      (k = 2 → Writes (.csrr d n) s d s.lco 0) ∧
      (k = 3 → Writes (.csrr d n) s d (s.stage s.cur.cor s.me.stage).mm 0) ∧
      (k = 4 → Writes (.csrr d n) s d s.bgs 0) ∧
      (k = 0x18 → Writes (.csrr d n) s d s.seqCtx.qsc 0) ∧
      (k = 0x20 → Writes (.csrr d n) s d (s.cor s.cur.cor).cyc 0) ∧
      (k = 0x21 → Writes (.csrr d n) s d ((s.stage s.cur.cor s.me.stage).agn.setWidth 64) 0)) ∧
    (0x40 ≤ k → k < 0x50 → k ≠ 0x47 → Writes (.csrr d n) s d ((s.die (s.myTile / 144)).counters.toList.getD (k - 0x40) 0) 0) ∧
    (∀ r ∈ inCtl, k = r.1 →
      Writes (.csrr d n) s d (r.2.2.1 s.me.ctl) 0 ∧
      (s.me.resOk a = true → ∀ p ∈ wrs (s.getS a),
        (k ≠ 0x10 → s.holds s.cur .matrixStarted = false → WaitsFor p.1 s .matrixStarted) ∧
        (k = 0x10 ∨ s.holds s.cur .matrixStarted = true →
          let old := r.2.2.1 s.me.ctl
          steps p.1 { s.me with ctl := r.2.2.2 s.me.ctl (put r.2.1 old (p.2 old)) } old))) ∧
    (k = 8 →
      let f : Ctl → Word := fun c => c.flg
      let y := s.me.endWindows
      ∀ p ∈ (Instr.csrr d n, fun old => old) :: wrs (y.getS a), s.me.resOk a = true ∨ p.1 = .csrr d n →
        (s.me.allLanded = false → WaitsFor p.1 s .windows) ∧
        (s.me.allLanded = true → s.holds s.cur .matrixIdle = false → WaitsFor p.1 s .matrixIdle) ∧
        (s.me.allLanded = true → s.holds s.cur .matrixIdle = true →
          steps p.1 { y with ctl := { y.ctl with flg := put 0x7F (f y.ctl) (p.2 (f y.ctl)) } } (f y.ctl))) ∧
    (k = 0x47 →
      let die := s.myTile / 144
      let count (u : State) (e j : Nat) : Word := (u.die e).counters.toList.getD j 0
      ∃ t, exec (.csrr d n) s = .next t ∧ Frame s { t with free := s.free, dies := s.dies } [.s d] [] 0 ∧ t.free = s.free + 1 ∧
        t.getS d = written d (count t die 7) ∧ (die < 4 → count t die 7 = count s die 7 + Config.freeWord s.free) ∧
        (∀ e j, (e, j) ≠ (die, 7) → count t e j = count s e j) ∧
        ∀ e, { t.die e with counters := (s.die e).counters } = s.die e) ∧
    (s.isDepot = true →
      (∀ r ∈ inDepot, k = r.1 →
        Writes (.csrr d n) s d (r.2.1 s.me.depot) 0 ∧
        (s.me.resOk a = true → ∀ p ∈ wrs (s.getS a),
          let old := r.2.1 s.me.depot
          steps p.1 { s.me with depot := r.2.2 s.me.depot (p.2 old) } old)) ∧
      (k < 5 ∨ k = 0x18 ∨ k = 0x20 ∨ k = 0x21 ∨ (0x36 ≤ k ∧ k < 0x40) ∨ 0x50 ≤ k →
        ∃ t, exec (.csrr d n) s = .next t ∧ Frame s { t with free := s.free } [.s d] [] 0 ∧ t.free = s.free + 1 ∧
          t.getS d = written d (Config.freeWord s.free)))

/-- R300 to R302, R374: the depot's instructions raise PRIV in a corridor's strand; wfe waits for an event and clears them,
rfe returns to the position that EPQ and EST hold and clears EST.active, ipost posts an interrupt once the accesses before it are performed, and tlbi drops the
translations it names and nothing else.
Where the spec leaves a point open this is the model's choice: assumptions 32, 34 and 95. -/
def Obligations.Privileged : Prop :=
  ∀ (s : State) (a b : Reg),
    let w := s.getS a
    let q := s.me.depot.epq
    let pc (n : Nat) : Word := (q.extractLsb' (21 * n) 21).setWidth 64
    let sound := s.me.resOk a = true ∧ s.me.resOk b = true
    let va := (s.getS b).toNat % 2 ^ 48 / 4096 * 4096
    let pasid := (w.extractLsb' 0 20).toNat
    let ctx := (w.extractLsb' 20 8).toNat
    let hit (p : Nat) (c : Option Nat) (v n : Nat) : Prop :=
      match (w.extractLsb' 28 2).toNat with
      | 0 => p = pasid ∧ (c = none ∨ c = some ctx) ∧ v < va + 4096 ∧ va < v + n
      | 1 => p = pasid
      | 2 => c = some ctx
      | _ => True
    let entry (e : TlbEntry) : Prop := hit e.pasid e.ctx e.va e.size
    (s.isDepot = false → Traps (.tlbi a b) s cPRIV 0 false ∧ Traps .wfe s cPRIV 0 false ∧ Traps (.ipost a b) s cPRIV 0 false ∧
      (s.me.slots = 0 → Traps .rfe s cPRIV 0 false)) ∧
    (s.me.slots ≠ 0 → Traps .rfe s cILLEGAL 0 false) ∧
    (s.isDepot = true →
      (s.me.depot.evt = 0 → WaitsFor .wfe s .event) ∧
      (s.me.depot.evt ≠ 0 → ∃ t, exec .wfe s = .next t ∧ OnlyMe s t ∧ Stepped s t ∧
        Strand.Kept { s.me with depot := { s.me.depot with evt := 0 } } t.me [] [] 0) ∧
      (s.me.slots = 0 → ∃ t, exec .rfe s = .next t ∧ OnlyMe s t ∧ t.me.pc0 = pc 0 ∧ t.me.pc1 = pc 1 ∧ t.me.pc2 = pc 2 ∧
        t.me.annul = s.me.depot.est.extractLsb' 8 2 ∧ t.me.rep = none ∧
        Strand.Kept { s.me with depot := { s.me.depot with est := s.me.depot.est &&& ~~~((1 : Word) <<< 10) } } t.me [] [] 0) ∧
      (¬ sound → Traps (.tlbi a b) s cRESIDUE 0 false ∧ Traps (.ipost a b) s cRESIDUE 0 false) ∧
      (sound → 2 ^ 23 ≤ w.toNat → Traps (.ipost a b) s cILLEGAL 0 false) ∧
      (sound → w.toNat < 2 ^ 23 → s.holds s.cur .stored = false → WaitsFor (.ipost a b) s .stored) ∧
      (sound → w.toNat < 2 ^ 23 → s.holds s.cur .stored = true →
        let fn := w.toNat / 2 ^ 16
        let vec := w.toNat % 2 ^ 16
        (64 < fn ∨ (if fn = 0 then 2048 else 64) ≤ vec →
          ∃ t, exec (.ipost a b) s = .next t ∧ Frame s { t with host := s.host } [] [] 0 ∧
            t.host = { s.host with droppedPosts := s.host.droppedPosts + 1 }) ∧
        (fn ≤ 64 → vec < (if fn = 0 then 2048 else 64) →
          ∃ t, exec (.ipost a b) s = .next t ∧ Frame s { t with host := s.host } [] [] 0 ∧
            { t.host with funcs := s.host.funcs, writes := s.host.writes } = s.host ∧ (∀ f, f ≠ fn → t.func f = s.func f) ∧
            (vec ∉ (s.func fn).masked → (t.func fn).posted = (s.func fn).posted ++ [(vec, some (s.getS b))]) ∧
            (vec ∈ (s.func fn).masked → (t.func fn).posted = (s.func fn).posted ∧ vec ∈ (t.func fn).pendingVec) ∧
            (∀ at_, KMap.get? (s.func fn).vecAddr vec = some at_ →
              t.host.writes = s.host.writes ++ [⟨none, at_.toNat, leBytes 8 (s.getS b).toNat⟩]) ∧
            (KMap.get? (s.func fn).vecAddr vec = none → t.host.writes = s.host.writes))) ∧
      (sound → 2 ^ 30 ≤ w.toNat → Traps (.tlbi a b) s cILLEGAL 0 false) ∧
      (sound → w.toNat < 2 ^ 30 →
        ∃ t, exec (.tlbi a b) s = .next t ∧ Frame s { t with tiles := s.tiles, dies := s.dies } [] [] 0 ∧
          (∀ p, { t.tile p with tlb := (s.tile p).tlb } = s.tile p ∧
            ∀ e, e ∈ (t.tile p).tlb ↔ e ∈ (s.tile p).tlb ∧ ¬ entry e) ∧
          ∀ d, { t.die d with l2 := (s.die d).l2, walks := (s.die d).walks } = s.die d ∧
            (∀ e, e ∈ (t.die d).l2 ↔ e ∈ (s.die d).l2 ∧ ¬ entry e) ∧
            ∀ x, x ∈ (t.die d).walks ↔ x ∈ (s.die d).walks ∧ ¬ hit x.pasid x.ctx (x.va / 4096 * 4096) 4096))

/-! ### Taking an exception -/

/-- R330, R331, R291: a corridor's strand that takes a trap stops with its registers as they were; its first cause stands,
with its position, its annul marks and its chain; a strand that has voted keeps its vote's cause; a residue error is charged
to its tile.
Where the spec leaves a point open this is the model's choice: assumption 15. -/
def Obligations.CorridorTraps : Prop :=
  ∀ (s : State) (c : BitVec 8) (addr : Word) (s2 wr : Bool), s.isDepot = false →
    let t := raise c addr s2 wr s
    let x := s.me
    let info : TrapInfo := ⟨c, s.cur.vt, s.cur.slot, false, x.pc0, x.pc1, x.pc2, x.annul, addr,
      chainWord (s.chainAt s.cur x.pc0), s2, wr, none⟩
    t.me = { x with status := .trapped, wait := .none, cause := some ((x.cause.orElse fun _ => x.voted).getD info) } ∧
    (∀ id, id ≠ s.cur → t.strand id = s.strand id) ∧
    (c ≠ cRESIDUE → { t with strands := s.strands } = s) ∧
    (c = cRESIDUE →
      let g := s.stage s.cur.cor x.stage
      let more := if s.myTile ∈ g.charged then 96 else 64
      t.stage s.cur.cor x.stage = { g with chargedNow := s.myTile :: g.chargedNow } ∧
      t.tile s.myTile = { s.tile s.myTile with
        score := if s.isProgrammable s.myTile = true then min ((s.tile s.myTile).score + more) 65535 else (s.tile s.myTile).score } ∧
      (∀ p, p ≠ s.myTile → t.tile p = s.tile p) ∧
      (∀ k st, (k, st) ≠ (s.cur.cor, x.stage) → t.stage k st = s.stage k st) ∧
      { t with strands := s.strands, stages := s.stages, tiles := s.tiles } = s)

/-- R374: a depot strand's exception writes its position to EPQ, its cause, its annul marks and active to EST and the address
to EAD, and goes on at EVB; the return from it undoes the change of position. R374, R377: an exception of a depot strand while EST.active is set stops every depot strand of its tile and, once booted,
sets boot status 0x0F.
Where the spec leaves a point open this is the model's choice: assumptions 32 and 78. -/
def Obligations.DepotExceptions : Prop :=
  (∀ (s : State) (c : BitVec 8) (addr : Word) (s2 wr : Bool), s.isDepot = true → s.me.depot.est.getLsbD 10 = false →
     let t := raise c addr s2 wr s
     let x := s.me
     let y := t.me
     OnlyMe s t ∧
     y.depot.epq = (0 : BitVec 1) ++ (x.pc2.extractLsb' 0 21 ++ x.pc1.extractLsb' 0 21 ++ x.pc0.extractLsb' 0 21) ∧
     y.depot.est = x.depot.est.extractLsb' 11 53 ++ (1 : BitVec 1) ++ x.annul ++ c ∧
     y.depot.ead = addr ∧
     y.pc0 = x.depot.evb ∧ y.pc1 = s.after s.cur y.pc0 ∧ y.pc2 = s.after s.cur y.pc1 ∧ y.annul = 0 ∧ y.rep = none ∧
     y = { x with depot := y.depot, pc0 := y.pc0, pc1 := y.pc1, pc2 := y.pc2, annul := 0, slots := 0, rep := none, wait := .none } ∧
     y.depot = { x.depot with epq := y.depot.epq, est := y.depot.est, ead := y.depot.ead } ∧
     (x.pc0.toNat < 2 ^ 21 → x.pc1.toNat < 2 ^ 21 → x.pc2.toNat < 2 ^ 21 →
       ∃ r, exec .rfe t = .next r ∧ r.me.pc0 = x.pc0 ∧ r.me.pc1 = x.pc1 ∧ r.me.pc2 = x.pc2 ∧ r.me.annul = x.annul ∧
         r.me.depot.est.getLsbD 10 = false)) ∧
  (∀ (s : State) (c : BitVec 8) (addr : Word) (s2 wr : Bool), s.isDepot = true → s.me.depot.est.getLsbD 10 = true →
     let t := raise c addr s2 wr s
     (∀ b, s.depot.booted = some b → t.depot.booted = some 0x0F) ∧
     (∀ p ∈ t.strands, p.1.cor = depotCor → p.1.vt = s.cur.vt → p.2.status = .stopped) ∧
     (∀ id, ¬ (id.cor = depotCor ∧ id.vt = s.cur.vt) → t.strand id = s.strand id) ∧
     { t with strands := s.strands, depot := s.depot } = s)

/-! ### Events of a superstep's end -/

/-- R24, R57, R90, R112, R113, R284, R287, R329 to R332, R335, R336, R358: arrival, the quiesce phase, the strike horizon with its
check for write conflicts, the vote, the decision, its delivery to the tiles, the early abort, the rollback with what it discards,
the service of causes, and the rerun with what it restores, on a package that holds the whole corridor where junctions combine.
Where the spec leaves a point open this is the model's choice: assumptions 21, 29 and 42. -/
def Obligations.BarrierEvents : Prop :=
  ∀ (s : State) (id : StrandId) (c st vt : Nat),
    let g := s.stage c st
    let x := s.strand id
    let m := s.stageTile c vt st
    let alone := s.parent c = none ∧ s.children c = []
    let onlyStage (t : State) : Prop := { t with stages := s.stages } = s ∧
      ∀ k n, (k, n) ≠ (c, st) → t.stage k n = s.stage k n
    (x.status = .arriving → x.fifo = [] → x.running = [] → s.matrixOf id = [] →
      let ids := s.stageIds id.cor x.stage
      let here (i : StrandId) : Prop := i = id ∨ (s.strand i).status = .arrived
      let h := s.stage id.cor x.stage
      ∃ t, exec (.arrival id) s = .next t ∧ t.strand id = { x with status := .arrived } ∧
        (∀ i, i ≠ id → t.strand i = s.strand i) ∧
        ((∀ i ∈ ids, i.vt = id.vt → here i) →
          t.stageTile id.cor id.vt x.stage = { s.stageTile id.cor id.vt x.stage with reported := true }) ∧
        ((∀ i ∈ ids, here i) → h.phase = .compute → t.stage id.cor x.stage = { h with phase := .quiesce }) ∧
        (¬ (∀ i ∈ ids, here i) → t.stages = s.stages) ∧
        { t with strands := s.strands, stageTiles := s.stageTiles, stages := s.stages } = s) ∧
    (g.phase = .quiesce → s.planesKnown c = true → s.nothingUnderWay c st = true → (s.spread c = true → g.farDone = true) → alone →
      (s.pendingSum c st = 0 → exec (.quiesce c st) s = .next (s.setStage c st { g with phase := .horizon })) ∧
      (s.pendingSum c st ≠ 0 → exec (.quiesce c st) s = .next s)) ∧
    (g.phase = .quiesce → s.stageIds c st ≠ [] → exec (.linkTimeout c st) s = .next (s.stageVote c st cLINK)) ∧
    (g.phase = .compute → s.dark = true → exec (.linkTimeout c st) s = .next (s.stageVote c st cLINK)) ∧
    (g.phase = .horizon → s.clock < g.horizonAt → exec (.strikeHorizon c st) s = .next s) ∧
    (g.phase = .horizon → g.horizonAt ≤ s.clock →
      ∃ t, exec (.strikeHorizon c st) s = .next t ∧ (t.stage c st).phase = .vote ∧
        ∀ v ∈ s.stageVts c st, (t.stageTile c v st).voteCast = true ∧
          (t.stageTile c v st).crossVoted = (s.stageTile c v st).crossIn.length ∧
          let z := s.stageTile c v st
          let writes (o : Overlay) (a : Nat) : Prop := a ∈ o.map Prod.fst
          let clash := ∃ a, (writes z.loc a ∧ ∃ d ∈ z.inbound, writes d.bytes a) ∨
            ∃ d ∈ z.inbound, ∃ e ∈ z.inbound, (d.vt, d.slot) ≠ (e.vt, e.slot) ∧ writes d.bytes a ∧ writes e.bytes a
          (∀ d ∈ z.inbound, d.slot < 4) → g.resumed = false → g.decision = none →
            ((s.cor c).conflictCheck = true → clash →
              (t.stageTile c v st).tileCause = some (z.tileCause.getD (tileTrap v cWRITE_CONFLICT 0 false false))) ∧
            (¬ ((s.cor c).conflictCheck = true ∧ clash) → (t.stageTile c v st).tileCause = z.tileCause)) ∧
    (g.phase = .vote → alone →
      ∃ t, exec (.junctionVote c st) s = .next t ∧ onlyStage t ∧ (t.stage c st).phase = .decided ∧
        (t.stage c st).mm = g.mm ∧
        (t.stage c st).decision = some (decide (s.causes c st = [] ∧ odd_ (s.partials c st) = none)) ∧
        (t.stage c st).lanes = (reduceAll (s.partials c st)).map Partial.words) ∧
    (∀ d, g.phase = .decided → vt ∈ s.stageVts c st → m.decided = none → g.decision = some d → alone →
      let r := s.reachTile c st vt d
      r.stageTile c vt st = { m with decided := some d } ∧ (d = true → r.strands = s.strands) ∧
        (d = false → ∀ p ∈ r.strands, p.1.cor = c → p.1.vt = vt → p.2.stage = st →
          p.2.status = .ended ∨ p.2.status = .stopped ∧ p.2.wait = .none) ∧
        { r with strands := s.strands, stageTiles := s.stageTiles } = s ∧
        ((∃ v ∈ s.stageVts c st, (r.stageTile c v st).decided = none) → exec (.junctionDecision c st vt) s = .next r) ∧
        ((∀ v ∈ s.stageVts c st, (r.stageTile c v st).decided ≠ none) →
          exec (.junctionDecision c st vt) s = .next (r.setStage c st (if d = true then
            { g with phase := .apply, farDone := false, farReady := !s.spread c }
            else { g with phase := .apply, firstCause := TrapInfo.first g.firstCause (firstCause (r.causes c st))
                          summary := g.summary ||| summaryOf (r.causes c st), causes := r.causes c st })))) ∧
    (g.undecided = true → s.earlyCause c st = true → alone →
      ∃ t, exec (.earlyAbort c st) s = .next t ∧ onlyStage t ∧ (t.stage c st).phase = .decided ∧
        (t.stage c st).decision = some false ∧ (t.stage c st).causes = s.causes c st) ∧
    (g.phase = .apply → g.decision = some false → vt ∈ s.stageVts c st → m.settled = false → s.sending c st vt = false → alone →
      let t := s.emptyTile c st vt
      let all := ∀ v ∈ t.stageVts c st, (t.stageTile c v st).settled = true
      let mine (i : StrandId) : Bool := decide (i.cor = c ∧ i.vt = vt ∧ (s.strand i).stage = st)
      (t.stageTile c vt st = { m with loc := [], inbound := [], bcast := [], outbound := [], cross := [], farlog := []
                                      fetch := [], pending := 0, reported := false, voteCast := false, tileCause := none
                                      crossVoted := 0, settled := true }) ∧
      (∀ k v n, (k, v, n) ≠ (c, vt, st) → t.stageTile k v n = s.stageTile k v n) ∧
      (∀ i, i ∈ s.strands.map Prod.fst →
        let y := s.strand i
        (mine i = true → t.strand i = { y with fifo := [], running := [], pushing := none, held := [], popped := [],
                                               mailbox := y.popped ++ y.mailbox.filter (fun e => e.source == 2)
                                               mailWaiting := y.mailWaiting.filter (fun e => e.source == 2)
                                               handles := [], serial := 0 }) ∧
        (mine i = false → t.strand i = y)) ∧
      (∀ q, let z := s.tile q
        (t.tile q).mem = z.mem ∧ (t.tile q).queue = z.queue.filter (fun k => !mine k.id) ∧
        (t.tile q).acc = z.acc.filter (fun a => !mine a.2.owner) ∧
        (t.tile q).leaseQueue = z.leaseQueue.filter (fun l => !mine l.1) ∧
        (∀ l, (t.tile q).lease = some l → mine l.1 = false) ∧ (∀ k, (t.tile q).cmdRunning = some k → mine k.id = false)) ∧
      (∀ r ∈ (t.die (s.phys c vt / 144)).directory, r.cor = c → r.vt = vt → r.stage = st →
        ∀ u ∈ m.fetch, r.unit ≠ u.key) ∧
      t.far = s.far ∧
      (s.cutTile c st vt = false → (¬ all → exec (.rollback c st vt) s = .next t) ∧
        (all → exec (.rollback c st vt) s = .next (t.onStage c st fun h => { h with phase := .service, serviced := false })))) ∧
    (c ≠ depotCor → ∀ i ∈ s.stageIds c st, i.vt ∈ s.stageVts c st → (s.strand i).status ≠ .ended →
      let b := s.readRecord i
      let word (o : Nat) : Word := BitVec.ofNat 64 (recordField b o 8)
      let live : Live := recordField b 0x10 16
      let y := (s.rerun c st).strand i
      y.pc0 = BitVec.ofNat 64 (bits (word 8) 20 0) ∧ y.pc1 = BitVec.ofNat 64 (bits (word 8) 41 21) ∧
      y.pc2 = BitVec.ofNat 64 (bits (word 8) 62 42) ∧ y.annul = BitVec.ofNat 2 (bits (word 0x20) 3 2) ∧
      y.ctl.words = (List.range 7).map (fun n => word (0x40 + 8 * n)) ∧
      (∀ n : Fin 32, y.s.get n = if n.val = 0 then 0 else if Live.s live n.val then word (0x80 + 8 * n.val) else poison64) ∧
      (∀ n : Fin 32, y.v.get n = if Live.v live n.val then BitVec.ofNat 512 (recordField b (0x180 + 64 * n.val) 64)
        else lineOf (List.replicate 8 poison64)) ∧
      (∀ n : Fin 16, y.d.get n = if Live.d live n.val then bytesDist ((b.drop (0x980 + 200 * n.val)).take 200) else poisonDist) ∧
      (∀ n : Fin 8, y.p.get n = if n.val = 0 then BitVec.allOnes 64 else if Live.p live n.val then word (0x1600 + 8 * n.val)
        else poison64) ∧
      y.windows = [] ∧ y.rep = none ∧ y.arrival = none ∧ y.voted = none) ∧
    (g.phase = .service →
      (g.serviced = true → s.servicing c st = false → g.linkFailed = false → g.refetched = false →
        exec (.causeService c st) s = .next (s.refetch c st) ∧
        ∀ v ∈ s.stageVts c st, ((s.refetch c st).stageTile c v st).staged = (s.stageTile c v st).staged.map fun u =>
          match u.st with | .marked _ => { u with st := .queued } | _ => u) ∧
      (g.serviced = true → s.servicing c st = false → g.linkFailed = false → g.refetched = true → s.unfetched c st = false →
        alone → exec (.causeService c st) s = .next (s.rerun c st) ∧
        ((s.rerun c st).stage c st).agn = (if g.agn = 15 then 15 else g.agn + 1) ∧
        ((s.rerun c st).stage c st).mm = g.mm ∧ ((s.rerun c st).stage c st).decision = none ∧
        (s.struck c st = false → s.stageIds c st ≠ [] → ((s.rerun c st).stage c st).phase = .compute)) ∧
      (∀ q, g.serviced = false → g.firstCause = some q → (s.cor c).reruns q.cause = false →
        exec (.causeService c st) s = .next (s.haltOn c st q q.cause)) ∧
      (∀ q k, g.serviced = false → g.firstCause = some q → (s.cor c).reruns q.cause = true →
        g.causes.find? (fun y => y.cause == cMILESTONE) = some k →
        exec (.causeService c st) s = .next ((s.logTrap c st q g.mm g.agn false).haltOn c st k cMILESTONE)) ∧
      (∀ q, g.serviced = false → g.firstCause = some q → (s.cor c).reruns q.cause = true → q.cause ≠ cPREEMPT →
        (∀ y ∈ g.causes, y.cause ≠ cMILESTONE) → (s.cor c).rerunLimit < g.counted + 1 →
        exec (.causeService c st) s = .next ((s.logTrap c st q g.mm g.agn false).haltOn c st q.repeated cREPEAT_ABORT)) ∧
      (∀ q u, g.serviced = false → g.firstCause = some q → (s.cor c).reruns q.cause = true →
        (∀ y ∈ g.causes, y.cause ≠ cMILESTONE) → (q.cause = cPREEMPT ∨ g.counted + 1 ≤ (s.cor c).rerunLimit) → s.beginService c st = some u →
        exec (.causeService c st) s = .next (u.onStage c st fun h => { h with serviced := true })))

/-- R24, R54 to R58, R60, R62 to R66, R111, R112, R286, R289, R315: the order in which a tile applies what it holds, its drain,
phases 8 and 9 with records, registers and positions, the drain of the far stores, the operations a commit releases, atomics,
cross-stage delivery, the result area and the completion of a corridor.
Where the spec leaves a point open this is the model's choice: assumptions 20, 42, 50, 53 and 69. -/
def Obligations.CommitEvents : Prop :=
  ∀ (s : State) (id : StrandId) (c st vt n : Nat),
    let g := s.stage c st
    let x := s.strand id
    let m := s.stageTile c vt st
    let p := s.phys c vt
    (g.phase = .apply → g.decision = some true → vt ∈ s.stageVts c st → m.settled = false → s.parent c = none → s.children c = [] →
      let t := s.drainTile c st vt
      let all := ∀ v ∈ t.stageVts c st, (t.stageTile c v st).settled = true
      (¬ all → exec (.commitDrain c st vt) s = .next t) ∧
      (all → t.farAccepted c st = true → exec (.commitDrain c st vt) s = .next (t.finishCommit c st)) ∧
      (all → t.farAccepted c st = false → t.anyCutOff c st = false → exec (.commitDrain c st vt) s = .next t) ∧
      (t.stageTile c vt st).fetch = [] ∧ (∀ u ∈ m.fetch, u ∈ (t.stageTile c vt st).staged) ∧
      (rising (m.applied vt) = true → Mem.wf (s.tile p).mem = true → ∀ a, a < 0x1F0000 →
        Mem.read (t.tile p).mem a = (cellAt (m.applied vt) a).getD (Mem.read (s.tile p).mem a))) ∧
    (let deltaKey (d : Delta) : Nat × Nat := (d.vt * 4 + d.slot, d.seq)
     let crossKey (d : CrossIn) : Nat × Nat × Nat × Nat := (d.stage, d.mm.toNat, d.vt * 4 + d.slot, d.seq)
     let before2 (x y : Nat × Nat) : Prop := x.1 < y.1 ∨ x.1 = y.1 ∧ x.2 < y.2
     let before4 (x y : Nat × Nat × Nat × Nat) : Prop :=
       x.1 < y.1 ∨ x.1 = y.1 ∧ (x.2.1 < y.2.1 ∨ x.2.1 = y.2.1 ∧ before2 x.2.2 y.2.2)
     let arrived := m.crossIn.take m.crossVoted
     let quiet (l : List Delta) (a : Nat) : Prop := ∀ d ∈ l, cellAt d.bytes a = none
     (∀ d ∈ m.inbound, d.slot < 4) → rising m.loc = true → (∀ d ∈ m.inbound ++ m.bcast, rising d.bytes = true) → (∀ d ∈ arrived, rising d.bytes = true) →
     ∀ a b,
       (∀ d ∈ m.bcast, cellAt d.bytes a = some b →
         (∀ e ∈ m.bcast, cellAt e.bytes a ≠ none → e = d ∨ before2 (deltaKey e) (deltaKey d)) → cellAt (m.applied vt) a = some b) ∧
       (∀ d ∈ m.inbound, cellAt d.bytes a = some b → quiet m.bcast a → (d.vt < vt → cellAt m.loc a = none) →
         (∀ e ∈ m.inbound, cellAt e.bytes a ≠ none → e = d ∨ before2 (deltaKey e) (deltaKey d)) → cellAt (m.applied vt) a = some b) ∧
       (cellAt m.loc a = some b → quiet m.bcast a → (∀ e ∈ m.inbound, cellAt e.bytes a ≠ none → e.vt < vt) →
         cellAt (m.applied vt) a = some b) ∧
       (∀ d ∈ arrived, cellAt d.bytes a = some b → quiet m.bcast a → quiet m.inbound a → cellAt m.loc a = none →
         (∀ e ∈ arrived, cellAt e.bytes a ≠ none → e = d ∨ before4 (crossKey e) (crossKey d)) → cellAt (m.applied vt) a = some b) ∧
       (quiet m.bcast a → quiet m.inbound a → cellAt m.loc a = none → (∀ d ∈ arrived, cellAt d.bytes a = none) →
         cellAt (m.applied vt) a = none)) ∧
    (c ≠ depotCor → (∀ v ∈ s.stageVts c st, (s.stageTile c v st).tileCause = none) →
      let r := s.finishCommit c st
      (r.stage c st).mm = g.mm + 1 ∧ (r.stage c st).agn = 0 ∧ (r.stage c st).counted = 0 ∧ (r.stage c st).decision = none ∧
      (r.stage c st).ended = (!g.cont) ∧ (g.cont = false → (r.stage c st).phase = .ended) ∧
      ∀ i ∈ s.stageIds c st, let w := s.strand i
        ∀ a, w.arrival = some a →
          let z := r.strand i
          (a.kind = .fin ∨ a.kind = .finRed → g.cont = false ∨ (s.cor c).requests = [] → z.status = .ended) ∧
          (a.kind = .bar ∨ a.kind = .red →
            let y := match g.lanes with
              | some ls => if a.kind = BarKind.red then (w.putGroup a.group ls).addFlags (if g.redOvf then 4 else 0) else w
              | none => w
            let l := (s.cor c).image.liveAt a.pc.toNat
            let live := if a.kind = .red then Live.withGroup l a.group else l
            z.pc0 = w.pc1 ∧ z.pc1 = w.pc2 ∧ z.annul = 0 ∧ z.slots = 0 ∧ z.rep = none ∧ z.windows = [] ∧ z.arrival = none ∧
            z.ctl = y.ctl ∧
            (∀ k : Fin 32, z.s.get k = if k.val = 0 ∨ Live.s live k.val then y.s.get k else poison64) ∧
            (∀ k : Fin 32, z.v.get k = if Live.v live k.val then y.v.get k else lineOf (List.replicate 8 poison64)) ∧
            (∀ k : Fin 16, z.d.get k = if Live.d live k.val then y.d.get k else poisonDist) ∧
            (∀ k : Fin 8, z.p.get k = if k.val = 0 ∨ Live.p live k.val then y.p.get k else poison64))) ∧
    (∀ a, x.arrival = some a →
      let z := s.phys id.cor id.vt
      let r := s.resumeStrand g id
      Mem.wf (s.tile z).mem = true →
      (a.kind = .bar ∨ a.kind = .red →
        let y := match g.lanes with
          | some ls => if a.kind = .red then (x.putGroup a.group ls).addFlags (if g.redOvf then 4 else 0) else x
          | none => x
        let l := (s.cor id.cor).image.liveAt a.pc.toNat
        (r.strand id).pc2 = s.after id x.pc2 ∧
        Mem.readN (r.tile z).mem (s.recordAt id) 0x1640 = recordBytes y id (g.mm + 1) x.pc1 x.pc2 (s.after id x.pc2)
          (if a.kind = .red then Live.withGroup l a.group else l) false) ∧
      (a.kind = .fin ∨ a.kind = .finRed → (r.strand id).status = .ended ∧
        Mem.read (r.tile z).mem (s.recordAt id + 0x20) = Mem.read (s.tile z).mem (s.recordAt id + 0x20) &&& 0xFE ∧
        ∀ o, o ≠ s.recordAt id + 0x20 → Mem.read (r.tile z).mem o = Mem.read (s.tile z).mem o)) ∧
    (∀ line r, g.farReady = true → g.applies = false → s.spread c = false → g.farLeft.flatMap FarLog.lines = line :: r →
      peerOf (64 * line) = none → (∀ f ∈ g.farLeft, line ∈ f.lines → s.reaches (s.phys c f.vt) (64 * line) = true) →
      (∀ q ∈ s.fabric.registered, q.2 ≠ line / 64) →
      let mm := oldestOn g.farLeft line
      let l := g.farLeft.filter fun f => f.mm == mm
      ∃ u : State, u.far = s.far ∧
        { u.stage c st with watermarks := g.watermarks } = { g with farLeft := withoutLine g.farLeft mm line } ∧
        (∀ f ∈ withoutLine g.farLeft mm line, f.mm = mm → line ∉ f.lines) ∧
        exec (.farDrainEntry c st) s = .next
          ((((lineCells l line).foldl State.addCell (u.farApply (lineBytesOf l line))).poisonFar
            (spoiledWords l line)).oweForwards line)) ∧
    (g.farReady = true → g.farDone = false → g.applies = false → g.farLeft = [] → (∀ d ∈ s.dies.toList, ∀ r ∈ d.directory, r.due = []) →
      s.drainsAnswered c st = true → s.forwarding (s.fabric.pkg, c, st) = false → s.spread c = false → s.parent c = none →
      s.children c = [] →
      exec (.commitFarComplete c st) s = .next (s.setStage c st { g with farDone := true }).releaseFrames) ∧
    ((s.stage id.cor x.stage).farDone = true → x.inflight = 0 → (∀ a ∈ s.atomics, a.id ≠ id) →
      ∀ h r, x.released = h :: r →
        let u := s.setStrand id { x with released := r }
        (∀ pa bs, h = .store pa bs → peerOf pa = none → s.reaches (s.phys id.cor id.vt) pa = true → exec (.heldOpRelease id) s = .next (u.farWrite pa bs)) ∧
        (∀ pa size op a b tag, h = .amo pa size op a b tag →
          exec (.heldOpRelease id) s = .next { u with atomics := s.atomics ++ [⟨id, pa, size, op, a, b, tag, false⟩] }) ∧
        (∀ q bs, h = .send q bs → ∃ t, exec (.heldOpRelease id) s = .next t ∧ { t with host := s.host } = u ∧
          { t.host with sendQueues := s.host.sendQueues } = s.host ∧
          let k := KMap.getD s.host.sendQueues q SendQueue.reset
          KMap.getD t.host.sendQueues q SendQueue.reset =
            { k with inflight := k.inflight ++ [⟨id, k.number, packetsOf k bs⟩], number := k.number + 1 })) ∧
    (∀ a, s.atomics[n]? = some a → a.bad = false → s.reaches (s.phys a.id.cor a.id.vt) a.pa = true → peerOf a.pa = none → (a.size = 4 ∨ a.size = 8) → a.op.toNat ≤ 9 →
      Mem.wf s.far.mem = true →
      let w := 8 * a.size
      let old : BitVec w := BitVec.ofNat w (Mem.load s.far.mem a.pa a.size)
      let b : BitVec w := a.operand.setWidth w
      let new : BitVec w := match a.op.toNat with
        | 0 => old + b
        | 1 => old &&& b
        | 2 => old ||| b
        | 3 => old ^^^ b
        | 4 => if old.sle b then old else b
        | 5 => if b.sle old then old else b
        | 6 => if old.ule b then old else b
        | 7 => if b.ule old then old else b
        | 8 => b
        | _ => if old = a.compare.setWidth w then b else old
      ∃ t, exec (.atomicExecute n) s = .next t ∧ t.atomics = listRemove s.atomics n ∧
        t.amoResults = s.amoResults ++ [⟨a.id, a.tag, 0, old.setWidth 64⟩] ∧
        Mem.load t.far.mem a.pa a.size = new.toNat ∧
        (∀ k, k < a.pa ∨ a.pa + a.size ≤ k → Mem.read t.far.mem k = Mem.read s.far.mem k) ∧
        (∀ d, { t.die d with counters := (s.die d).counters } = s.die d) ∧
        { t with far := s.far, atomics := s.atomics, amoResults := s.amoResults, dies := s.dies } = s) ∧
    (∀ r, s.amoResults.find? (fun r => decide (r.id = id)) = some r →
      ∃ t, exec (.amoiResult id) s = .next t ∧ t.amoResults = s.amoResults.erase r ∧
        t.strand id = x.postMail r.tag r.status 2 r.value ∧ ∀ i, i ≠ id → t.strand i = s.strand i) ∧
    (∀ w, s.travelling[n]? = some w → s.onPackage w.cor w.target = true →
      s.joined (s.phys w.cor w.vt / 144) (s.phys w.cor w.target / 144) = true →
      let rc := (s.cor w.cor).image.receiver w.target
      let z := s.stageTile w.cor w.target rc
      let y := { z with crossIn := z.crossIn ++ [⟨w.stage, w.mm, w.vt, w.slot, w.seq, w.bytes, w.bad⟩] }
      let t := { s with travelling := listRemove s.travelling n }
      ((s.stage w.cor rc).ended = true →
        exec (.crossStageDelivery n) s = .next
          (((t.commitBytes w.cor w.target w.bytes).poisonTile (s.phys w.cor w.target) w.bad).updateMarks w.cor)) ∧
      ((s.stage w.cor rc).ended = false → y.crossUsed ≤ s.crossShare w.cor w.target →
        exec (.crossStageDelivery n) s = .next ((t.setStageTile w.cor w.target rc y).updateMarks w.cor)) ∧
      ((s.stage w.cor rc).ended = false → s.crossShare w.cor w.target < y.crossUsed →
        exec (.crossStageDelivery n) s = .next s)) ∧
    (∀ lanes, g.resultDue = some lanes →
      let base := bits ((s.cor c).word 5) 47 0
      let va := base + 256 * st
      (base = 0 → exec (.resultAreaWrite c st) s = .next (s.setStage c st { g with resultDue := none })) ∧
      (∀ pa cls, base ≠ 0 → g.farDone = true → s.askOpen c st = false →
        s.deviceAt (s.cor c).pasid (s.cor c).ctx va ⟨false, true, false⟩ = .at_ pa cls → cls ≠ 2 → peerOf pa = none →
        exec (.resultAreaWrite c st) s = .next
          (((s.farWrite pa (wordBytes lanes)).dropAsks c st).setStage c st { g with resultDue := none }))) ∧
    (∀ w, s.ending c = some w → s.spread c = false → s.parent c = none → s.children c = [] → s.corridorQuiet c = true →
      ((s.cor c).completion ≠ none ∨ s.fillsOwed c = false) →
      ∃ t, exec (.corridorCompletion c) s = .next t ∧ (t.cor c).state = CorState.finished (s.cor c).state ∧
        (t.cor c).completion = none ∧ (t.cor c).requests = [] ∧ ∀ q ∈ t.strands, q.1.cor ≠ c)

/-! ### Events of copies, mailboxes and staging -/

/-- R60, R73, R74, R77 to R88, R158, R179, R293: data land in windows and tiles, remote writes are taken, parked strands
wake, the engine carries out the six kinds of command, completions are posted, and the stager fetches, forwards and lands
units, the tiles of a die in turn and one tile's in append order.
Where the spec leaves a point open this is the model's choice: assumptions 38, 42, 43, 44, 80, 81 and 82. -/
def Obligations.CopyEvents : Prop :=
  ∀ (s : State) (id : StrandId) (c st vt n : Nat),
    let x := s.strand id
    let m := s.stageTile c vt st
    let p := s.phys id.cor id.vt
    (∀ y ∈ x.windows, y.id = n → y.read = none → y.landed = false → s.readOpen id n = false →
      exec (.windowDataLands id n) s = .next
        ((s.setStrand id ((x.onWindow n fun y => { y with landed := true }).closeWindows)).afterStep id)) ∧
    (∀ y r, x.windows.find? (fun y => y.id == n) = some y → y.read = some r →
      s.unwritten id.cor x.stage r.pa r.size = false → peerOf r.pa = none → s.reaches p r.pa = true →
      ∃ t, exec (.farReadServe id n) s = .next t ∧ t.strand id = x.onWindow n (fun y =>
          { y with read := none, writes := y.writes.map fun q => (q.1, destValue q.1 (Mem.readN s.far.mem r.pa r.size)) }) ∧
        (∀ i, i ≠ id → t.strand i = s.strand i) ∧ t.far = s.far) ∧
    (∀ w r, m.outbound = w :: r → s.onPackage c w.target = true →
      s.joined (s.phys c vt / 144) (s.phys c w.target / 144) = true →
      exec (.remoteDeltaAccept c st vt) s = .next ((s.setStageTile c vt st { m with outbound := r }).acceptDelta c st vt w)) ∧
    (x.status = .running → x.mailbox ≠ [] → ∀ d, (x.wait = .mail d ∨ ∃ k, x.wait = .mailTimed d k) →
      exec (.laybyWake id) s = .next (s.complete id fun s => s.writeS d (BitVec.ofNat 64 x.mailbox.length))) ∧
    (x.status = .running → ∀ k w, x.wait = .stage k w →
      (w.toNat ≤ (s.deliveredMark id.cor id.vt k).toNat ∨
        (s.stage id.cor k).ended = true ∧ s.deliveredMark id.cor id.vt k = (s.stage id.cor k).mm) →
      exec (.laybyWake id) s = .next (s.complete id fun s => s)) ∧
    (x.status = .running → ∀ d k, x.wait = .mailTimed d k → k ≤ s.clock →
      exec (.mbwTimeout id) s = .next (s.complete id fun s => s.writeS d (BitVec.ofNat 64 x.mailbox.length))) ∧
    (∀ k r, x.running.find? (fun q => q.seq == n && !q.done) = none → x.fifo = k :: r → k.seq = n → k.tainted = false →
      s.engineBusy p < 8 → s.engineNext p = some id →
      ∀ q ∈ [(Instr.copy id n, 1), (.bcast id n, 2), (.send id n, 3), (.fill id n, 4), (.digest id n, 5), (.exchange id n, 0)],
        (if q.2 = 0 then k.exchange = true else k.exchange = false ∧ bits k.w0 7 0 = q.2) →
        let t := (s.setTile p { s.tile p with engineLast := s.physSlot id }).setStrand id
          { x with fifo := r, running := x.running ++ [k] }
        let pages := t.notePages id.cor (t.phys id.cor id.vt) (k.pages.drop k.walked)
        let e : CopyCmd := { k with walked := k.walked + pages.2 }
        let v := if pages.2 = 0 then pages.1 else pages.1.setCommand id e
        (e.walked < k.pages.length → exec q.1 s = .next v) ∧
        ∀ bs ds u sent, k.pages.length ≤ e.walked → Found.split (v.sourceElems id e) = (bs, none) →
          Found.split (v.destElems id e bs) = (ds, none) → (v.noteSources id e bs.length).putElems id e ds = (u, sent, none) →
          exec q.1 s = .next (((u.noteDests id e ds.length).setCommand id
            { e with done := true, tainted := false, view := [], got := [], payload := e.report bs }).egress id e bs)) ∧
    (∀ k, x.running.find? (fun q => q.seq == n && q.done) = some k → k.tainted = false → s.allAccepted id n = true →
      (k.exchange = false → bit k.w0 8 = true → ∀ q ∈ x.fifo ++ x.running, n ≤ q.seq) →
      let y := x.setRunning n none
      exec (.commandComplete id n) s = .next (s.setStrand id
        (if k.exchange = false ∧ bit k.w0 9 = true then y.postMail (BitVec.ofNat 16 (bits k.w0 31 16)) 0 1 k.payload else y))) ∧
    (∀ e r, x.mailWaiting = e :: r → x.mailbox.length < 16 →
      exec (.mailboxPost id) s = .next (s.setStrand id { x with mailbox := x.mailbox ++ [e], mailWaiting := r })) ∧
    (let die := s.phys c vt / 144
     let key (e : Nat) : Nat := (e + 144 - (s.die die).stagerTurn) % 144
     (∀ r, s.stagerNext die = some r →
       (r.1 = (c, vt, st, n) → exec (.stagerUnitFetch c vt st n) s = .next r.2) ∧
       (r.1 ≠ (c, vt, st, n) → exec (.stagerUnitFetch c vt st n) s = .next s) ∧
       ∃ b ∈ s.stagerUnits die, b.2.2.1 = r.1 ∧
         ∀ e ∈ s.stagerUnits die, key b.1 < key e.1 ∨ key b.1 = key e.1 ∧ b.2.1 ≤ e.2.1) ∧
     (s.stagerNext die = none → exec (.stagerUnitFetch c vt st n) s = .next s)) ∧
    (∀ u, (m.staged ++ m.fetch)[n]? = some u →
      let z := s.phys c vt
      let a := s.farAt c z u.va ⟨true, false, true⟩
      let noted := s.noteFar c z u.va
      (s.walkFull c z u.va = true → s.stageUnit c vt st n u = none) ∧
      (s.walkFull c z u.va = false →
        (∀ f, a = .bad f → s.stageUnit c vt st n u = some (noted.markUnit c vt st n u f.cause)) ∧
        (∀ pa, a = .at_ pa 1 → s.stageUnit c vt st n u = some (noted.markUnit c vt st n u cPROT)) ∧
        (∀ pa k, a = .at_ pa k → k ≠ 1 → m.staged.length ≤ n → 4096 ≤ (s.die (z / 144)).directory.length →
          s.stageUnit c vt st n u = none) ∧
        (∀ pa k, a = .at_ pa k → k ≠ 1 → peerOf pa = none → m.staged.length ≤ n →
          (s.die (z / 144)).directory.length < 4096 → s.unwritten c st pa 4096 = false →
          (∀ i, i < 64 → s.reaches z (pa + 64 * i) = true) →
          ∃ t, s.stageUnit c vt st n u = some t ∧ t.far = s.far ∧
            (t.stageTile c vt st).fetch[n - m.staged.length]? =
              some { u with st := .fetched (pa / 4096) (Mem.readN s.far.mem pa 4096) } ∧
            (z < 576 → (t.die (z / 144)).directory =
              (s.die (z / 144)).directory ++ [⟨pa / 4096, c, vt, st, u.key, []⟩])))) ∧
    (∀ u frame bs, m.staged[n]? = some u → u.st = .fetched frame bs → s.mayLand c st = true →
      s.unwritten c st (frame * 4096) 4096 = false → s.forwarded c vt st u = true →
      exec (.stagedUnitLands c vt st n) s = .next (s.landUnit c vt st n frame bs u) ∧
      (Mem.wf (s.tile (s.phys c vt)).mem = true →
        let t := s.landUnit c vt st n frame bs u
        (∀ i, i < bs.length → u.dest + i ∉ u.covered →
          some (Mem.read (t.tile (s.phys c vt)).mem (u.dest + i)) = bs[i]?) ∧
        (∀ a, a < u.dest ∨ u.dest + bs.length ≤ a ∨ a ∈ u.covered →
          Mem.read (t.tile (s.phys c vt)).mem a = Mem.read (s.tile (s.phys c vt)).mem a))) ∧
    (∀ d r line rest, (s.records c st)[n]? = some (d, r) → r.due = line :: rest →
      s.reaches (s.phys c r.vt) (64 * line) = true →
      let f (u : FetchUnit) : FetchUnit :=
        if u.key = r.unit then u.patch line (Mem.readN s.far.mem (64 * line) 64) else u
      let z := s.stageTile c r.vt st
      ∃ t, exec (.stagedCopyForward c st n) s = .next t ∧
        t.stageTile c r.vt st = { z with fetch := z.fetch.map f, staged := z.staged.map f } ∧
        (t.die d).directory = (s.die d).directory.map (fun q => if q = r then { q with due := rest } else q) ∧
        { t with stageTiles := s.stageTiles, dies := s.dies } = s)

/-! ### Events of errors, power, boot and the depot -/

/-- R97, R366 to R373, R381: strikes, sensors, errors, line retirement, suspicion, withdrawal and test of tiles, ageing, clock
steps, and the thresholds of power, current and heat.
Where the spec leaves a point open this is the model's choice: assumptions 42, 46, 47, 48, 51 and 95. -/
def Obligations.ReliabilityEvents : Prop :=
  ∀ (s : State) (die block good tile off pa cl birth count watts amps celsius : Nat) (id : StrandId),
    let d := s.die die
    let t := s.tile tile
    let k := s.cluster die cl
    let steps (i : Instr) (u : State) : Prop := exec i s = .next u
    let charged (id : StrandId) (cause : BitVec 8) (n : Nat) : State :=
      if isDepotId id then s else s.hardFault id.cor id.vt (s.strand id).stage cause 0 n
    (let voted := ((s.stagesAt fun p => tileDie p == die && blockOf p == block).foldl
        (fun u x => u.tileVote x.1 x.2.1 x.2.2 (tileTrap x.2.1 cSTRIKE 0 false false)) s).depotEvent 3
     let depotHit := ∃ p, tileDie p = die ∧ blockOf p = block ∧ s.isDepotTile p = true
     (¬ depotHit → steps (.strikeReport die block) voted) ∧
     (depotHit → steps (.strikeReport die block) { voted with fabric := { voted.fabric with fetched := [] } })) ∧
    (let passing := ((List.range 4).filter fun j => good.testBit j).length
     let new : Die := { d with
       deaf := (d.deaf.filter fun n => n / 4 != block) ++ ((List.range 4).filter fun j => !good.testBit j).map (4 * block + ·) }
     (2 ≤ passing ∨ d.uncovered.contains block = true → steps (.sensorSelfTest die block good) (s.setDie die new)) ∧
     (passing < 2 → d.uncovered.contains block = false → steps (.sensorSelfTest die block good)
       (((s.setDie die { new with uncovered := d.uncovered ++ [block] }).fenceTiles
         ((dieTiles die).filter fun p => blockOf p == block)).depotEvent 3))) ∧
    steps (.eccError (.sram tile off none) false) (s.suspect tile 1) ∧
    steps (.eccError (.command tile off) true) (s.commandError tile off) ∧
    (∀ c vt st, steps (.eccError (.sram tile off (some (c, vt, st))) false) (s.suspect (s.phys c vt) 1) ∧
      (vt ∈ s.stageVts c st → steps (.eccError (.sram tile off (some (c, vt, st))) true) (s.hardFault c vt st cECC off 0))) ∧
    (∀ va, isDepotId id = false → steps (.eccError (.far pa va id) true)
      ((s.lineFailed (pa / 64)).tileVote id.cor id.vt (s.strand id).stage (tileTrap id.vt cECC (BitVec.ofNat 64 va) false false)) ∧
      KMap.get? (s.lineFailed (pa / 64)).far.faulty (pa / 64) = some (match KMap.get? s.far.faulty (pa / 64) with
        | none => .failed
        | some .failed => .failed
        | some _ => .again)) ∧
    steps (.eccError (.regs id) true) (charged id cECC 0) ∧
    steps (.parityError (.pcQueue id)) (charged id cSOFT 64) ∧ steps (.parityError (.engine id)) (charged id cSOFT 64) ∧
    (∃ u, steps (.parityError (.junction die)) u ∧
      ∀ x ∈ s.stagesAt (fun p => tileDie p == die || decide (4 ≤ die)), (s.stage x.1 x.2.2).decision = none →
        (u.stageTile x.1 x.2.1 x.2.2).tileCause =
          some ((s.stageTile x.1 x.2.1 x.2.2).tileCause.getD (tileTrap x.2.1 cSOFT 0 false false))) ∧
    (KMap.get? s.far.faulty (pa / 64) ≠ some .again ∨ s.allStopped pa = false ∨ s.held (pa / 4096) = true →
      steps (.lineRetire pa) s) ∧
    (KMap.get? s.far.faulty (pa / 64) = some .again → s.allStopped pa = true → s.held (pa / 4096) = false →
      ∃ u, steps (.lineRetire pa) u ∧ u.far.mem = s.far.mem ∧ { u with far := s.far } = s ∧
        u.far.faulty = KMap.erase s.far.faulty (pa / 64) ∧
        ((s.far.retired.filter fun f => homeDie s (4096 * f) == homeDie s pa).length < s.depot.table.spares →
          u.far.retired = s.far.retired ++ [pa / 4096] ∧ u.far.lost = s.far.lost ∧
          ∀ i, i < 8 → 64 * (pa / 64) + 8 * i ∈ u.far.poison) ∧
        (s.depot.table.spares ≤ (s.far.retired.filter fun f => homeDie s (4096 * f) == homeDie s pa).length →
          u.far.lost = s.far.lost ++ [(pa / 4096, 1)])) ∧
    (∃ u, steps .suspicionDecay u ∧ { u with tiles := s.tiles } = s ∧
      ∀ p, u.tile p = { s.tile p with score := (s.tile p).score - 1 }) ∧
    (1024 ≤ t.score ∨ t.closed = true → t.fenced = false → t.testing = false →
      steps (.tileWithdraw tile)
        ((s.setTile tile { t with closed := true, testing := (s.corridorsOn fun p => p == tile).isEmpty }).drainOn
          fun p => p == tile)) ∧
    (t.testing = true →
      steps (.targetedTest tile true) (s.setTile tile { t with score := t.score / 2, closed := false, testing := false }) ∧
      steps (.targetedTest tile false) (s.setTile tile { t with fenced := true, testing := false })) ∧
    (let b := k.birth.getD birth
     let age := if b = 0 then 0 else 100 * (b - count) / b
     (age ≤ 4 → steps (.ageingMonitorRead die cl birth count) (s.setCluster die cl { k with age, birth := some b })) ∧
     (4 < age → steps (.ageingMonitorRead die cl birth count)
       ((s.setCluster die cl { k with age, birth := some b, fenced := true }).fenceTiles (clusterTiles die cl)))) ∧
    (let mgmt := k.power + k.current + if k.hot then 1 else 0
     s.quietCluster die cl = true →
       steps (.clockStepApply die cl) (s.setCluster die cl { k with step := min 8 (max k.age mgmt), gated := decide (8 < mgmt) })) ∧
    (s.quietCluster die cl = false → steps (.clockStepApply die cl) s) ∧
    (k.step ≠ k.target →
      steps (.clockStepTimeout die cl) (s.drainOn fun p => tileDie p == die && clusterOf p == cl)) ∧
    (1950 < watts → ∃ u, steps (.modulePowerEvent watts) u ∧ u.power = { s.power with moduleStepped := true } ∧
      { u with dies := s.dies, power := s.power } = s ∧
      ∀ e j, e < 4 → j < 9 →
        let x := s.cluster e j
        u.cluster e j = { x with power := x.power + 1, gated := x.gated || decide (8 < x.mgmt + 1) }) ∧
    (watts < 1850 → s.power.moduleStepped = true → ∃ u, steps (.modulePowerEvent watts) u ∧
      ∀ e j, e < 4 → j < 9 →
        let x := s.cluster e j
        (u.cluster e j).power = x.power - 1 ∧ (u.cluster e j).current = x.current ∧ (u.cluster e j).hot = x.hot) ∧
    (1850 ≤ watts → watts ≤ 1950 → steps (.modulePowerEvent watts) s) ∧
    (3800 < amps → die < 4 → ∃ u, steps (.coreCurrentEvent amps die) u ∧ u.power.coreStepped = true ∧
      u.power.gatedAll = (s.power.gatedAll || decide (4000 < amps)) ∧ { u with dies := s.dies, power := s.power } = s ∧
      ∀ j, j < 9 → u.cluster die j = { s.cluster die j with current := (s.cluster die j).current + 1, gated := true }) ∧
    (125 ≤ celsius → steps (.thermalEvent die cl celsius)
      { s.haltAll cLINK with power := { (s.haltAll cLINK).power with removed := true } }) ∧
    (105 ≤ celsius → celsius < 110 → k.hot = false → die < 4 →
      ∃ u, steps (.thermalEvent die cl celsius) u ∧ u.cluster die cl = { k with hot := true, gated := true } ∧
        u.power.removed = s.power.removed ∧ (die, cl) ∉ u.power.gatedCluster)

/-- R14, R374, R376 to R379: what boot keeps and what it starts, the depot's timer, and the course of a die's offline.
Where the spec leaves a point open this is the model's choice: assumptions 28, 42, 45, 66, 67, 91 and 93. -/
def Obligations.DepotEvents : Prop :=
  ∀ (s : State) (b : BootInput) (id : StrandId) (cause : BitVec 8) (addr : Word) (die phase seq tile : Nat) (value : Word),
    let x := s.strand id
    let o := s.depot.offline
    (∃ u, exec (.boot b) s = .next u ∧ u.clock = s.clock ∧ u.agenda = s.agenda ∧ u.far = State.reset.far ∧
      u.corridors = [] ∧ u.stages = [] ∧ u.host = State.reset.host ∧ u.power = State.reset.power ∧
      u.fabric.epoch = (s.fabric.epoch + 1) % 65536 ∧ u.depot.firewall = ⟨true, true, true, true, 0⟩ ∧
      u.depot.images = [] ∧ u.depot.flash = s.depot.flash ∧ u.depot.store = s.depot.store ∧
      u.depot.keyHash = b.keyHash ∧ u.depot.identity = b.identity ∧
      (let t := Table.ofBytes b.table
       let dies := bootDies b s.depot.counter t.version
       let cols := depotColumns t (partSites b)
       let good := (dies.filter Prod.fst).length
       u.depot.columns = cols.getD [] ∧
       ((∀ d ∈ dies, d.2 = false) → u.depot.booted = some 0x05) ∧
       ((∃ d ∈ dies, d.2 = true) → tableOk b.table = false → u.depot.booted = some 0x06) ∧
       ((∃ d ∈ dies, d.2 = true) → tableOk b.table = true →
         ((dies.getD 0 (false, false)).1 = false → u.depot.booted = some 0x03) ∧
         ((dies.getD 0 (false, false)).1 = true →
           (good < 4 → t.degradedOk = false → u.depot.booted = some 0x02) ∧
           (good = 4 → cols = none → u.depot.booted = some 0x04) ∧
           (good = 4 → cols ≠ none → u.depot.booted = some 0x00 ∧
             ∀ d, d < 4 → (u.die d).fenced = false))))) ∧
    (isDepotId id = true → x.status = .running →
      exec (.depotException id cause addr) s = .next (s.depotRaise id cause addr).depotFailed) ∧
    (isDepotId id = true → x.depot.dtm = 1 → exec (.dtmExpire id) s =
      .next (s.onStrand id fun y => { y with depot := { y.depot with dtm := 0, evt := y.depot.evt ||| 4 } })) ∧
    (bit value 3 = false → exec (.oflReq value) s = .next s) ∧
    (bit value 3 = true → o.active = none →
      exec (.oflReq value) s = .next ((s.depotEvent 4).beginOffline (bits value 1 0) (bit value 2)) ∧
      exec (.dieControllerFailure die) s = .next (s.beginOffline die true)) ∧
    (∀ d, o.active = some (d, false) → o.phase = 1 →
      (s.fitsWithout d = true → exec (.dieOffline 1) s = .next ((s.drainDie false d).onOffline fun o => { o with phase := 2 })) ∧
      (s.fitsWithout d = false → exec (.dieOffline 1) s = .next (s.endOffline 3))) ∧
    (∀ d, o.active = some (d, false) → o.phase = 2 → s.cleared d = true →
      exec (.dieOffline 2) s = .next (s.evacuateNext d) ∧
      (s.pagesOn d ≠ [] → exec (.dieOffline (4 + tile)) s = .next (s.suspect tile 256))) ∧
    (∀ d f, o.active = some (d, f) → o.phase = phase → phase ≠ 1 → phase < 4 → s.cleared d = false →
      exec (.dieOffline phase) s = .next (s.drainDie f d)) ∧
    (∀ d, o.active = some (d, false) → o.phase = 3 → s.cleared d = true →
      exec (.dieOffline 3) s =
      .next (((s.setDie d { s.die d with fenced := true, draining := false }).awaitBarriers
        ((s.corridors.filter fun p => p.2.live).map Prod.fst)).endOffline 2)) ∧
    (∀ d f, o.active = some (d, f) → o.phase ≠ phase → phase < 4 → exec (.dieOffline phase) s = .next s) ∧
    (∀ e, o.notices.find? (fun e => e.1 == seq) = some e →
      ∃ u, exec (.rmpAck seq) s = .next u ∧ u.depot.offline.notices = o.notices.erase e) ∧
    ((∃ e ∈ o.notices, e.1 = seq) → exec (.rmpTimeout seq) s = .next (s.endOffline 3)) ∧
    (∀ d, o.active = some (d, false) → o.phase = 2 → s.cleared d = true → o.rmpHead.toNat = seq → s.ringFull d = true →
      (o.rmpBase ≠ 0 → s.imageOn d = none →
        exec (.dieOffline 2) s = .next (s.onOffline fun o => { o with left := min 65535 (s.pagesOn d).length })) ∧
      exec (.rmpTimeout seq) s = .next (s.endOffline 3))

/-! ### Events of host queues, corridors and the debugger -/

/-- R305 to R309, R313, R314, R318, R322: doorbells, the mapping of queues, the records taken from them, which wait for what a
peer has to be asked first, and the placing of a waiting launch.
Where the spec leaves a point open this is the model's choice: assumptions 26, 42, 52, 56, 83 and 88. -/
def Obligations.QueueEvents : Prop :=
  ∀ (s : State) (fn q n c : Nat),
    let k := s.queue q
    let u := s.depotEvent 0
    let v := (u.noteReads u.pfPasid none (u.queueVa q) 64).setQueue q { k with rung := false }
    let tail := v.queueWord q 1
    let room := s.tableUsed < 256
    let quiet := ∀ p ∈ s.host.queues, p.2.rung = false
    (1024 ≤ q ∨ k.owner ≠ fn → exec (.doorbell fn q) s =
      .next { s with host := { s.host with droppedDoorbells := s.host.droppedDoorbells + 1 } }) ∧
    (q < 1024 → k.owner = fn → k.disabled = false → u.queueAway q = true →
      exec (.doorbell fn q) s = .next ((u.setQueue q { k with rung := true }).askQueue q)) ∧
    (q < 1024 → k.owner = fn → k.disabled = false → u.queueAway q = false →
      (bit (v.queueWord q 3) 48 = true → exec (.doorbell fn q) s = .next v.forgetQueue) ∧
      (bit (v.queueWord q 3) 48 = false →
        (bits (v.queueWord q 4) 38 32 ≠ fn → exec (.doorbell fn q) s = .next (v.ringFault q cPROT).forgetQueue) ∧
        (bits (v.queueWord q 4) 38 32 = fn →
          (tail = v.queueWord q 2 → exec (.doorbell fn q) s = .next v.forgetQueue) ∧
          (tail ≠ v.queueWord q 2 → k.pending = false → k.mapped = false →
            exec (.doorbell fn q) s = .next (v.makePending q tail).forgetQueue ∧
            ((v.makePending q tail).forgetQueue.queue q).pending = true ∧
            ((v.makePending q tail).forgetQueue.queue q).tail = tail)))) ∧
    (∀ p, (s.host.queues.filter fun p => p.2.rung).find? (fun p => !s.queueAway p.1) = some p →
      exec .queueMap s = .next (s.lookAt p.1)) ∧
    (quiet → s.firstQueue Queue.mapped = some q → room →
      (s.queueAway q = true → exec .queueMap s = .next (s.askQueue q)) ∧
      (s.queueAway q = false →
        exec .queueMap s = .next (((s.noteReads s.pfPasid none (s.queueVa q) 64).takeHead q).forgetQueue))) ∧
    (quiet → s.firstQueue Queue.mapped = none → s.firstQueue Queue.pending = some q →
      (s.host.queues.filter fun p => p.2.mapped).length < 64 → s.queueAway q = false →
      (k.disabled = true ∨ bit (s.queueWord q 4) 31 = false →
        exec .queueMap s = .next (s.setQueue q { k with pending := false }).forgetQueue) ∧
      (k.disabled = false → bit (s.queueWord q 4) 31 = true →
        let v := s.setQueue q { k with pending := false, mapped := true }
        (room → exec .queueMap s = .next (v.takeRecord q)) ∧ (¬ room → exec .queueMap s = .next v))) ∧
    (k.mapped = true → ∃ t, exec (.queueSlotTimeout q) s = .next t ∧ (t.queue q).mapped = false ∧
      (t.queue q).pending = true ∧ ∀ r, r ≠ q → t.queue r = s.queue r) ∧
    (∀ t, s.host.taken[n]? = some t →
      let w (i : Nat) : Word := t.words.getD i 0
      let kind := bits (w 0) 7 0
      let cor := bits (w 0) 63 32
      let v := (s.dropTaken n).forgetPages t.pasid
      (kind ≠ 2 → kind ≠ 3 →
        (∀ code, s.launchCheck t = .error (.refuse code) → exec (.launch n) s = .next (v.refuse t code)) ∧
        (∀ a, s.launchCheck t = .error (.ask a) → exec (.launch n) s = .next (s.ask a)) ∧
        (∀ im, s.launchCheck t = .ok im →
          ∃ r, exec (.launch n) s = .next r ∧ (r.cor cor).state = .waiting ∧ (r.cor cor).image = im ∧
            (r.cor cor).record = t.words ∧ (r.cor cor).queue = t.queue ∧ (r.cor cor).pasid = t.pasid ∧
            (r.cor cor).fn = t.fn ∧ (r.cor cor).ctx = t.ctx ∧ (r.cor cor).serial = t.order ∧
            (r.cor cor).priority = min (bits (w 0) 20 19) t.qprio ∧ (∀ e, e ≠ cor → r.cor e = s.cor e) ∧
            r.host.taken = listRemove s.host.taken n ∧ r.fabric = v.fabric ∧
            (∀ d, { r.die d with counters := (s.die d).counters } = s.die d) ∧
            { r with corridors := s.corridors, host := s.host, fabric := s.fabric, dies := s.dies } = s)) ∧
      (kind = 2 →
        let check := s.requestCheck t fun x => x == .running || x == .stopping || x == .swapped || x == .exported
        let mode := bits (w 1) 1 0
        (∀ code, check = .error (.refuse code) → exec (.preempt n) s = .next (v.refuse t code)) ∧
        (∀ a, check = .error (.ask a) → exec (.preempt n) s = .next (s.ask a)) ∧
        (check = .ok () → (s.cor cor).live = true → exec (.preempt n) s = .next
          (v.request cor ⟨mode == 1, mode == 2, min (bits (w 0) 20 19) t.qprio, some t, s.clock, false⟩)) ∧
        (check = .ok () → (s.cor cor).live = false → exec (.preempt n) s = .next (v.preemptStopped cor t (mode == 2)))) ∧
      (kind = 3 →
        let check := s.requestCheck t fun x => x == .swapped || x == .exported
        (∀ code, check = .error (.refuse code) → exec (.resume n) s = .next (v.refuse t code)) ∧
        (∀ a, check = .error (.ask a) → exec (.resume n) s = .next (s.ask a)) ∧
        (check = .ok () → ∃ r, exec (.resume n) s = .next r ∧ (r.cor cor).hostHeld = false ∧
          (r.cor cor).resumeReqs = (s.cor cor).resumeReqs ++ [t] ∧ ∀ e, e ≠ cor → r.cor e = s.cor e))) ∧
    ((s.cor c).state = .waiting → KMap.get? s.corridors c ≠ none → (s.cor c).completion = none → s.overtaken c = false →
      (∀ place, s.findPlace c (s.cor c) = some place → exec (.launchPlace c) s = .next (s.launchOn c place)) ∧
      (s.findPlace c (s.cor c) = none → exec (.launchPlace c) s = .next (s.pressFor (s.cor c).priority)))

/-- R308, R320, R322 to R325, R339, R340: slices, escalation, immediate and kill requests, swapping out, resumption and
migration. R343 to R345: a host halt needs the launch record's debug bit; the debugger writes a halted strand's registers with derived
residues and its position, lets it execute one instruction, and resumes the corridor; a strand that steps through a barrier
goes on stepping.
Where the spec leaves a point open this is the model's choice: assumptions 32, 42, 49, 55, 57, 58, 93 and 95. -/
def Obligations.CorridorControl : Prop :=
  (∀ (s : State) (c : Nat) (place : List Nat),
     let k := s.cor c
     let steps (i : Instr) (t : State) : Prop := exec i s = .next t
     (k.alternate = true → k.live = true → k.requests = [] →
       ((∃ r ∈ s.rivals c, (s.cor r).state = CorState.swapped ∧ (s.cor r).hostHeld = false) →
         ∃ t, steps (.sliceExpiry c) t ∧ (t.cor c).state = .stopping ∧
           ∃ r, (t.cor c).requests = [r] ∧ r.immediate = false ∧ r.kill = false ∧ r.cls = 0 ∧ r.record = none) ∧
       ((∀ r ∈ s.rivals c, (s.cor r).state ≠ .swapped) → steps (.sliceExpiry c) s)) ∧
     (bits (k.word 1) 15 8 = 0 → steps (.drainTimeout c) s) ∧
     (bits (k.word 1) 15 8 ≠ 0 → ∃ t, steps (.drainTimeout c) t ∧ t.cor c = { k with requests := k.requests.map fun r =>
         (if r.kill = true ∨ (k.guards r.cls) = true then r else { r with immediate := true }) } ∧
       (∀ e, e ≠ c → t.cor e = s.cor e) ∧ { t with corridors := s.corridors } = s) ∧
     ((∀ r ∈ k.requests, r.immediate = false) → steps (.immediatePreempt c) s) ∧
     ((∃ r ∈ k.requests, r.immediate = true) → k.live = true →
       (∃ st, st < k.image.stages ∧ (s.stage c st).ended = false ∧ (s.stage c st).undecided = true) →
       ∃ t g, steps (.immediatePreempt c) t ∧ (t.cor c).guardClass = some g ∧ ∀ r ∈ k.requests, r.immediate = true → r.cls ≤ g) ∧
     (k.live = true → (∃ r ∈ k.requests, r.kill = true) → steps (.kill c) (s.killNow c) ∧
       (((s.finishDecided c).ending c).isSome = false →
         ((s.killNow c).cor c).state = .killed ∧ ((s.killNow c).cor c).completion = some (completionWords 3 0 0 0 0))) ∧
     (k.state = .stopping → s.stoppedAll c = true → s.ending c = none → s.settled c = true →
       (∀ r ∈ k.requests, r.kill = false) →
       ∃ t, steps (.swapOut c) t ∧ (t.cor c).state = .swapped ∧ (t.cor c).requests = [] ∧
         ((t.cor c).hostHeld = true ↔ ∃ r ∈ k.requests, r.record.isSome = true)) ∧
     (k.state = .swapped → k.resumeReqs = [] → s.settled c = true →
       (s.wantsTiles c = true → steps (.swapOut c) (s.export_ c) ∧
         (s.takeImage c = none → s.export_ c = s) ∧
         (s.takeImage c ≠ none → ((s.export_ c).cor c).state = .exported ∧
           (∀ p ∈ (s.export_ c).strands, p.1.cor ≠ c) ∧ ∀ p ∈ (s.export_ c).stageTiles, p.1.1 ≠ c)) ∧
       (s.wantsTiles c = false → steps (.swapOut c) s)) ∧
     (k.hostHeld = true ∨ s.awaitsOffline c = true → steps (.corridorResume c place) s) ∧
     (k.hostHeld = false → s.awaitsOffline c = false → k.state = .swapped → s.outrun c = false → s.givesWay c = false →
       (s.wantsTiles c = false ∨ k.resumeReqs ≠ []) →
       steps (.corridorResume c place) (s.revive c) ∧
       (s.lightway.failedPairs = [] → ((s.revive c).cor c).state = .running)) ∧
     (k.hostHeld = false → s.awaitsOffline c = false → k.state = .exported → s.overtaken c = false →
       (∀ p, s.findPlace c k = some p → steps (.corridorResume c []) (s.importOn c p)) ∧
       (place ≠ [] → s.placeOk c k place = true → steps (.corridorResume c place) (s.importOn c place))) ∧
     (k.state = .swapped → s.settled c = true → s.placeOk c k place = true →
       let u := s.requeue c
       let loads := k.ownVts.map (u.carry c)
       steps (.migration c place) ((((List.range loads.length).foldl (fun t i =>
         match loads[i]? with | some x => t.setDown c x (place.getD i 0) | none => t) (u.unplaced c)).alternate c).requestCircuits
           (distinct (place.map (· / 144)))).haltFailed)) ∧
  (∀ (s : State) (c : Nat) (id : StrandId) (r : Reg) (dr : BitVec 4) (pr : BitVec 3) (w : Word) (l : Line) (bs : List Byte)
       (a b e : Word) (m : BitVec 2) (n : BitVec 8),
     let x := s.strand id
     let sets (i : Instr) (y : Strand) : Prop :=
       ∃ t, exec i s = .next t ∧ t.strand id = y ∧ (∀ j, j ≠ id → t.strand j = s.strand j) ∧ { t with strands := s.strands } = s
     let ok (p : Word) : Prop := p.toNat % 2 = 0 ∧ p.toNat < (s.cor id.cor).codeLen
     ((s.cor c).debug = true → (s.cor c).live = true → exec (.hostHaltRequest c) s = .next ((s.debugHalt c []).depotEvent 4) ∧
       ((s.debugHalt c []).cor c).haltedBy = true) ∧
     ((s.cor c).debug = false → exec (.hostHaltRequest c) s = .next s) ∧
     (x.status ≠ .halted → ∀ w, exec (.debugStateWrite id w) s = .next s) ∧
     (x.status = .halted →
       sets (.debugStateWrite id (.s r w)) (x.putS r w (residue w)) ∧ sets (.debugStateWrite id (.v r l)) (x.putV r l) ∧
       sets (.debugStateWrite id (.d dr bs)) (x.putD dr (bytesDist bs)) ∧ sets (.debugStateWrite id (.p pr w)) (x.putP pr w) ∧
       sets (.debugStateWrite id (.annul m)) { x with annul := m } ∧
       (ok a → ok b → ok e → sets (.debugStateWrite id (.pcs a b e)) { x with pc0 := a, pc1 := b, pc2 := e, rep := none, slots := 0 }) ∧
       (¬ (ok a ∧ ok b ∧ ok e) → exec (.debugStateWrite id (.pcs a b e)) s = .next s) ∧
       (n ∉ [8, 9, 10, 11, 12, 13, 16] → exec (.debugStateWrite id (.csr n w)) s = .next s) ∧
       (n = 16 →
         sets (.debugStateWrite id (.csr n w)) { x with ctl := { x.ctl with dsc := (x.ctl.dsc &&& ~~~3) ||| (w &&& 3) } }) ∧
       sets (.singleStep id) { x with status := .running, stepping := true, halting := false, haltCode := none }) ∧
     (x.status ≠ .halted → exec (.singleStep id) s = .next s) ∧
     ((s.cor c).haltedBy = false → (∀ p ∈ s.strands, p.1.cor = c → p.2.status ≠ .halted) → exec (.debugResume c) s = .next s) ∧
     ((s.cor c).haltedBy = true ∨ (∃ p ∈ s.strands, p.1.cor = c ∧ p.2.status = .halted) →
       ∃ t, exec (.debugResume c) s = .next t ∧ (t.cor c).haltedBy = false ∧
       (∀ p ∈ t.strands, p.1.cor = c → p.2.status ≠ .halted ∧ p.2.halting = false ∧
         (p.2.status = .arriving ∨ p.2.status = .arrived ∨ p.2.stepping = false)) ∧
       (x.status = .arriving ∨ x.status = .arrived → (t.strand id).stepping = x.stepping) ∧
       (∀ j, j.cor ≠ c → t.strand j = s.strand j) ∧ { t with strands := s.strands, corridors := s.corridors } = s))

/-! ### Events of circuits, links and other packages -/

/-- R347, R348, R352, R353, R355 to R357, R360: the connection table, whose changes wait for a barrier, and lost circuits,
flits and lanes, the requester's and the responder's side of a transaction, and Ultra Ethernet messages.
Where the spec leaves a point open this is the model's choice: assumptions 18, 24, 25, 42, 60, 62, 63, 86 and 87. -/
def Obligations.FabricEvents : Prop :=
  ∀ (s : State) (n lane pkg tag inc q : Nat) (value : BitVec 32) (bs : List Byte) (r : FabricReq) (y : FabricRep) (acked : Bool),
    let old := s.circuit n
    let p := s.port n
    let f := s.fabric
    let wire (t : State) : Prop := { t with lightway := s.lightway } = s
    let link (t : State) : Prop := { t with fabric := s.fabric } = s
    let new : Circuit := { old with
      src := if n < 16 then old.src else value.extractLsb' 0 2, dst := if n < 16 then old.dst else value.extractLsb' 2 2
      valid := value.getLsbD 4 }
    (1024 ≤ n ∨ 16 ≤ n ∧ new.src = new.dst → exec (.connectionTableWrite n value) s = .next s) ∧
    (n < 1024 → (n < 16 ∨ new.src ≠ new.dst) →
      ∃ t, exec (.connectionTableWrite n value) s = .next t ∧ wire t ∧ t.lightway.circuits = s.lightway.circuits ∧
        (s.standingBut depotCor 0 = false → KMap.get? t.lightway.pending n = some new ∧
          t.lightway.retuning = s.lightway.retuning) ∧
        (s.standingBut depotCor 0 = true → t.lightway.pending = [] ∧
          (s.lightway.pending = [] → KMap.get? t.lightway.retuning n = some new))) ∧
    (∀ e, KMap.get? s.lightway.retuning n = some e →
      ∃ t, exec (.retuningComplete n) s = .next t ∧ wire t ∧
        ∃ z, KMap.get? t.lightway.circuits n = some z ∧ z.src = e.src ∧ z.dst = e.dst ∧ z.valid = e.valid ∧
          ((KMap.getD s.lightway.circuits n (bootCircuit s n)).state = 2 → z.state = 2) ∧
          ((KMap.getD s.lightway.circuits n (bootCircuit s n)).state ≠ 2 → z.state = if e.valid then 1 else 0)) ∧
    (16 ≤ n → n < 1024 → old.state ≠ 2 →
      ∃ t, exec (.circuitLockLoss n) s = .next t ∧ wire t ∧ KMap.get? t.lightway.circuits n = some { old with state := 2 } ∧
        t.lightway.standIn = s.lightway.standIn) ∧
    (∀ x, n < 12 → old.state ≠ 2 → s.spare = some x →
      ∃ t, exec (.circuitLockLoss n) s = .next t ∧ wire t ∧ KMap.get? t.lightway.circuits n = some { old with state := 2 } ∧
        KMap.get? t.lightway.standIn n = some x) ∧
    (let good := bs.length = 256 ∧ recordField bs 232 8 = (crc64 0 (bs.take 232)).toNat ∧
        bits (BitVec.ofNat 64 (recordField bs 0 8)) 31 8 = p.expect
     n < 18 → p.down = false →
      (p.retraining = true ∨ ¬ good → exec (.flitReceive n bs) s = .next (s.setPort n { p with replays := p.replays + 1 })) ∧
      (p.retraining = false → good → exec (.flitReceive n bs) s = .next (s.setPort n
        { p with expect := (p.expect + 1) % 2 ^ 24
                 received := p.received ++ [(recordField bs 0 1 % 4, (bs.drop 8).take 224)] }))) ∧
    (n < 18 → lane < 8 → lane ∉ p.failed → p.down = false →
      ∃ t, exec (.laneFailure n lane) s = .next t ∧ link t ∧ (t.port n).failed = p.failed ++ [lane] ∧
        (widthOf (p.failed ++ [lane]) = 0 → (t.port n).down = true ∧ (t.port n).width = 0) ∧
        (widthOf (p.failed ++ [lane]) ≠ 0 → (t.port n).retraining = true ∧ (t.port n).down = false ∧
          ∀ m, m ≠ n → t.port m = s.port m) ∧
        ∀ m, m ≠ n → (t.port m).down = (s.port m).down ∧ (t.port m).failed = (s.port m).failed) ∧
    (p.retraining = true → exec (.retrainComplete n) s =
      .next (s.setPort n { p with retraining := false, width := widthOf p.failed }.flush)) ∧
    (let dup := f.dups.find? fun d => d.src == r.src && d.tag == r.tag && d.inc == r.inc
     let once := r.kind = .wr ∨ r.kind = .amo ∨ r.kind = .drain
     let window := (f.retries + 1) * f.timeoutUs + 2 * f.flightUs
     let acts (t : State) : Prop := exec (.fabricRequest r) s = .next t
     let reply (st : FabricStatus) (d : List Byte) : FabricRep := ⟨r.src, r.tag, r.inc, st, f.epoch, d, f.route⟩
     let sends (st : FabricStatus) (d : List Byte) : State := s.sendReply (reply st d)
     (∀ d, once → dup = some d → acts (s.sendReply { d.reply with port := f.route })) ∧
     (¬ once ∨ dup = none →
       (window < r.age ∨ r.epoch ≠ f.epoch → acts (sends .stale [])) ∧
       (r.age ≤ window → r.epoch = f.epoch →
         (once → 16384 ≤ f.dups.length → acts (sends .busy [])) ∧
         (¬ once → acts ((s.serve r).1.sendReply ((s.serve r).1.replyTo r (s.serve r).2.1 (s.serve r).2.2))) ∧
         (r.kind = .rd → r.va < 2 ^ 62 → r.op = 0 →
           (poisoned s.far.poison r.va r.size = true → acts (sends (.cause cECC) [])) ∧
           (poisoned s.far.poison r.va r.size = false → acts (sends .ok (Mem.readN s.far.mem r.va r.size)))) ∧
         (r.kind = .wr → r.va < 2 ^ 62 → r.op = 0 → dup = none → f.dups.length < 16384 →
           ∃ t, acts t ∧ t.far = (s.farWrite r.va r.data).far ∧
             t.fabric.dups = f.dups ++ [⟨r.src, r.tag, r.inc, reply .ok []⟩] ∧
             t.fabric.sentReplies = f.sentReplies ++ [reply .ok []] ∧
             { t with far := s.far, fabric := s.fabric } = s)))) ∧
    (let hit := f.open_.find? fun t => t.pkg == y.pkg && t.tag == y.tag && t.inc == y.inc
     (hit = none → ∃ t, exec (.fabricReply y) s = .next t ∧ link t ∧
       (t.port y.port).late = (s.port y.port).late + 1 ∧ (∀ m, m ≠ y.port → t.port m = s.port m) ∧ t.fabric.open_ = f.open_) ∧
     (∀ e, hit = some e →
       let u := (s.closeTrans e).onFabric fun b => { b with epochs := KMap.set b.epochs y.pkg y.epoch }
       (y.status = .busy → exec (.fabricReply y) s = .next s) ∧
       (y.status = .stale → exec (.fabricReply y) s = .next (u.lost e cSTALE).releaseFrames.flushWaiting) ∧
       (y.status ≠ .busy → y.status ≠ .stale → exec (.fabricReply y) s = .next (u.answered e y).releaseFrames.flushWaiting))) ∧
    (∀ e, s.openAt pkg tag = some e →
      (e.attempt < f.retries → exec (.fabricAttemptTimeout pkg tag) s =
        .next (s.sendAgain e { e with attempt := e.attempt + 1, age := min 65535 (e.age + f.timeoutUs) })) ∧
      exec (.busyRetry pkg tag) s = .next (s.sendAgain e { e with age := min 65535 (e.age + 1) }) ∧
      (f.retries ≤ e.attempt → exec (.fabricAttemptTimeout pkg tag) s = .next
        (((s.closeTrans e).onFabric fun b => { b with quarantine := b.quarantine ++ [(pkg, tag)] }).lost e cTIMEOUT).flushWaiting)) ∧
    (s.openAt pkg tag = none → exec (.busyRetry pkg tag) s = .next s ∧ exec (.fabricAttemptTimeout pkg tag) s = .next s) ∧
    (∃ t, exec (.tagQuarantineEnd pkg tag) s = .next t ∧ (s.host.waiting = [] → s.host.notes = [] → s.host.inbound = [] → f.writes = [] → link t) ∧
      (pkg, tag) ∉ t.fabric.quarantine ∧
      ∀ x, x ≠ (pkg, tag) → (x ∈ t.fabric.quarantine ↔ x ∈ f.quarantine)) ∧
    (∃ t, exec (.duplicateEntryExpire pkg tag inc) s = .next t ∧ link t ∧
      ∀ d, d ∈ t.fabric.dups ↔ d ∈ f.dups ∧ ¬ (d.src = pkg ∧ d.tag = tag ∧ d.inc = inc)) ∧
    (s.host.inbound = [] → KMap.getD s.host.recvBuffers q [] = [] → exec (.ueInboundMessage q bs) s =
      .next { s with host := { s.host with droppedMessages := s.host.droppedMessages + 1 } }) ∧
    (∀ fn va rest, s.host.inbound = [] → KMap.getD s.host.recvBuffers q [] = (fn, va) :: rest →
      let v := s.onHost fun h => { h with inbound := [(q, bs)] }
      (∀ a, v.mappedWritable (s.fnPasid fn) none va bs.length true = .error a → exec (.ueInboundMessage q bs) s = .next (v.ask a)) ∧
      ∀ u, v.mappedWritable (s.fnPasid fn) none va bs.length true = .ok true →
        v.writePages (s.fnPasid fn) (bs.length / 4096 + 2) va bs = some u →
        exec (.ueInboundMessage q bs) s = .next (((u.onHost fun h => { h with recvBuffers := KMap.set h.recvBuffers q rest }).forgetPages
          (s.fnPasid fn)).onHost fun h => { h with inbound := [] })) ∧
    (let k := KMap.getD s.host.sendQueues q SendQueue.reset
     let pasid := s.fnPasid k.owner
     let at_ := k.ring + 16 * (k.reports % 256)
     ∀ m rest, k.inflight = m :: rest →
      ∃ t, exec (.ueMessageDone q acked) s = .next t ∧
        (KMap.getD t.host.sendQueues q SendQueue.reset).inflight = rest ∧
        (acked = true → (KMap.getD t.host.sendQueues q SendQueue.reset).reports = k.reports ∧ { t with host := s.host } = s) ∧
        (acked = false → (KMap.getD t.host.sendQueues q SendQueue.reset).reports = k.reports + 1 ∧
          ∀ e, s.apertureAt pasid at_ = none → walk s pasid none ⟨false, true, false⟩ at_ = .ok e →
            t.far = (s.farWrite (e.pa at_) (leBytes 8 1 ++ leBytes 8 m.number)).far ∧
              (∀ d, { t.die d with counters := (s.die d).counters } = s.die d) ∧
              { t with host := s.host, far := s.far, dies := s.dies } = s))

/-! ### Events of the host link and of translation -/

/-- R37, R41, R42, R64, R107, R350, R355, R361 to R363, R365, R380: walks and invalidations, BAR2 accesses with the host's
atomics, resets, answers to page faults, register writes and doorbells by address, and the survival layers.
Where the spec leaves a point open this is the model's choice: assumptions 23, 42, 57, 59, 64, 65, 76, 89, 90, 91 and 95. -/
def Obligations.HostLinkEvents : Prop :=
  ∀ (s : State) (die pasid va fn seq c vf i q serial mm : Nat) (a : Bar2) (w : Word),
    let d := s.die die
    let h := s.host
    let onlyHost (t : State) : Prop := { t with host := s.host } = s
    let acts (j : Instr) (t : State) : Prop := exec j s = .next t
    (s.pasidQuiet pasid = false → acts (.invalidationService pasid) s) ∧
    (s.pasidQuiet pasid = true → ∃ t, acts (.invalidationService pasid) t ∧
      (∀ p, ∀ e ∈ (t.tile p).tlb, e.pasid ≠ pasid) ∧ ∀ k, ∀ e ∈ (t.die k).l2, e.pasid ≠ pasid) ∧
    (d.walks.find? (fun x => !s.walkCut x.tile x.pasid x.ctx x.va) = none → acts (.walkComplete die) s) ∧
    (∀ x, d.walks.find? (fun x => !s.walkCut x.tile x.pasid x.ctx x.va) = some x → let r := d.walks.erase x
      (∀ e, walk s x.pasid x.ctx ⟨false, false, false⟩ x.va = .error e → acts (.walkComplete die) (s.setDie die { d with walks := r })) ∧
      (∀ e, walk s x.pasid x.ctx ⟨false, false, false⟩ x.va = .ok e → die < 4 →
        ∃ t, acts (.walkComplete die) t ∧ (t.die die).walks = r ∧ (t.die die).l2 = cacheAdd 4096 d.l2 e ∧
          (t.tile x.tile).tlb = cacheAdd 64 (s.tile x.tile).tlb e)) ∧
    (let pasid := s.fnPasid a.fn
     let answers (t : State) (b : Option (List Byte)) : List (Nat × Option (List Byte)) := t.host.answers ++ [(a.fn, b)]
     let fails (b : List (Nat × Option (List Byte))) : Prop := acts (.bar2Access a) { s with host := { h with
       failedAccesses := h.failedAccesses + 1, reported := h.reported ++ [(a.fn, a.va)], answers := b } }
     (∀ ap, s.apertureAt pasid a.va = some ap →
       acts (.bar2Access a) { s with host := { h with waiting := h.waiting ++ [(a, ap)] } }.flushBar2) ∧
     (s.apertureAt pasid a.va = none →
       (∀ bs, a.write = some bs →
         (∀ t, s.writePages pasid (bs.length / 4096 + 2) a.va bs = some t → acts (.bar2Access a) t) ∧
         (s.writePages pasid (bs.length / 4096 + 2) a.va bs = none → fails h.answers)) ∧
       (∀ m, a.write = none → a.atomic = some m →
         (∀ e, walk s pasid none ⟨false, true, false⟩ a.va = .ok e → frameLost s (e.pa a.va) = false →
           let r := s.atomicAt (e.pa a.va) a.size m.op m.operand m.compare
           acts (.bar2Access a) { r.1 with host := { r.1.host with answers := answers r.1 (some (leBytes a.size r.2.toNat)) } }) ∧
         (∀ e, walk s pasid none ⟨false, true, false⟩ a.va = .error e → fails (answers s none))) ∧
       (a.write = none → a.atomic = none →
         (∀ b, s.readVa pasid none a.va a.size = .ok b →
           acts (.bar2Access a) { s with host := { h with answers := answers s (some b) } }) ∧
         (∀ e, s.readVa pasid none a.va a.size = .error e → fails (answers s none))))) ∧
    (vf = 0 ∨ 64 < vf → acts (.functionLevelReset vf) s) ∧
    (1 ≤ vf → vf ≤ 64 → ∃ u : State, onlyHost u ∧ (∀ t ∈ u.host.taken, t.fn ≠ vf) ∧
      (∀ p ∈ u.host.queues, p.2.owner = vf → p.2.disabled = true ∧ p.2.pending = false ∧ p.2.mapped = false) ∧
      acts (.functionLevelReset vf) (((s.corridors.filter fun p => p.2.fn == vf).map Prod.fst).foldl State.killOf u)) ∧
    acts .pf0LinkReset (s.haltAll cLINK) ∧
    (∃ t, acts (.atsInvalidation pasid va) t ∧ onlyHost t ∧
      ∀ e, e ∈ t.host.atsCache ↔ e ∈ h.atsCache ∧ ¬ (e.pasid = pasid ∧ e.va ≤ va ∧ va < e.va + e.size)) ∧
    (∀ r, s.openRequest c = some r →
      acts (.pageRequestTimeout c) (s.requestFailed r) ∧ acts (.pageRequestResponse c false) (s.requestFailed r) ∧
      ∃ t, acts (.pageRequestResponse c true) t ∧ onlyHost t ∧ t.host.atsCache.length ≤ 256 ∧
        (∃ e ∈ t.host.atsCache, e.pasid = r.pasid ∧ e.va = r.page / 4096 * 4096) ∧
        (c ≤ depotCor ∨ peerAsker 0 ≤ c →
          t.host.pageRequests = h.pageRequests.map fun x => if x = r then { x with done := true } else x) ∧
        (depotCor < c → c < peerAsker 0 → t.host.pageRequests = h.pageRequests.erase r)) ∧
    (∀ r, h.faults.find? (fun r => r.fn == fn && r.written && !r.answered && r.seq == seq) = some r →
      acts (.frResp fn seq true) (s.failAsk r.cor r.st r.va) ∧
      ∃ t, acts (.frResp fn seq false) t ∧ onlyHost t ∧
        t.host.faults = h.faults.map fun x => if x = r then { x with answered := true } else x) ∧
    (∀ r, h.faults.find? (fun r => r.fn == fn && !r.answered && (!r.written || r.seq == seq)) = some r →
      acts (.frTimeout fn seq) (s.failAsk r.cor r.st r.va)) ∧
    (0 < fn → ∀ r ∈ [HostReg.queueOwner q, .functionPasid i, .packageNumber, .sendOwner q, .sendPort q, .sendOrdered q,
        .sendRing q, .sendHeader q i, .notifyPage i, .oflVec, .rmpBase, .rmpTail, .rootTable i, .stage2Table i,
        .keepImage c],
      acts (.registerWrite fn r w) s) ∧
    (fn ≠ depotFn → ∀ r ∈ [HostReg.retryTimeout, .retryCount, .flightTime], acts (.registerWrite fn r w) s) ∧
    (0 < fn → (s.func fn).pasid ≠ pasid →
      ∀ r ∈ [HostReg.apertureVa pasid i, .apertureSize pasid i, .aperturePkg pasid i, .aperturePasid pasid i,
        .apertureTarget pasid i], acts (.registerWrite fn r w) s) ∧
    (q < 1024 → acts (.registerWrite 0 (.bar0 (0x100000 + 64 * q)) w) (s.doorbell 0 q)) ∧
    (1 ≤ vf → vf ≤ 64 → i < 1024 → (s.owned vf)[i]? = some q → acts (.registerWrite vf (.bar0 (64 * i)) w) (s.doorbell vf q)) ∧
    (q < 1024 → w.toNat ≤ 64 → ∃ t, acts (.registerWrite 0 (.queueOwner q) w) t ∧ onlyHost t ∧
      (t.queue q).owner = w.toNat ∧ (t.queue q).disabled = false ∧ ∀ r, r ≠ q → t.queue r = s.queue r) ∧
    (i ≤ 64 → ∃ t, acts (.registerWrite 0 (.functionPasid i) w) t ∧ onlyHost t ∧ (t.func i).pasid = w.toNat % 2 ^ 20) ∧
    acts (.registerWrite 0 .packageNumber w) { s with fabric := { s.fabric with pkg := w.toNat % 256 } } ∧
    (8 ≤ w.toNat → w.toNat ≤ 1024 →
      acts (.registerWrite depotFn .retryTimeout w) { s with fabric := { s.fabric with timeoutUs := w.toNat } }) ∧
    (w.toNat < 8 ∨ 1024 < w.toNat → acts (.registerWrite depotFn .retryTimeout w) s) ∧
    (w.toNat ≤ 3 → acts (.registerWrite depotFn .retryCount w) { s with fabric := { s.fabric with retries := w.toNat } }) ∧
    (∃ t, acts (.registerWrite fn .frBase w) t ∧ onlyHost t ∧ (t.func fn).frBase = w &&& 0xFFFFFFFFFFFFF00F) ∧
    ((s.imagesOf c).find? (fun x => x.serial == serial) = none → acts (.flashLayerWrite c serial) s) ∧
    (∀ x, (s.imagesOf c).find? (fun x => x.serial == serial) = some x →
      ∃ t, acts (.flashLayerWrite c serial) t ∧ { t with depot := { t.depot with flash := s.depot.flash } } = s ∧
        t.depot.flash = (s.depot.flash.filter fun j => j.cor != c) ++ fromFull 1 (sortBy Survival.serial
          ((s.depot.flash.filter fun j => j.cor == c && j.serial != serial) ++ [{ x with broken := s.changedIn x }]))) ∧
    (∀ x, s.depot.flash.find? (fun x => x.cor == c && x.serial == w.toNat) = some x →
      ∃ t, acts (.registerWrite 0 (.keepImage c) w) t ∧ { t with depot := { t.depot with store := s.depot.store } } = s ∧
        t.depot.store = (s.depot.store.filter fun j => j.cor != c) ++ sortBy Survival.serial
          ((s.depot.store.filter fun j => j.cor == c && j.serial != w.toNat) ++ [x])) ∧
    (∃ t, acts (.replicaDigestRequest c mm) t ∧ { t with depot := { t.depot with replies := s.depot.replies } } = s ∧
      t.depot.replies = s.depot.replies ++
        [(c, mm, (s.depot.images.find? fun x => x.cor == c && (x.marks.headD 0).toNat == mm).map Survival.digests)])

/-! ### Decoding, the step, reset, and what every step keeps -/

/-- R147, R155, R321, R374, R377: one step takes the next event of the agenda, or stops where boot halted the package or the
power is gone, or, in three of four cycles (assumption 16), issues the instruction whose chain stands at PC0 of the strand
whose turn it is: it executes it, or only judges its position where it is annulled, and traps where the chain decodes to
none; an undecodable chain is illegal and one that ends with its code window a PROT.  A word that fails decoding raises
ILLEGAL, or PRIV where it names a depot instruction.
Where the spec leaves a point open this is the model's choice: assumption 10. -/
def Obligations.StepRunsDecoded : Prop :=
  ∀ (s u : State) (i : Instr) (r : List Instr) (id : StrandId) (b : BitVec 8),
    let t := s.issue id
    let word := decode (t.chainAt id t.me.pc0)
    (s.agenda = i :: r → isEvent i = true → exec i { s with agenda := r } = .next u → step s = .next (u.finishStep none)) ∧
    (s.agenda = [] → s.power.removed = true → step s = .fault .powerRemoved) ∧
    (s.agenda = [] → s.power.removed = false → s.depot.booted = none → step s = .next (s.finishStep none)) ∧
    (s.agenda = [] → s.power.removed = false → s.depot.booted = some b →
      (2 ≤ b.toNat → b.toNat ≤ 6 → step s = .fault (.bootHalted b)) ∧
      (b.toNat < 2 ∨ 6 < b.toNat → s.clock % 4 ≠ 3 → s.nextStrand = some id →
        (∀ n, word = .ok (i, n) → t.me.annul.getLsbD 0 = false → t.me.rep = none → exec i t = .next u →
          step s = .next (u.finishStep (some id))) ∧
        (∀ n, word = .ok (i, n) → t.me.annul.getLsbD 0 = false → exec (t.me.pass i) t = .next u →
          step s = .next (u.finishStep (some id))) ∧
        (∀ n, word = .ok (i, n) → t.me.annul.getLsbD 0 = true → step s = .next ((annulled i t).finishStep none)) ∧
        (∀ e, word = .error e → e ≠ .truncated → exec (.illegalDecode false) t = .next u →
          step s = .next (u.finishStep (some id))) ∧
        (word = .error .truncated → step s = .next ((raise cPROT t.me.pc0 false false t).finishStep none)))) ∧
    Traps (.illegalDecode false) s cILLEGAL 0 false ∧ Traps (.illegalDecode true) s cPRIV 0 false ∧
    (slotForbidden i = false → bodyForbidden i = false → Frame s (annulled i s) [] [] 0)

/-- R137 to R154: chains written out from the encoding tables decode to the instructions they stand for. -/
def Obligations.WordsDecode : Prop :=
  decode [0xFA26, 0xFB5E, 0xFADE, 0x65F0] = .ok (.li ⟨5, 0x9ABCDEF0⟩, 4) ∧
  decode [0xFC32, 0x6381] = .ok (.fcvt ⟨3, 4, 1, 2, 1⟩ ⟨false, false, false, false, 0⟩, 2) ∧
  decode [0xF8C0, 0xFBFD, 0x8986] = .ok (.ldD ⟨9, 20, -3, 3, false⟩, 3) ∧
  decode [0xF880, 0xFBFF, 0xC934] = .ok (.b { a := 9, cc := 1, n := true, off := -12 }, 3) ∧
  decode [0xFC4A, 0xF882, 0xFE80, 0x0CB8] = .ok (.vfma ⟨12, 5, 6, 2, 10⟩ ⟨false, true, false, false, 0⟩, 4) ∧
  decode [0xFC60, 0xF900, 0xFA02, 0x0165] = .ok (.vld ⟨17, 3, 2, 2, true⟩ 0, 4) ∧
  decode [0xFCE0, 0xF828, 0x3B05] = .ok (.amoiD ⟨3, 8, 9⟩ 0, 3) ∧
  decode [0xFC83, 0xF8A0, 0x198A] = .ok (.mmma ⟨9, 12, 2, 2, 3⟩, 3) ∧
  decode [0xFCA0, 0xF804, 0x1B2A] = .ok (.dmul ⟨3, 1, 2, 4⟩, 3) ∧
  decode [0xFCC0, 0xF8A0, 0x1422] = .ok (.qtm 12 9 2, 3) ∧
  decode [0xFD03, 0x0023] = .ok (.barEndr 1 3, 2) ∧
  decode [0xFD01, 0x20A5] = .ok (.csrw 0 5 9, 2) ∧
  decode [0xF800, 0xF800, 0x0000] = .error .prefixRun ∧ decode [0xFC40] = .error .truncated

/-- R137 to R154, R162: the chain of a well-formed instruction, with every operand at any value that its encoding admits,
decodes to that instruction and ends where it ends. -/
def Obligations.DecodeEncode : Prop :=
  ∀ (i : Instr) (rest : List Half), WellFormed.wf i = true → encode i ≠ [] → (encode i).length ≤ 5 →
    decode (encode i ++ rest) = .ok (i, (encode i).length)

/-- R102, R109, R110, R263, R264, R369, R374, R375: what reset leaves: strands with p0 all ones and everything else zero,
void distributions, control registers, counters and scores at 0, idle sequencer slots, a firewall that blocks.  That memory
reads as zero before anything is placed is the model's choice (assumption 3); no program runs before boot.
Where the spec leaves a point open this is the model's choice: assumption 41. -/
def Obligations.ResetState : Prop :=
  let s := State.reset
  Tidy s ∧ s.agenda = [] ∧ s.depot.booted = none ∧ (∀ d < 4, ∀ n < 16, (s.die d).counters.toList.getD n 1 = 0) ∧
  (∀ p, (s.tile p).score = 0 ∧ (s.tile p).mem = [] ∧ (s.tile p).lease = none ∧ (s.tile p).acc = []) ∧
  s.depot.firewall = ⟨true, true, true, false, 0⟩ ∧
  (∀ id, let x := s.strand id
    x.getP 0 = BitVec.allOnes 64 ∧ (∀ r, x.getS r = 0) ∧ (∀ r, x.getV r = 0) ∧ (∀ r, r ≠ 0 → x.getP r = 0) ∧
    (∀ r e, e < 8 → ((x.getD r).elem e) = DElem.void) ∧ x.ctl = Ctl.reset ∧ x.depot.est = 0 ∧ x.mailbox = [] ∧ x.fifo = []) ∧
  (∀ c vt k, ((s.vtile c vt).seq.slot k).status = 0 ∧ (s.vtile c vt).seq.configured = false) ∧
  (∀ c st, (s.stage c st).mm = 0) ∧ step s = .next { s with clock := 1 }

/-- Every step keeps the memories in canonical form: from any state in which they are, whatever event or instruction the
step takes. -/
def Obligations.StepKeepsTidy : Prop :=
  ∀ s t : State, Tidy s → step s = .next t → Tidy t
end

