-- ==== Sys2Proof/Laws/Encode.lean ====
section
/-! SUPPORT. What the decoder reads out of each shape of encoded chain, field by field, and that such a chain fits the words
that carry it. -/

namespace Sys2Proof
namespace Encode

theorem reg_join (a : Reg) : a.extractLsb' 3 2 ++ a.extractLsb' 0 3 = a := by
  apply BitVec.eq_of_getLsbD_eq
  intro i hi
  obtain rfl | rfl | rfl | rfl | rfl : i = 0 ∨ i = 1 ∨ i = 2 ∨ i = 3 ∨ i = 4 := by omega
  all_goals simp only [BitVec.getLsbD_append, BitVec.getLsbD_extractLsb']; simp

@[simp] theorem high1 (a b c : Reg) (m : BitVec 3) : (highBits a b c m).extractLsb' 7 2 = a.extractLsb' 3 2 := by
  apply BitVec.eq_of_getLsbD_eq
  intro i hi
  obtain rfl | rfl : i = 0 ∨ i = 1 := by omega
  all_goals simp only [highBits, BitVec.getLsbD_append, BitVec.getLsbD_extractLsb']; simp

@[simp] theorem high2 (a b c : Reg) (m : BitVec 3) : (highBits a b c m).extractLsb' 5 2 = b.extractLsb' 3 2 := by
  apply BitVec.eq_of_getLsbD_eq
  intro i hi
  obtain rfl | rfl : i = 0 ∨ i = 1 := by omega
  all_goals simp only [highBits, BitVec.getLsbD_append, BitVec.getLsbD_extractLsb']; simp

@[simp] theorem high3 (a b c : Reg) (m : BitVec 3) : (highBits a b c m).extractLsb' 3 2 = c.extractLsb' 3 2 := by
  apply BitVec.eq_of_getLsbD_eq
  intro i hi
  obtain rfl | rfl : i = 0 ∨ i = 1 := by omega
  all_goals simp only [highBits, BitVec.getLsbD_append, BitVec.getLsbD_extractLsb']; simp

@[simp] theorem high_mask (a b c : Reg) (m : BitVec 3) : (highBits a b c m).extractLsb' 0 3 = m := by
  apply BitVec.eq_of_getLsbD_eq
  intro i hi
  obtain rfl | rfl | rfl : i = 0 ∨ i = 1 ∨ i = 2 := by omega
  all_goals simp only [highBits, BitVec.getLsbD_append, BitVec.getLsbD_extractLsb']; simp


@[simp] theorem base_op (op : BitVec 5) (a b c : Reg) (fn : BitVec 2) : (baseRRR op a b c fn).extractLsb' 11 5 = op := by
  apply BitVec.eq_of_getLsbD_eq
  intro i hi
  obtain rfl | rfl | rfl | rfl | rfl : i = 0 ∨ i = 1 ∨ i = 2 ∨ i = 3 ∨ i = 4 := by omega
  all_goals simp only [baseRRR, BitVec.getLsbD_append, BitVec.getLsbD_extractLsb']; simp

@[simp] theorem base_fn (op : BitVec 5) (a b c : Reg) (fn : BitVec 2) : (baseRRR op a b c fn).extractLsb' 0 2 = fn := by
  apply BitVec.eq_of_getLsbD_eq
  intro i hi
  obtain rfl | rfl : i = 0 ∨ i = 1 := by omega
  all_goals simp only [baseRRR, BitVec.getLsbD_append, BitVec.getLsbD_extractLsb']; simp

@[simp] theorem base_r1 (op : BitVec 5) (a b c : Reg) (fn : BitVec 2) : (baseRRR op a b c fn).extractLsb' 8 3 = a.extractLsb' 0 3 := by
  apply BitVec.eq_of_getLsbD_eq
  intro i hi
  obtain rfl | rfl | rfl : i = 0 ∨ i = 1 ∨ i = 2 := by omega
  all_goals simp only [baseRRR, BitVec.getLsbD_append, BitVec.getLsbD_extractLsb']; simp

@[simp] theorem base_r2 (op : BitVec 5) (a b c : Reg) (fn : BitVec 2) : (baseRRR op a b c fn).extractLsb' 5 3 = b.extractLsb' 0 3 := by
  apply BitVec.eq_of_getLsbD_eq
  intro i hi
  obtain rfl | rfl | rfl : i = 0 ∨ i = 1 ∨ i = 2 := by omega
  all_goals simp only [baseRRR, BitVec.getLsbD_append, BitVec.getLsbD_extractLsb']; simp

@[simp] theorem base_r3 (op : BitVec 5) (a b c : Reg) (fn : BitVec 2) : (baseRRR op a b c fn).extractLsb' 2 3 = c.extractLsb' 0 3 := by
  apply BitVec.eq_of_getLsbD_eq
  intro i hi
  obtain rfl | rfl | rfl : i = 0 ∨ i = 1 ∨ i = 2 := by omega
  all_goals simp only [baseRRR, BitVec.getLsbD_append, BitVec.getLsbD_extractLsb']; simp

@[simp] theorem base_low5 (op : BitVec 5) (a b c : Reg) (fn : BitVec 2) : (baseRRR op a b c fn).extractLsb' 0 5 = c.extractLsb' 0 3 ++ fn := by
  apply BitVec.eq_of_getLsbD_eq
  intro i hi
  obtain rfl | rfl | rfl | rfl | rfl : i = 0 ∨ i = 1 ∨ i = 2 ∨ i = 3 ∨ i = 4 := by omega
  all_goals simp only [baseRRR, BitVec.getLsbD_append, BitVec.getLsbD_extractLsb']; simp

@[simp] theorem mod_scl (x : Mod) : (modBits x).extractLsb' 0 5 = x.scl := by
  apply BitVec.eq_of_getLsbD_eq
  intro i hi
  obtain rfl | rfl | rfl | rfl | rfl : i = 0 ∨ i = 1 ∨ i = 2 ∨ i = 3 ∨ i = 4 := by omega
  all_goals simp only [modBits, BitVec.getLsbD_append, BitVec.getLsbD_extractLsb']; simp

@[simp] theorem mod_sat (x : Mod) : (modBits x)[8] = x.sat := by
  show (modBits x).getLsbD 8 = x.sat
  simp only [modBits, BitVec.getLsbD_append]; simp

@[simp] theorem mod_clp (x : Mod) : (modBits x)[7] = x.clp := by
  show (modBits x).getLsbD 7 = x.clp
  simp only [modBits, BitVec.getLsbD_append]; simp

@[simp] theorem mod_neg (x : Mod) : (modBits x)[6] = x.neg := by
  show (modBits x).getLsbD 6 = x.neg
  simp only [modBits, BitVec.getLsbD_append]; simp

@[simp] theorem mod_abs (x : Mod) : (modBits x)[5] = x.abs := by
  show (modBits x).getLsbD 5 = x.abs
  simp only [modBits, BitVec.getLsbD_append]; simp

@[simp] theorem mod_plain : modBits plain = 0 := by decide

section
variable (page : BitVec 4) (aux : BitVec 5) (hi : BitVec 9) (x : Mod) (k iv : Nat) (base : Half)

@[simp] theorem make_page : (make page aux hi x k iv base).page = page := rfl
@[simp] theorem make_aux : (make page aux hi x k iv base).aux = aux := rfl
@[simp] theorem make_hi : (make page aux hi x k iv base).hi = hi := rfl
@[simp] theorem make_hasP : (make page aux hi x k iv base).hasP = (page != 0) := rfl
@[simp] theorem make_hasR : (make page aux hi x k iv base).hasR = (hi != 0) := rfl
@[simp] theorem make_hasX : (make page aux hi x k iv base).hasX = (modBits x != 0) := rfl
@[simp] theorem make_ik : (make page aux hi x k iv base).ik = k := rfl
@[simp] theorem make_iv : (make page aux hi x k iv base).iv = iv := rfl
@[simp] theorem make_base : (make page aux hi x k iv base).base = base := rfl
@[simp] theorem make_mods : (make page aux hi x k iv base).mods = x := by
  show Mod.mk ((modBits x).getLsbD 8) ((modBits x).getLsbD 7) ((modBits x).getLsbD 6) ((modBits x).getLsbD 5)
    ((modBits x).extractLsb' 0 5) = x
  simp
end

section
variable (page : BitVec 4) (op : BitVec 5) (fn : BitVec 2) (a b c : Reg) (aux : BitVec 5) (m : BitVec 3) (x : Mod)

@[simp] theorem rrr_page : (rrr page op fn a b c aux m x).page = page := rfl
@[simp] theorem rrr_aux : (rrr page op fn a b c aux m x).aux = aux := rfl
@[simp] theorem rrr_hasP : (rrr page op fn a b c aux m x).hasP = (page != 0) := rfl
@[simp] theorem rrr_hasX : (rrr page op fn a b c aux m x).hasX = (modBits x != 0) := rfl
@[simp] theorem rrr_ik : (rrr page op fn a b c aux m x).ik = 0 := rfl
@[simp] theorem rrr_mods : (rrr page op fn a b c aux m x).mods = x := by simp [rrr]
@[simp] theorem rrr_op : (rrr page op fn a b c aux m x).op = op.toNat := by simp [rrr, Chain.op]
@[simp] theorem rrr_fn : (rrr page op fn a b c aux m x).fn = fn := by simp [rrr, Chain.fn]
@[simp] theorem rrr_r1 : (rrr page op fn a b c aux m x).r1 = a := by simp [rrr, Chain.r1, reg_join]
@[simp] theorem rrr_r2 : (rrr page op fn a b c aux m x).r2 = b := by simp [rrr, Chain.r2, reg_join]
@[simp] theorem rrr_r3 : (rrr page op fn a b c aux m x).r3 = c := by simp [rrr, Chain.r3, reg_join]
@[simp] theorem rrr_h1 : (rrr page op fn a b c aux m x).h1 = a.extractLsb' 3 2 := by simp [rrr, Chain.h1]
@[simp] theorem rrr_h2 : (rrr page op fn a b c aux m x).h2 = b.extractLsb' 3 2 := by simp [rrr, Chain.h2]
@[simp] theorem rrr_h3 : (rrr page op fn a b c aux m x).h3 = c.extractLsb' 3 2 := by simp [rrr, Chain.h3]
@[simp] theorem rrr_mask : (rrr page op fn a b c aux m x).mask = m := by simp [rrr, Chain.mask]
@[simp] theorem rrr_b3 : (rrr page op fn a b c aux m x).base.extractLsb' 2 3 = c.extractLsb' 0 3 := by simp [rrr]
@[simp] theorem rrr_low5 : (rrr page op fn a b c aux m x).base.extractLsb' 0 5 = c.extractLsb' 0 3 ++ fn := by simp [rrr]
end


theorem dreg_reg4 (n : BitVec 4) (k : BitVec 4 → Built) : dreg (reg4 n) k = k n := by
  have h : n.toNat % 32 < 16 := by omega
  have e : (n.setWidth 5).extractLsb' 0 4 = n := by
    apply BitVec.eq_of_toNat_eq
    simp
    omega
  simp [dreg, reg4, ensure, h, e]

theorem low8_reg3 (n : BitVec 3) (k : BitVec 3 → Built) : low8 (reg3 n) k = k n := by
  have h : n.toNat % 32 < 8 := by omega
  have e : (n.setWidth 5).extractLsb' 0 3 = n := by
    apply BitVec.eq_of_toNat_eq
    simp
    omega
  simp [low8, reg3, ensure, h, e]

/-- The low bits that hold an immediate do not reach the fields above them. -/
theorem or_field (head : Half) (u w s n : Nat) (h : w ≤ s) :
    (head ||| BitVec.ofNat 16 (u % 2 ^ w)).extractLsb' s n = head.extractLsb' s n := by
  apply BitVec.eq_of_getLsbD_eq
  intro i hi
  have : ¬ s + i < w := by omega
  simp [BitVec.getLsbD_extractLsb', BitVec.getLsbD_or, BitVec.getLsbD_ofNat, Nat.testBit_mod_two_pow, this]

theorem or_bit (head : Half) (u w s : Nat) (h : w ≤ s) :
    (head ||| BitVec.ofNat 16 (u % 2 ^ w)).getLsbD s = head.getLsbD s := by
  have : ¬ s < w := by omega
  simp [BitVec.getLsbD_or, BitVec.getLsbD_ofNat, Nat.testBit_mod_two_pow, this]

theorem or_low (head : Half) (u w : Nat) (hw : w ≤ 16) (h : head.toNat % 2 ^ w = 0) :
    (head ||| BitVec.ofNat 16 (u % 2 ^ w)).toNat % 2 ^ w = u % 2 ^ w := by
  have h1 : u % 2 ^ w < 2 ^ w := Nat.mod_lt _ (Nat.two_pow_pos w)
  have h2 : 2 ^ w ≤ 2 ^ 16 := Nat.pow_le_pow_right (by decide) hw
  have h3 : u % 2 ^ w % 2 ^ 16 = u % 2 ^ w := Nat.mod_eq_of_lt (by omega)
  rw [BitVec.toNat_or, BitVec.toNat_ofNat, Nat.or_mod_two_pow, h, h3, Nat.zero_or, Nat.mod_mod]

/-- Sign extension undoes the cut to n bits of a signed value of n bits. -/
theorem sext_cut (n : Nat) (v : Int) (h : WellFormed.signed (n + 1) v = true) :
    sextNat (n + 1) (v % 2 ^ (n + 1)).toNat = v := by
  simp only [WellFormed.signed, Nat.add_sub_cancel, decide_eq_true_eq] at h
  have hp : (2 : Int) ^ (n + 1) = 2 * 2 ^ n := by rw [Int.pow_succ]; omega
  have hq : (2 : Nat) ^ (n + 1) = 2 * 2 ^ n := by rw [Nat.pow_succ]; omega
  have hc : ((2 ^ n : Nat) : Int) = (2 : Int) ^ n := by simp
  have pos : (0 : Int) < 2 ^ n := by rw [← hc]; exact Int.natCast_pos.mpr (Nat.two_pow_pos n)
  unfold sextNat
  rw [hp, Nat.add_sub_cancel]
  by_cases hv : 0 ≤ v
  · have e : v % (2 * 2 ^ n) = v := Int.emod_eq_of_lt hv (by omega)
    rw [e, if_pos (by omega)]
    omega
  · have e : v % (2 * 2 ^ n) = v + 2 * 2 ^ n := by
      rw [← Int.add_emod_right, Int.emod_eq_of_lt (by omega) (by omega)]
    rw [e, if_neg (by omega)]
    omega

/-- The immediate that an encoded chain carries is the one put in (R140). -/
theorem imm_value (w : Nat) (z : Bool) (v : Int) (page : BitVec 4) (aux : BitVec 5) (hi : BitVec 9) (x : Mod) (head : Half)
    (hw : w ≤ 16) (hh : head.toNat % 2 ^ w = 0) (hv : WellFormed.signed (27 + w) v = true ∨ (z = true ∧ 0 ≤ v ∧ v < 2 ^ w)) :
    (withImm page aux hi x w z v head).imm w z = v := by
  have key : ∀ k, (withImm page aux hi x w z v head).ik = k → immWords w z v = k →
      (withImm page aux hi x w z v head).imm w z
        = if k = 0 && z then ((immBits w k v : Nat) : Int) else sextNat (9 * k + w) (immBits w k v) := by
    intro k _ hk
    have e : immBits w k v / 2 ^ w * 2 ^ w + immBits w k v % 2 ^ w = immBits w k v := by
      rw [Nat.mul_comm]; exact Nat.div_add_mod _ _
    simp only [Chain.imm, withImm, make_ik, make_iv, make_base, hk]
    rw [or_low _ _ _ hw hh, e]
  rw [key (immWords w z v) rfl rfl]
  by_cases hz : z = true ∧ 0 ≤ v ∧ v < 2 ^ w
  · obtain ⟨rfl, h0, h1⟩ := hz
    have hk : immWords w true v = 0 := by simp [immWords, h0, h1]
    simp only [hk, immBits, Nat.mul_zero, Nat.zero_add]
    rw [Int.emod_eq_of_lt h0 h1]
    simp
    omega
  · have hv : WellFormed.signed (27 + w) v = true := by
      rcases hv with h | h
      · exact h
      · exact absurd h hz
    by_cases h0 : z = false ∧ (if w = 0 then v == 0 else WellFormed.signed w v) = true
    · obtain ⟨rfl, h0⟩ := h0
      have hk : immWords w false v = 0 := by simp [immWords]; intro h; simp_all
      simp only [hk, immBits, Nat.mul_zero, Nat.zero_add]
      rcases w with _ | w
      · simp at h0; subst h0; rfl
      · simp at h0; simpa using sext_cut w v h0
    · have hk : ∃ k, immWords w z v = k + 1 ∧ WellFormed.signed (9 * (k + 1) + w) v = true := by
        unfold immWords
        rw [if_neg]
        · split
          · exact ⟨0, rfl, by simpa using ‹_›⟩
          · split
            · exact ⟨1, rfl, by simpa using ‹_›⟩
            · exact ⟨2, rfl, by simpa using hv⟩
        · cases z
          · simpa using h0
          · simp at hz ⊢
            exact hz
      obtain ⟨k, hk, hs⟩ := hk
      rw [hk]
      have e : 9 * (k + 1) + w = (9 * k + 8 + w) + 1 := by omega
      simp only [immBits, e] at hs ⊢
      simpa using sext_cut (9 * k + 8 + w) v hs


theorem low_zero (head : Half) (w : Nat) (h : head.extractLsb' 0 w = 0) : head.toNat % 2 ^ w = 0 := by
  have := congrArg BitVec.toNat h
  simpa using this

section
variable (page : BitVec 4) (aux : BitVec 5) (hi : BitVec 9) (x : Mod) (w : Nat) (z : Bool) (v : Int) (head : Half)

@[simp] theorem withImm_page : (withImm page aux hi x w z v head).page = page := rfl
@[simp] theorem withImm_aux : (withImm page aux hi x w z v head).aux = aux := rfl
@[simp] theorem withImm_hi : (withImm page aux hi x w z v head).hi = hi := rfl
@[simp] theorem withImm_hasP : (withImm page aux hi x w z v head).hasP = (page != 0) := rfl
@[simp] theorem withImm_hasR : (withImm page aux hi x w z v head).hasR = (hi != 0) := rfl
@[simp] theorem withImm_hasX : (withImm page aux hi x w z v head).hasX = (modBits x != 0) := rfl
@[simp] theorem withImm_mods : (withImm page aux hi x w z v head).mods = x := by simp [withImm]

theorem withImm_field (s n : Nat) (h : w ≤ s) :
    (withImm page aux hi x w z v head).base.extractLsb' s n = head.extractLsb' s n := or_field head _ w s n h

theorem withImm_bit (s : Nat) (h : w ≤ s) :
    (withImm page aux hi x w z v head).base.getLsbD s = head.getLsbD s := or_bit head _ w s h
end

@[simp] theorem head2_op (op : BitVec 5) (a b : Reg) : (head2 op a b).extractLsb' 11 5 = op := by
  apply BitVec.eq_of_getLsbD_eq
  intro i hi
  obtain rfl | rfl | rfl | rfl | rfl : i = 0 ∨ i = 1 ∨ i = 2 ∨ i = 3 ∨ i = 4 := by omega
  all_goals simp only [head2, BitVec.getLsbD_append, BitVec.getLsbD_extractLsb']; simp

@[simp] theorem head2_r1 (op : BitVec 5) (a b : Reg) : (head2 op a b).extractLsb' 8 3 = a.extractLsb' 0 3 := by
  apply BitVec.eq_of_getLsbD_eq
  intro i hi
  obtain rfl | rfl | rfl : i = 0 ∨ i = 1 ∨ i = 2 := by omega
  all_goals simp only [head2, BitVec.getLsbD_append, BitVec.getLsbD_extractLsb']; simp

@[simp] theorem head2_r2 (op : BitVec 5) (a b : Reg) : (head2 op a b).extractLsb' 5 3 = b.extractLsb' 0 3 := by
  apply BitVec.eq_of_getLsbD_eq
  intro i hi
  obtain rfl | rfl | rfl : i = 0 ∨ i = 1 ∨ i = 2 := by omega
  all_goals simp only [head2, BitVec.getLsbD_append, BitVec.getLsbD_extractLsb']; simp

theorem head2_low (op : BitVec 5) (a b : Reg) : (head2 op a b).extractLsb' 0 5 = 0 := by
  apply BitVec.eq_of_getLsbD_eq
  intro i hi
  obtain rfl | rfl | rfl | rfl | rfl : i = 0 ∨ i = 1 ∨ i = 2 ∨ i = 3 ∨ i = 4 := by omega
  all_goals simp only [head2, BitVec.getLsbD_append, BitVec.getLsbD_extractLsb']; simp

theorem head2_low8 (op : BitVec 5) (a : Reg) : (head2 op a 0).extractLsb' 0 8 = 0 := by
  apply BitVec.eq_of_getLsbD_eq
  intro i hi
  obtain rfl | rfl | rfl | rfl | rfl | rfl | rfl | rfl : i = 0 ∨ i = 1 ∨ i = 2 ∨ i = 3 ∨ i = 4 ∨ i = 5 ∨ i = 6 ∨ i = 7 := by omega
  all_goals simp only [head2, BitVec.getLsbD_append, BitVec.getLsbD_extractLsb']; simp

/-- The base word of an LD chain. -/
def headLd (op : BitVec 5) (d a : Reg) (la : BitVec 4) (inc : Bool) : Half :=
  op ++ (d.extractLsb' 0 3 ++ (a.extractLsb' 0 3 ++ (la ++ BitVec.ofBool inc)))

@[simp] theorem headLd_op (op : BitVec 5) (d a : Reg) (la : BitVec 4) (inc : Bool) : (headLd op d a la inc).extractLsb' 11 5 = op := by
  apply BitVec.eq_of_getLsbD_eq
  intro i hi
  obtain rfl | rfl | rfl | rfl | rfl : i = 0 ∨ i = 1 ∨ i = 2 ∨ i = 3 ∨ i = 4 := by omega
  all_goals simp only [headLd, BitVec.getLsbD_append, BitVec.getLsbD_extractLsb']; simp

@[simp] theorem headLd_r1 (op : BitVec 5) (d a : Reg) (la : BitVec 4) (inc : Bool) : (headLd op d a la inc).extractLsb' 8 3 = d.extractLsb' 0 3 := by
  apply BitVec.eq_of_getLsbD_eq
  intro i hi
  obtain rfl | rfl | rfl : i = 0 ∨ i = 1 ∨ i = 2 := by omega
  all_goals simp only [headLd, BitVec.getLsbD_append, BitVec.getLsbD_extractLsb']; simp

@[simp] theorem headLd_r2 (op : BitVec 5) (d a : Reg) (la : BitVec 4) (inc : Bool) : (headLd op d a la inc).extractLsb' 5 3 = a.extractLsb' 0 3 := by
  apply BitVec.eq_of_getLsbD_eq
  intro i hi
  obtain rfl | rfl | rfl : i = 0 ∨ i = 1 ∨ i = 2 := by omega
  all_goals simp only [headLd, BitVec.getLsbD_append, BitVec.getLsbD_extractLsb']; simp

@[simp] theorem headLd_la (op : BitVec 5) (d a : Reg) (la : BitVec 4) (inc : Bool) : (headLd op d a la inc).extractLsb' 1 4 = la := by
  apply BitVec.eq_of_getLsbD_eq
  intro i hi
  obtain rfl | rfl | rfl | rfl : i = 0 ∨ i = 1 ∨ i = 2 ∨ i = 3 := by omega
  all_goals simp only [headLd, BitVec.getLsbD_append, BitVec.getLsbD_extractLsb']; simp

@[simp] theorem headLd_inc (op : BitVec 5) (d a : Reg) (la : BitVec 4) (inc : Bool) :
    (headLd op d a la inc).getLsbD 0 = inc := by
  simp only [headLd, BitVec.getLsbD_append]; simp

section
variable (page : BitVec 4) (op : BitVec 5) (o : RI) (z : Bool) (x : Mod)
@[simp] theorem ri_hasP : (ri page op o z x).hasP = (page != 0) := rfl
@[simp] theorem ri_page : (ri page op o z x).page = page := rfl
@[simp] theorem ri_aux : (ri page op o z x).aux = 0 := rfl
@[simp] theorem ri_hasX : (ri page op o z x).hasX = (modBits x != 0) := rfl
@[simp] theorem ri_mods : (ri page op o z x).mods = x := by simp [ri]
@[simp] theorem ri_mask : (ri page op o z x).mask = 0 := by simp [ri, Chain.mask]
@[simp] theorem ri_op : (ri page op o z x).op = op.toNat := by simp [ri, Chain.op, withImm_field]
@[simp] theorem ri_r1 : (ri page op o z x).r1 = o.d := by simp [ri, Chain.r1, withImm_field, reg_join]
@[simp] theorem ri_r2 : (ri page op o z x).r2 = o.a := by simp [ri, Chain.r2, withImm_field, reg_join]
@[simp] theorem ri_h3 : (ri page op o z x).h3 = 0 := by simp [ri, Chain.h3]
theorem ri_imm (h : WellFormed.riImm o.imm = none) : (ri page op o false x).imm 5 false = o.imm := by
  refine imm_value 5 false o.imm _ _ _ _ _ (by decide) (low_zero _ _ (head2_low _ _ _)) (Or.inl ?_)
  simpa [WellFormed.riImm, WellFormed.need] using h
theorem shift_imm (h : WellFormed.shiftImm o.imm = none) : (ri page op o true x).imm 5 true = o.imm := by
  refine imm_value 5 true o.imm _ _ _ _ _ (by decide) (low_zero _ _ (head2_low _ _ _)) (Or.inl ?_)
  simp [WellFormed.shiftImm, WellFormed.need] at h
  simp [WellFormed.signed]
  omega
theorem lease_imm (h : WellFormed.leaseImm o.imm = none) : (ri page op o false x).imm 5 false = o.imm := by
  refine imm_value 5 false o.imm _ _ _ _ _ (by decide) (low_zero _ _ (head2_low _ _ _)) (Or.inl ?_)
  simp [WellFormed.leaseImm, WellFormed.need] at h
  simp [WellFormed.signed]
  omega
end

section
variable (op : BitVec 5) (o : LI)
@[simp] theorem li_hasP : (li op o).hasP = false := rfl
@[simp] theorem li_aux : (li op o).aux = 0 := rfl
@[simp] theorem li_hasX : (li op o).hasX = false := rfl
@[simp] theorem li_mask : (li op o).mask = 0 := by simp [li, Chain.mask]
@[simp] theorem li_op : (li op o).op = op.toNat := by simp [li, Chain.op, withImm_field]
@[simp] theorem li_r1 : (li op o).r1 = o.d := by simp [li, Chain.r1, withImm_field, reg_join]
@[simp] theorem li_h2 : (li op o).h2 = 0 := by simp [li, Chain.h2]
@[simp] theorem li_h3 : (li op o).h3 = 0 := by simp [li, Chain.h3]
theorem li_imm (h : WellFormed.liImm o.imm = none) : (li op o).imm 8 false = o.imm := by
  refine imm_value 8 false o.imm _ _ _ _ _ (by decide) (low_zero _ _ (head2_low8 _ _)) (Or.inl ?_)
  simpa [WellFormed.liImm, WellFormed.need] using h
end

section
variable (page : BitVec 4) (op : BitVec 5) (o : LdOp) (aux : BitVec 5) (m : BitVec 3)
theorem ld_eq : ld page op o aux m = withImm page aux (highBits o.d o.a 0 m) plain 0 false o.off
    (headLd op o.d o.a o.la o.inc) := rfl
@[simp] theorem ld_hasP : (ld page op o aux m).hasP = (page != 0) := rfl
@[simp] theorem ld_page : (ld page op o aux m).page = page := rfl
@[simp] theorem ld_aux : (ld page op o aux m).aux = aux := rfl
@[simp] theorem ld_hasX : (ld page op o aux m).hasX = false := rfl
@[simp] theorem ld_mask : (ld page op o aux m).mask = m := by simp [ld_eq, Chain.mask]
@[simp] theorem ld_op : (ld page op o aux m).op = op.toNat := by simp [ld_eq, Chain.op, withImm_field]
@[simp] theorem ld_r1 : (ld page op o aux m).r1 = o.d := by simp [ld_eq, Chain.r1, withImm_field, reg_join]
@[simp] theorem ld_r2 : (ld page op o aux m).r2 = o.a := by simp [ld_eq, Chain.r2, withImm_field, reg_join]
@[simp] theorem ld_h3 : (ld page op o aux m).h3 = 0 := by simp [ld_eq, Chain.h3]
@[simp] theorem ld_la : (ld page op o aux m).base.extractLsb' 1 4 = o.la := by simp [ld_eq, withImm_field]
@[simp] theorem ld_inc : (ld page op o aux m).base[0] = o.inc := by
  rw [ld_eq, ← BitVec.getLsbD_eq_getElem, withImm_bit _ _ _ _ _ _ _ _ _ (by omega), headLd_inc]
theorem ld_ik (h : o.off = 0) : (ld page op o aux m).ik = 0 := by simp [ld_eq, withImm, immWords, h]
theorem ld_imm (h : WellFormed.ldImm o.off = none) : (ld page op o aux m).imm 0 false = o.off := by
  refine imm_value 0 false o.off _ _ _ _ _ (by decide) (by simp [Nat.mod_one]) (Or.inl ?_)
  simpa [WellFormed.ldImm, WellFormed.need] using h
end

section
variable (page : BitVec 4) (op : BitVec 5) (o : StOp) (m : BitVec 3)
@[simp] theorem sm_hasP : (sm page op o m).hasP = (page != 0) := rfl
@[simp] theorem sm_page : (sm page op o m).page = page := rfl
@[simp] theorem sm_aux : (sm page op o m).aux = 0 := rfl
@[simp] theorem sm_hasX : (sm page op o m).hasX = false := rfl
@[simp] theorem sm_mask : (sm page op o m).mask = m := by simp [sm, Chain.mask]
@[simp] theorem sm_op : (sm page op o m).op = op.toNat := by simp [sm, Chain.op, withImm_field]
@[simp] theorem sm_r1 : (sm page op o m).r1 = o.s := by simp [sm, Chain.r1, withImm_field, reg_join]
@[simp] theorem sm_r2 : (sm page op o m).r2 = o.a := by simp [sm, Chain.r2, withImm_field, reg_join]
@[simp] theorem sm_h3 : (sm page op o m).h3 = 0 := by simp [sm, Chain.h3]
theorem sm_imm (h : WellFormed.smImm o.off = none) : (sm page op o m).imm 5 true = o.off := by
  refine imm_value 5 true o.off _ _ _ _ _ (by decide) (low_zero _ _ (head2_low _ _ _)) (Or.inl ?_)
  simpa [WellFormed.smImm, WellFormed.need] using h
end

section
variable (page : BitVec 4) (op : BitVec 5) (f : BitVec 11)
@[simp] theorem s_hasP : (s page op f).hasP = (page != 0) := rfl
@[simp] theorem s_page : (s page op f).page = page := rfl
@[simp] theorem s_aux : (s page op f).aux = 0 := rfl
@[simp] theorem s_hasR : (s page op f).hasR = false := rfl
@[simp] theorem s_hasX : (s page op f).hasX = false := rfl
@[simp] theorem s_ik : (s page op f).ik = 0 := rfl
@[simp] theorem s_mask : (s page op f).mask = 0 := rfl
@[simp] theorem s_base : (s page op f).base = op ++ f := rfl

@[simp] theorem s_op' : (op ++ f).extractLsb' 11 5 = op := by
  apply BitVec.eq_of_getLsbD_eq
  intro i hi
  obtain rfl | rfl | rfl | rfl | rfl : i = 0 ∨ i = 1 ∨ i = 2 ∨ i = 3 ∨ i = 4 := by omega
  all_goals simp only [BitVec.getLsbD_append, BitVec.getLsbD_extractLsb']; simp

@[simp] theorem s_fn11' : (op ++ f).extractLsb' 0 11 = f := by
  apply BitVec.eq_of_getLsbD_eq
  intro i hi
  obtain rfl | rfl | rfl | rfl | rfl | rfl | rfl | rfl | rfl | rfl | rfl : i = 0 ∨ i = 1 ∨ i = 2 ∨ i = 3 ∨ i = 4 ∨ i = 5 ∨ i = 6 ∨ i = 7 ∨ i = 8 ∨ i = 9 ∨ i = 10 := by omega
  all_goals simp only [BitVec.getLsbD_append, BitVec.getLsbD_extractLsb']; simp

@[simp] theorem s_op : (s page op f).op = op.toNat := by
  simp [Chain.op]
@[simp] theorem s_fn11 : (s page op f).fn11 = f := by
  simp [Chain.fn11]
end


@[simp] theorem reg3_high (n : BitVec 3) : (reg3 n).extractLsb' 3 2 = 0 := by
  apply BitVec.eq_of_getLsbD_eq
  intro i hi
  obtain rfl | rfl : i = 0 ∨ i = 1 := by omega
  all_goals simp only [reg3, BitVec.getLsbD_extractLsb', BitVec.getLsbD_setWidth]; simp

@[simp] theorem reg3_low (n : BitVec 3) : (reg3 n).extractLsb' 0 3 = n := by
  apply BitVec.eq_of_getLsbD_eq
  intro i hi
  obtain rfl | rfl | rfl : i = 0 ∨ i = 1 ∨ i = 2 := by omega
  all_goals simp only [reg3, BitVec.getLsbD_extractLsb', BitVec.getLsbD_setWidth]; simp

@[simp] theorem split5 (n : BitVec 5) : n.extractLsb' 2 3 ++ n.extractLsb' 0 2 = n := by
  apply BitVec.eq_of_getLsbD_eq
  intro i hi
  obtain rfl | rfl | rfl | rfl | rfl : i = 0 ∨ i = 1 ∨ i = 2 ∨ i = 3 ∨ i = 4 := by omega
  all_goals simp only [BitVec.getLsbD_append, BitVec.getLsbD_extractLsb']; simp

@[simp] theorem split8 (n : BitVec 8) : n.extractLsb' 3 5 ++ n.extractLsb' 0 3 = n := by
  apply BitVec.eq_of_getLsbD_eq
  intro i hi
  obtain rfl | rfl | rfl | rfl | rfl | rfl | rfl | rfl : i = 0 ∨ i = 1 ∨ i = 2 ∨ i = 3 ∨ i = 4 ∨ i = 5 ∨ i = 6 ∨ i = 7 := by omega
  all_goals simp only [BitVec.getLsbD_append, BitVec.getLsbD_extractLsb']; simp

@[simp] theorem cvt_src (a b : BitVec 2) : (a ++ (b ++ 0#1)).extractLsb' 3 2 = a := by
  apply BitVec.eq_of_getLsbD_eq
  intro i hi
  obtain rfl | rfl : i = 0 ∨ i = 1 := by omega
  all_goals simp only [BitVec.getLsbD_append, BitVec.getLsbD_extractLsb']; simp

@[simp] theorem cvt_dst (a b : BitVec 2) : (a ++ (b ++ 0#1)).extractLsb' 1 2 = b := by
  apply BitVec.eq_of_getLsbD_eq
  intro i hi
  obtain rfl | rfl : i = 0 ∨ i = 1 := by omega
  all_goals simp only [BitVec.getLsbD_append, BitVec.getLsbD_extractLsb']; simp

@[simp] theorem cvt_zero (a b : BitVec 2) : (a ++ (b ++ 0#1))[0] = false := by
  show (a ++ (b ++ 0#1)).getLsbD 0 = false
  simp only [BitVec.getLsbD_append]; simp

@[simp] theorem rep_nm1 (op : BitVec 5) (a b c : BitVec 3) (d : BitVec 2) : (op ++ (a ++ (b ++ (c ++ d)))).extractLsb' 8 3 = a := by
  apply BitVec.eq_of_getLsbD_eq
  intro i hi
  obtain rfl | rfl | rfl : i = 0 ∨ i = 1 ∨ i = 2 := by omega
  all_goals simp only [BitVec.getLsbD_append, BitVec.getLsbD_extractLsb']; simp

@[simp] theorem rep_cnt (op : BitVec 5) (a b c : BitVec 3) (d : BitVec 2) : (op ++ (a ++ (b ++ (c ++ d)))).extractLsb' 5 3 = b := by
  apply BitVec.eq_of_getLsbD_eq
  intro i hi
  obtain rfl | rfl | rfl : i = 0 ∨ i = 1 ∨ i = 2 := by omega
  all_goals simp only [BitVec.getLsbD_append, BitVec.getLsbD_extractLsb']; simp

@[simp] theorem rep_stride (op : BitVec 5) (a b c : BitVec 3) (d : BitVec 2) : (op ++ (a ++ (b ++ (c ++ d)))).extractLsb' 2 3 = c := by
  apply BitVec.eq_of_getLsbD_eq
  intro i hi
  obtain rfl | rfl | rfl : i = 0 ∨ i = 1 ∨ i = 2 := by omega
  all_goals simp only [BitVec.getLsbD_append, BitVec.getLsbD_extractLsb']; simp

@[simp] theorem rep_fields (op : BitVec 5) (a b c : BitVec 3) (d : BitVec 2) : (op ++ (a ++ (b ++ (c ++ d)))).extractLsb' 0 2 = d := by
  apply BitVec.eq_of_getLsbD_eq
  intro i hi
  obtain rfl | rfl : i = 0 ∨ i = 1 := by omega
  all_goals simp only [BitVec.getLsbD_append, BitVec.getLsbD_extractLsb']; simp

@[simp] theorem mwait_high (op : BitVec 5) (h : BitVec 5) : (op ++ (0#6 ++ h)).extractLsb' 5 6 = 0 := by
  apply BitVec.eq_of_getLsbD_eq
  intro i hi
  obtain rfl | rfl | rfl | rfl | rfl | rfl : i = 0 ∨ i = 1 ∨ i = 2 ∨ i = 3 ∨ i = 4 ∨ i = 5 := by omega
  all_goals simp only [BitVec.getLsbD_append, BitVec.getLsbD_extractLsb']; simp

@[simp] theorem mwait_low (op : BitVec 5) (h : BitVec 5) : (op ++ (0#6 ++ h)).extractLsb' 0 5 = h := by
  apply BitVec.eq_of_getLsbD_eq
  intro i hi
  obtain rfl | rfl | rfl | rfl | rfl : i = 0 ∨ i = 1 ∨ i = 2 ∨ i = 3 ∨ i = 4 := by omega
  all_goals simp only [BitVec.getLsbD_append, BitVec.getLsbD_extractLsb']; simp

@[simp] theorem fence_high (op : BitVec 5) (k : BitVec 2) (m : BitVec 5) : (op ++ (0#4 ++ (k ++ m))).extractLsb' 7 4 = 0 := by
  apply BitVec.eq_of_getLsbD_eq
  intro i hi
  obtain rfl | rfl | rfl | rfl : i = 0 ∨ i = 1 ∨ i = 2 ∨ i = 3 := by omega
  all_goals simp only [BitVec.getLsbD_append, BitVec.getLsbD_extractLsb']; simp

@[simp] theorem fence_mask (op : BitVec 5) (k : BitVec 2) (m : BitVec 5) : (op ++ (0#4 ++ (k ++ m))).extractLsb' 0 5 = m := by
  apply BitVec.eq_of_getLsbD_eq
  intro i hi
  obtain rfl | rfl | rfl | rfl | rfl : i = 0 ∨ i = 1 ∨ i = 2 ∨ i = 3 ∨ i = 4 := by omega
  all_goals simp only [BitVec.getLsbD_append, BitVec.getLsbD_extractLsb']; simp

@[simp] theorem fence_kind (op : BitVec 5) (k : BitVec 2) (m : BitVec 5) : (op ++ (0#4 ++ (k ++ m))).extractLsb' 5 2 = k := by
  apply BitVec.eq_of_getLsbD_eq
  intro i hi
  obtain rfl | rfl : i = 0 ∨ i = 1 := by omega
  all_goals simp only [BitVec.getLsbD_append, BitVec.getLsbD_extractLsb']; simp

/-- The base word of a branch. -/
def headB (a : Reg) (cc : BitVec 3) (n : Bool) : Half := 25#5 ++ (a.extractLsb' 0 3 ++ (cc ++ (BitVec.ofBool n ++ 0#4)))

@[simp] theorem headB_op (a : Reg) (cc : BitVec 3) (n : Bool) : (headB a cc n).extractLsb' 11 5 = 25#5 := by
  apply BitVec.eq_of_getLsbD_eq
  intro i hi
  obtain rfl | rfl | rfl | rfl | rfl : i = 0 ∨ i = 1 ∨ i = 2 ∨ i = 3 ∨ i = 4 := by omega
  all_goals simp only [headB, BitVec.getLsbD_append, BitVec.getLsbD_extractLsb']; simp

@[simp] theorem headB_r1 (a : Reg) (cc : BitVec 3) (n : Bool) : (headB a cc n).extractLsb' 8 3 = a.extractLsb' 0 3 := by
  apply BitVec.eq_of_getLsbD_eq
  intro i hi
  obtain rfl | rfl | rfl : i = 0 ∨ i = 1 ∨ i = 2 := by omega
  all_goals simp only [headB, BitVec.getLsbD_append, BitVec.getLsbD_extractLsb']; simp

@[simp] theorem headB_cc (a : Reg) (cc : BitVec 3) (n : Bool) : (headB a cc n).extractLsb' 5 3 = cc := by
  apply BitVec.eq_of_getLsbD_eq
  intro i hi
  obtain rfl | rfl | rfl : i = 0 ∨ i = 1 ∨ i = 2 := by omega
  all_goals simp only [headB, BitVec.getLsbD_append, BitVec.getLsbD_extractLsb']; simp

theorem headB_low (a : Reg) (cc : BitVec 3) (n : Bool) : (headB a cc n).extractLsb' 0 4 = 0 := by
  apply BitVec.eq_of_getLsbD_eq
  intro i hi
  obtain rfl | rfl | rfl | rfl : i = 0 ∨ i = 1 ∨ i = 2 ∨ i = 3 := by omega
  all_goals simp only [headB, BitVec.getLsbD_append, BitVec.getLsbD_extractLsb']; simp

@[simp] theorem headB_n (a : Reg) (cc : BitVec 3) (n : Bool) : (headB a cc n).getLsbD 4 = n := by
  simp only [headB, BitVec.getLsbD_append]; simp

/-- The chain of a branch. -/
def branch (o : BrOp) : Chain := withImm 0 0 (highBits o.a 0 0 0) plain 4 false o.off (headB o.a o.cc o.n)

theorem chain_b (o : BrOp) : chain (.b o) = some (branch o) := rfl

theorem rep_parts (op : BitVec 5) (a b c : BitVec 3) (d : BitVec 2) (f : BitVec 11) (h : f = a ++ (b ++ (c ++ d))) :
    (op ++ f).extractLsb' 8 3 = a ∧ (op ++ f).extractLsb' 5 3 = b ∧ (op ++ f).extractLsb' 2 3 = c ∧
      (op ++ f).extractLsb' 0 2 = d := by
  subst h
  exact ⟨rep_nm1 op a b c d, rep_cnt op a b c d, rep_stride op a b c d, rep_fields op a b c d⟩

theorem mwait_parts (op h : BitVec 5) (f : BitVec 11) (hf : f = 0#6 ++ h) :
    (op ++ f).extractLsb' 5 6 = 0#6 ∧ (op ++ f).extractLsb' 0 5 = h := by
  subst hf
  exact ⟨mwait_high op h, mwait_low op h⟩

theorem fence_parts (op : BitVec 5) (k : BitVec 2) (m : BitVec 5) (f : BitVec 11) (h : f = 0#4 ++ (k ++ m)) :
    (op ++ f).extractLsb' 7 4 = 0#4 ∧ (op ++ f).extractLsb' 0 5 = m ∧ (op ++ f).extractLsb' 5 2 = k := by
  subst h
  exact ⟨fence_high op k m, fence_mask op k m, fence_kind op k m⟩

theorem cvt_parts (a b : BitVec 2) (f : BitVec 5) (h : f = a ++ (b ++ 0#1)) :
    f[0] = false ∧ f.extractLsb' 3 2 = a ∧ f.extractLsb' 1 2 = b := by
  subst h
  exact ⟨cvt_zero a b, cvt_src a b, cvt_dst a b⟩

section
variable (o : BrOp)
@[simp] theorem branch_hasP : (branch o).hasP = false := rfl
@[simp] theorem branch_aux : (branch o).aux = 0 := rfl
@[simp] theorem branch_hasX : (branch o).hasX = false := rfl
@[simp] theorem branch_mask : (branch o).mask = 0 := by simp [branch, Chain.mask]
@[simp] theorem branch_op : (branch o).op = 25 := by simp [branch, Chain.op, withImm_field]
@[simp] theorem branch_r1 : (branch o).r1 = o.a := by simp [branch, Chain.r1, withImm_field, reg_join]
@[simp] theorem branch_h2 : (branch o).h2 = 0 := by simp [branch, Chain.h2]
@[simp] theorem branch_h3 : (branch o).h3 = 0 := by simp [branch, Chain.h3]
@[simp] theorem branch_cc : (branch o).base.extractLsb' 5 3 = o.cc := by simp [branch, withImm_field]
@[simp] theorem branch_n : (branch o).base[4] = o.n := by
  rw [branch, ← BitVec.getLsbD_eq_getElem, withImm_bit _ _ _ _ _ _ _ _ _ (by omega), headB_n]
theorem branch_imm (h : WellFormed.signed 31 o.off = true) : (branch o).imm 4 false = o.off :=
  imm_value 4 false o.off _ _ _ _ _ (by decide) (low_zero _ _ (headB_low _ _ _)) (Or.inl h)
end

section
variable (k : Bool) (off : Int)
/-- The base word of a J chain. -/
def headJ (k : Bool) : Half := 26#5 ++ (BitVec.ofBool k ++ 0#10)
theorem j_eq : j k off = withImm 0 0 0 plain 10 false off (headJ k) := rfl
@[simp] theorem j_hasP : (j k off).hasP = false := rfl
@[simp] theorem j_aux : (j k off).aux = 0 := rfl
@[simp] theorem j_hasR : (j k off).hasR = false := rfl
@[simp] theorem j_hasX : (j k off).hasX = false := rfl
@[simp] theorem j_mask : (j k off).mask = 0 := rfl
@[simp] theorem j_op : (j k off).op = 26 := by
  have : (headJ k).extractLsb' 11 5 = 26#5 := by revert k; decide
  simp [j_eq, Chain.op, withImm_field, this]
@[simp] theorem j_bit : (j k off).base[10] = k := by
  rw [j_eq, ← BitVec.getLsbD_eq_getElem, withImm_bit _ _ _ _ _ _ _ _ _ (by omega)]
  revert k; decide
theorem j_imm (h : WellFormed.signed 37 off = true) : (j k off).imm 10 false = off :=
  imm_value 10 false off _ _ _ _ _ (by decide) (by revert k; decide) (Or.inl h)
end

/-! ### Chains that the words can carry -/

/-- No prefix word twice, a base word that is none, and nothing in a prefix word that is absent (R137, R141, R142). -/
structure Fits (c : Chain) : Prop where
  twice : c.twice = false
  base : Chain.isPrefix c.base = false
  ik : c.ik ≤ 3
  iv : c.iv < 512 ^ c.ik
  noP : c.hasP = false → c.page = 0 ∧ c.aux = 0
  noR : c.hasR = false → c.hi = 0
  noX : c.hasX = false → c.mod = 0

theorem make_fits (page : BitVec 4) (aux : BitVec 5) (hi : BitVec 9) (x : Mod) (k iv : Nat) (base : Half)
    (hb : Chain.isPrefix base = false) (hk : k ≤ 3) (hv : iv < 512 ^ k) (hp : page = 0 → aux = 0) :
    Fits (make page aux hi x k iv base) :=
  { twice := rfl, base := hb, ik := hk, iv := hv
    noP := fun h => by
      have : page = 0 := by simpa using h
      exact ⟨this, hp this⟩
    noR := fun h => by simpa using h
    noX := fun h => by simpa [make] using h }

theorem rrr_fits (page : BitVec 4) (op : BitVec 5) (fn : BitVec 2) (a b c : Reg) (aux : BitVec 5) (m : BitVec 3) (x : Mod)
    (ho : (op == 31) = false) (hp : page = 0 → aux = 0) : Fits (rrr page op fn a b c aux m x) :=
  make_fits _ _ _ _ _ _ _ (by simpa [Chain.isPrefix] using ho) (by decide) (by decide) hp

theorem immWords_le (w : Nat) (z : Bool) (v : Int) : immWords w z v ≤ 3 := by
  unfold immWords
  repeat' split
  all_goals omega

theorem withImm_fits (page : BitVec 4) (aux : BitVec 5) (hi : BitVec 9) (x : Mod) (w : Nat) (z : Bool) (v : Int) (head : Half)
    (hw : w ≤ 11) (hb : (head.extractLsb' 11 5 == 31) = false) (hp : page = 0 → aux = 0) :
    Fits (withImm page aux hi x w z v head) := by
  refine make_fits _ _ _ _ _ _ _ ?_ (immWords_le w z v) ?_ hp
  · unfold Chain.isPrefix
    rw [or_field head _ w 11 5 hw]
    exact hb
  · have h1 : immBits w (immWords w z v) v < 2 ^ (9 * immWords w z v + w) := by
      have hp : (0 : Int) < 2 ^ (9 * immWords w z v + w) := by
        have : ((2 ^ (9 * immWords w z v + w) : Nat) : Int) = 2 ^ (9 * immWords w z v + w) := by simp
        rw [← this]; exact Int.natCast_pos.mpr (Nat.two_pow_pos _)
      have h0 := Int.emod_lt_of_pos v hp
      have h2 := Int.emod_nonneg v (Int.ne_of_gt hp)
      unfold immBits
      have : ((2 ^ (9 * immWords w z v + w) : Nat) : Int) = 2 ^ (9 * immWords w z v + w) := by simp
      omega
    refine Nat.div_lt_of_lt_mul ?_
    have e : (512 : Nat) ^ immWords w z v = 2 ^ (9 * immWords w z v) := by
      rw [show (512 : Nat) = 2 ^ 9 from rfl, ← Nat.pow_mul]
    rw [e, ← Nat.pow_add, Nat.add_comm]
    exact h1

theorem s_fits (page : BitVec 4) (op : BitVec 5) (f : BitVec 11) (ho : (op == 31) = false) : Fits (s page op f) :=
  make_fits _ _ _ _ _ _ _ (by simpa [Chain.isPrefix] using ho) (by decide) (by decide) (fun _ => rfl)

theorem ri_fits (page : BitVec 4) (op : BitVec 5) (o : RI) (z : Bool) (x : Mod) (ho : (op == 31) = false) :
    Fits (ri page op o z x) :=
  withImm_fits _ _ _ _ _ _ _ _ (by decide) (by simpa using ho) (fun _ => rfl)

theorem li_fits (op : BitVec 5) (o : LI) (ho : (op == 31) = false) : Fits (li op o) :=
  withImm_fits _ _ _ _ _ _ _ _ (by decide) (by simpa using ho) (fun _ => rfl)

theorem ld_fits (page : BitVec 4) (op : BitVec 5) (o : LdOp) (aux : BitVec 5) (m : BitVec 3) (ho : (op == 31) = false)
    (hp : page = 0 → aux = 0) : Fits (ld page op o aux m) := by
  rw [ld_eq]
  exact withImm_fits _ _ _ _ _ _ _ _ (by decide) (by simpa using ho) hp

theorem sm_fits (page : BitVec 4) (op : BitVec 5) (o : StOp) (m : BitVec 3) (ho : (op == 31) = false) :
    Fits (sm page op o m) :=
  withImm_fits _ _ _ _ _ _ _ _ (by decide) (by simpa using ho) (fun _ => rfl)

theorem branch_fits (o : BrOp) : Fits (branch o) :=
  withImm_fits _ _ _ _ _ _ _ _ (by decide) (by simp) (fun _ => rfl)

theorem j_fits (k : Bool) (off : Int) : Fits (j k off) :=
  withImm_fits _ _ _ _ _ _ _ _ (by decide) (by revert k; decide) (fun _ => rfl)

/-! ### Gathering the words of a chain (R137, R141, R142) -/

theorem gather_imm (k v n : Nat) (c : Chain) (ws : List Half) (hv : v < 512 ^ k) (hn : n + k ≤ 4) (h3 : c.ik + k ≤ 3)  :
    Chain.gather n c (immHalves k v ++ ws) =
      Chain.gather (n + k) { c with ik := c.ik + k, iv := c.iv * 512 ^ k + v } ws := by
  induction k generalizing v ws with
  | zero => simp at hv; subst hv; simp [immHalves]
  | succ k ih =>
    have hd : v / 512 < 512 ^ k := by rw [Nat.pow_succ] at hv; exact Nat.div_lt_of_lt_mul (by omega)
    have hm : v % 512 < 512 := Nat.mod_lt _ (by decide)
    have hp : Chain.isPrefix (BitVec.ofNat 16 (0xFA00 + v % 512)) = true := by
      have : ∀ u : Fin 512, Chain.isPrefix (BitVec.ofNat 16 (0xFA00 + u.val)) = true := by decide +kernel
      exact this ⟨_, hm⟩
    have h9 : ((BitVec.ofNat 16 (0xFA00 + v % 512)).extractLsb' 9 2).toNat = 1 := by
      have : ∀ u : Fin 512, ((BitVec.ofNat 16 (0xFA00 + u.val)).extractLsb' 9 2).toNat = 1 := by decide +kernel
      exact this ⟨_, hm⟩
    have h0 : ((BitVec.ofNat 16 (0xFA00 + v % 512)).extractLsb' 0 9).toNat = v % 512 := by
      have : ∀ u : Fin 512, ((BitVec.ofNat 16 (0xFA00 + u.val)).extractLsb' 0 9).toNat = u.val := by decide +kernel
      exact this ⟨_, hm⟩
    rw [immHalves, List.append_assoc, ih _ _ hd (by omega) (by omega)]
    simp only [List.singleton_append, Chain.gather, hp, if_true, Chain.takePrefix, h9, h0]
    rw [if_neg (by omega)]
    congr 1
    have : ¬ (c.ik + k ≥ 3) := by omega
    simp [this]
    constructor
    · omega
    · rw [Nat.pow_succ, Nat.add_mul, Nat.mul_assoc]; omega
theorem gather_halves (c : Chain) (h : Fits c) (rest : List Half) (hl : (halves c).length ≤ 5) :
    Chain.gather 0 Chain.empty (halves c ++ rest) = .ok (c, (halves c).length) := by
  obtain ⟨page, aux, hasP, hasR, hi, hasX, mod, ik, iv, twice, base⟩ := c
  obtain ⟨h1, h2, h3, h4, h5, h6, h7⟩ := h
  simp only at h1 h2 h3 h4 h5 h6 h7
  subst h1
  have il : ∀ k v, (immHalves k v).length = k := by
    intro k; induction k with
    | zero => intro v; rfl
    | succ k ih => intro v; simp [immHalves, ih]
  have last : ∀ (n : Nat) (c : Chain) (ws : List Half), c.twice = false →
      Chain.gather n c (base :: ws) = .ok ({ c with base := base }, n + 1) := by
    intro n c ws ht; simp [Chain.gather, h2, ht]
  have pP : ∀ (p : BitVec 4) (a : BitVec 5), Chain.isPrefix (0x7E#7 ++ (p ++ a)) = true ∧ ((0x7E#7 ++ (p ++ a)).extractLsb' 9 2).toNat = 2 ∧ ((0x7E#7 ++ (p ++ a)).extractLsb' 0 9) = p ++ a ∧ (p ++ a).extractLsb' 5 4 = p ∧ (p ++ a).extractLsb' 0 5 = a := by
    decide +kernel
  have pR : ∀ (p : BitVec 9), Chain.isPrefix (0x7C#7 ++ p) = true ∧ ((0x7C#7 ++ p).extractLsb' 9 2).toNat = 0 ∧ ((0x7C#7 ++ p).extractLsb' 0 9) = p  := by decide +kernel
  have pX : ∀ (p : BitVec 9), Chain.isPrefix (0x7F#7 ++ p) = true ∧ ((0x7F#7 ++ p).extractLsb' 9 2).toNat = 3 ∧ ((0x7F#7 ++ p).extractLsb' 0 9) = p  := by decide +kernel
  cases hasP <;> cases hasR <;> cases hasX <;> simp [halves, il] at hl h5 h6 h7 ⊢ <;> simp [Chain.gather, Chain.takePrefix, pP, pR, pX, Chain.empty] <;> (try rw [gather_imm _ _ _ _ _ h4 (by omega) (by simpa using h3)]) <;> simp [last, h5, h6, h7] <;> (try omega)

end Encode
end Sys2Proof
end

