-- ==== Sys2Proof/Laws/Frame.lean ====
section
/-! SUPPORT. What the shared operations on a strand leave unchanged, and the frame of an instruction that retires. -/

namespace Sys2Proof.Machine

/-! ### Finite maps -/

@[simp] theorem KMap.get?_set_self {κ α : Type} [DecidableEq κ] (m : KMap κ α) (k : κ) (v : α) :
    KMap.get? (KMap.set m k v) k = some v := by
  induction m with
  | nil => simp [KMap.set, KMap.get?]
  | cons p r ih =>
    obtain ⟨k', v'⟩ := p
    by_cases h : k' = k <;> simp [KMap.set, KMap.get?, h, ih]

theorem KMap.get?_set_other {κ α : Type} [DecidableEq κ] (m : KMap κ α) (k k' : κ) (v : α) (h : k' ≠ k) :
    KMap.get? (KMap.set m k v) k' = KMap.get? m k' := by
  induction m with
  | nil => simp [KMap.set, KMap.get?, Ne.symm h]
  | cons p r ih =>
    obtain ⟨k0, v0⟩ := p
    by_cases h0 : k0 = k
    · subst h0
      simp [KMap.set, KMap.get?, Ne.symm h]
    · by_cases h1 : k0 = k'
      · subst h1
        simp [KMap.set, KMap.get?, h0]
      · simp [KMap.set, KMap.get?, h0, h1, ih]

@[simp] theorem KMap.getD_set_self {κ α : Type} [DecidableEq κ] (m : KMap κ α) (k : κ) (v d : α) :
    KMap.getD (KMap.set m k v) k d = v := by simp [KMap.getD]

theorem KMap.getD_set_other {κ α : Type} [DecidableEq κ] (m : KMap κ α) (k k' : κ) (v d : α) (h : k' ≠ k) :
    KMap.getD (KMap.set m k v) k' d = KMap.getD m k' d := by simp [KMap.getD, KMap.get?_set_other m k k' v h]

/-! ### Strands in a state -/

@[simp] theorem State.strand_setStrand (s : State) (id : StrandId) (x : Strand) : (s.setStrand id x).strand id = x := by
  simp [State.setStrand, State.strand]

theorem State.strand_setStrand_other (s : State) (id id' : StrandId) (x : Strand) (h : id' ≠ id) :
    (s.setStrand id x).strand id' = s.strand id' := by
  simp [State.setStrand, State.strand, KMap.getD_set_other _ _ _ _ _ h]

@[simp] theorem State.cur_setStrand (s : State) (id : StrandId) (x : Strand) : (s.setStrand id x).cur = s.cur := rfl
@[simp] theorem State.me_setMe (s : State) (x : Strand) : (s.setMe x).me = x := State.strand_setStrand s s.cur x
@[simp] theorem State.cur_setMe (s : State) (x : Strand) : (s.setMe x).cur = s.cur := rfl
@[simp] theorem State.me_onMe (s : State) (f : Strand → Strand) : (s.onMe f).me = f s.me := State.me_setMe s _
@[simp] theorem State.cur_onMe (s : State) (f : Strand → Strand) : (s.onMe f).cur = s.cur := rfl

theorem KMap.set_set {κ α : Type} [DecidableEq κ] (m : KMap κ α) (k : κ) (v w : α) :
    KMap.set (KMap.set m k v) k w = KMap.set m k w := by
  induction m with
  | nil => simp [KMap.set]
  | cons p r ih =>
    obtain ⟨k', v'⟩ := p
    by_cases h : k' = k <;> simp [KMap.set, h, ih]

@[simp] theorem State.setMe_setMe (s : State) (x y : Strand) : (s.setMe x).setMe y = s.setMe y := by
  simp [State.setMe, State.setStrand, KMap.set_set]

theorem State.onMe_eq (s : State) (f : Strand → Strand) : s.onMe f = s.setMe (f s.me) := rfl

@[simp] theorem State.onMe_setMe (s : State) (x : Strand) (f : Strand → Strand) : (s.setMe x).onMe f = s.setMe (f x) := by
  simp [State.onMe_eq]

theorem OnlyMe.setMe (s : State) (x : Strand) : OnlyMe s (s.setMe x) :=
  ⟨fun id h => State.strand_setStrand_other s s.cur id x h, rfl⟩

/-- Code is read from tile memory, which no write to a strand changes. -/
@[simp] theorem State.after_setMe (s : State) (x : Strand) (id : StrandId) (pc : Word) :
    (s.setMe x).after id pc = s.after id pc := rfl

/-! ### Registers -/

theorem vector_get_set {α : Type} {n : Nat} (v : Vector α n) (i : Nat) (h : i < n) (j : Fin n) (w : α) :
    (v.set i w h).get j = if j.val = i then w else v.get j := by
  show (v.set i w h)[j.val] = if j.val = i then w else v[j.val]
  simp [Vector.getElem_set, eq_comm]

@[simp] theorem Strand.getS_zero (x : Strand) : x.getS 0 = 0 := rfl

theorem Strand.getS_putS (x : Strand) (d r : Reg) (w : Word) (q : BitVec 4) :
    (x.putS d w q).getS r = if r = d then written d w else x.getS r := by
  unfold Strand.putS Strand.getS written
  by_cases hd : d = 0 <;> by_cases hr : r = 0 <;> by_cases e : r = d <;> simp_all [vector_get_set]
  intro h
  exact absurd (BitVec.eq_of_toNat_eq h) e

theorem Strand.getRes_putS (x : Strand) (d r : Reg) (w : Word) (q : BitVec 4) :
    (x.putS d w q).getRes r = if r = d then (if d = 0 then 0 else q) else x.getRes r := by
  unfold Strand.putS Strand.getRes
  by_cases hd : d = 0 <;> by_cases hr : r = 0 <;> by_cases e : r = d <;> simp_all [vector_get_set]
  intro h
  exact absurd (BitVec.eq_of_toNat_eq h) e

theorem Strand.getV_putV (x : Strand) (d r : Reg) (l : Line) :
    (x.putV d l).getV r = if r = d then l else x.getV r := by
  simp only [Strand.putV, Strand.getV, vector_get_set]
  by_cases e : r = d <;> simp_all
  intro h
  exact absurd (BitVec.eq_of_toNat_eq h) e

theorem Strand.getD_putD (x : Strand) (d r : BitVec 4) (l : Dist) :
    (x.putD d l).getD r = if r = d then l else x.getD r := by
  simp only [Strand.putD, Strand.getD, vector_get_set]
  by_cases e : r = d <;> simp_all
  intro h
  exact absurd (BitVec.eq_of_toNat_eq h) e

theorem Strand.getP_putP (x : Strand) (d r : BitVec 3) (w : Word) :
    (x.putP d w).getP r = if r = d then (if d = 0 then BitVec.allOnes 64 else w) else x.getP r := by
  unfold Strand.putP Strand.getP
  by_cases hd : d = 0 <;> by_cases hr : r = 0 <;> by_cases e : r = d <;> simp_all [vector_get_set]
  intro h
  exact absurd (BitVec.eq_of_toNat_eq h) e

/-! ### Windows -/

/-- What landing a list of writes leaves. -/
theorem land_keeps (x : Strand) (p : Dest × WinVal) :
    (∀ r, p.1 ≠ .s r → (x.land p).getS r = x.getS r ∧ (x.land p).getRes r = x.getRes r) ∧
    (∀ r, p.1 ≠ .v r → (x.land p).getV r = x.getV r) ∧ (∀ r, p.1 ≠ .d r → (x.land p).getD r = x.getD r) ∧
    (x.land p).p = x.p ∧ (x.land p).ctl = x.ctl ∧ (x.land p).rest = x.rest ∧ (x.land p).windows = x.windows ∧
    (x.land p).pc0 = x.pc0 ∧ (x.land p).pc1 = x.pc1 ∧ (x.land p).pc2 = x.pc2 ∧ (x.land p).annul = x.annul ∧
    (x.land p).rep = x.rep ∧ (x.land p).slots = x.slots ∧ (x.land p).wait = x.wait ∧ (x.land p).nextWin = x.nextWin := by
  obtain ⟨d, v⟩ := p
  cases d <;> cases v
  all_goals simp only [Strand.land]
  case s.s r w =>
    refine ⟨fun q h => ?_, fun q _ => ?_, fun q _ => ?_, ?_⟩
    · have : q ≠ r := fun e => h (by rw [e])
      simp [Strand.getS_putS, Strand.getRes_putS, this]
    all_goals (unfold Strand.putS; split <;> simp [Strand.getV, Strand.getD, Strand.rest])
  case v.v r w =>
    refine ⟨fun q _ => ⟨rfl, rfl⟩, fun q h => ?_, fun q _ => rfl, ?_⟩
    · have : q ≠ r := fun e => h (by rw [e])
      simp [Strand.getV_putV, this]
    · simp [Strand.putV, Strand.rest]
  case d.d r w =>
    refine ⟨fun q _ => ⟨rfl, rfl⟩, fun q _ => rfl, fun q h => ?_, ?_⟩
    · have : q ≠ r := fun e => h (by rw [e])
      simp [Strand.getD_putD, this]
    · simp [Strand.putD, Strand.rest]
  all_goals simp

/-- Two strands agree but for the registers in S. -/
structure SameBut (S : Dest → Prop) (x y : Strand) : Prop where
  s : ∀ r, ¬ S (.s r) → y.getS r = x.getS r ∧ y.getRes r = x.getRes r
  v : ∀ r, ¬ S (.v r) → y.getV r = x.getV r
  d : ∀ r, ¬ S (.d r) → y.getD r = x.getD r
  p : y.p = x.p
  ctl : y.ctl = x.ctl
  rest : y.rest = x.rest
  windows : y.windows = x.windows
  place : y.pc0 = x.pc0 ∧ y.pc1 = x.pc1 ∧ y.pc2 = x.pc2 ∧ y.annul = x.annul ∧ y.rep = x.rep ∧ y.slots = x.slots ∧
    y.wait = x.wait ∧ y.nextWin = x.nextWin

theorem SameBut.refl (S : Dest → Prop) (x : Strand) : SameBut S x x :=
  ⟨fun _ _ => ⟨rfl, rfl⟩, fun _ _ => rfl, fun _ _ => rfl, rfl, rfl, rfl, rfl, ⟨rfl, rfl, rfl, rfl, rfl, rfl, rfl, rfl⟩⟩

theorem SameBut.trans {S : Dest → Prop} {x y z : Strand} (h : SameBut S x y) (k : SameBut S y z) : SameBut S x z where
  s r hr := ⟨(k.s r hr).1.trans (h.s r hr).1, (k.s r hr).2.trans (h.s r hr).2⟩
  v r hr := (k.v r hr).trans (h.v r hr)
  d r hr := (k.d r hr).trans (h.d r hr)
  p := k.p.trans h.p
  ctl := k.ctl.trans h.ctl
  rest := k.rest.trans h.rest
  windows := k.windows.trans h.windows
  place := by
    obtain ⟨a, b, c, d, e, f, g, i⟩ := h.place
    obtain ⟨a', b', c', d', e', f', g', i'⟩ := k.place
    exact ⟨a'.trans a, b'.trans b, c'.trans c, d'.trans d, e'.trans e, f'.trans f, g'.trans g, i'.trans i⟩

theorem SameBut.land (S : Dest → Prop) (x : Strand) (p : Dest × WinVal) (h : S p.1) : SameBut S x (x.land p) := by
  obtain ⟨h1, h2, h3, h4, h5, h6, h7, a, b, c, d, e, f, g, i⟩ := land_keeps x p
  exact ⟨fun r hr => h1 r (fun q => hr (q ▸ h)), fun r hr => h2 r (fun q => hr (q ▸ h)),
    fun r hr => h3 r (fun q => hr (q ▸ h)), h4, h5, h6, h7, ⟨a, b, c, d, e, f, g, i⟩⟩

theorem SameBut.lands (S : Dest → Prop) (l : List (Dest × WinVal)) (x : Strand) (h : ∀ p ∈ l, S p.1) :
    SameBut S x (l.foldl Strand.land x) := by
  induction l generalizing x with
  | nil => exact SameBut.refl S x
  | cons p r ih =>
    exact (SameBut.land S x p (h p (by simp))).trans (ih _ fun q hq => h q (by simp [hq]))

theorem SameBut.allLands (S : Dest → Prop) (l : List Window) (x : Strand) (h : ∀ w ∈ l, ∀ p ∈ w.writes, S p.1) :
    SameBut S x (l.foldl (fun y w => w.writes.foldl Strand.land y) x) := by
  induction l generalizing x with
  | nil => exact SameBut.refl S x
  | cons w r ih =>
    exact (SameBut.lands S w.writes x (h w (by simp))).trans (ih _ fun q hq => h q (by simp [hq]))

/-- What stepping through one instruction does to the registers: those that a window ends on change, nothing else. -/
theorem tick_keeps (x : Strand) :
    (∀ r, x.endsOn (.s r) = false → x.tick.getS r = x.getS r ∧ x.tick.getRes r = x.getRes r) ∧
    (∀ r, x.endsOn (.v r) = false → x.tick.getV r = x.getV r) ∧
    (∀ r, x.endsOn (.d r) = false → x.tick.getD r = x.getD r) ∧
    x.tick.p = x.p ∧ x.tick.ctl = x.ctl ∧ x.tick.rest = x.rest ∧
    (x.tick.pc0 = x.pc0 ∧ x.tick.pc1 = x.pc1 ∧ x.tick.pc2 = x.pc2 ∧ x.tick.annul = x.annul ∧ x.tick.rep = x.rep ∧
      x.tick.slots = x.slots ∧ x.tick.wait = x.wait ∧ x.tick.nextWin = x.nextWin) ∧
    x.tick.windows = (x.windows.map fun w => { w with left := w.left - 1 }).filter fun w => !(w.left == 0 && w.landed) := by
  have key := SameBut.allLands (fun d => x.endsOn d = true)
    ((x.windows.map fun w => { w with left := w.left - 1 }).filter fun w => w.left == 0 && w.landed)
    { x with windows := (x.windows.map fun w => { w with left := w.left - 1 }).filter
                          (fun w => !(w.left == 0 && w.landed)) } (by
      intro w hw p hp
      simp only [List.mem_filter, List.mem_map] at hw
      obtain ⟨⟨w0, h0, rfl⟩, h1⟩ := hw
      simp only [Strand.endsOn, List.any_eq_true, Bool.and_eq_true, decide_eq_true_eq]
      simp at h1 hp
      exact ⟨w0, h0, ⟨by omega, h1.2⟩, p, hp, rfl⟩)
  refine ⟨fun r hr => key.s r (by simp [hr]), fun r hr => key.v r (by simp [hr]), fun r hr => key.d r (by simp [hr]),
    key.p, key.ctl, key.rest, key.place, key.windows⟩

/-! ### What comes before the strand steps on -/

/-- A strand after an instruction's writes and before it steps on. -/
structure Wrote (x y : Strand) (ds : List Dest) (ps : List (BitVec 3)) (fl : Flags) : Prop where
  s : ∀ r, Dest.s r ∉ ds → y.getS r = x.getS r ∧ y.getRes r = x.getRes r
  v : ∀ r, Dest.v r ∉ ds → y.getV r = x.getV r
  d : ∀ r, Dest.d r ∉ ds → y.getD r = x.getD r
  p : ∀ r, r ∉ ps → y.getP r = x.getP r
  ctl : y.ctl = { x.ctl with flg := x.ctl.flg ||| fl.setWidth 64 }
  rest : y.rest = x.rest
  ends : ∀ d, d ∉ ds → y.endsOn d = true → x.endsOn d = true
  place : y.pc0 = x.pc0 ∧ y.pc1 = x.pc1 ∧ y.pc2 = x.pc2 ∧ y.annul = x.annul ∧ y.rep = x.rep

theorem setWidth_or (a b : Flags) : (a ||| b).setWidth 64 = a.setWidth 64 ||| b.setWidth 64 := by
  simp [BitVec.setWidth_or]

theorem Wrote.refl (x : Strand) : Wrote x x [] [] 0 :=
  ⟨fun _ _ => ⟨rfl, rfl⟩, fun _ _ => rfl, fun _ _ => rfl, fun _ _ => rfl, by simp, rfl, fun _ _ h => h,
    ⟨rfl, rfl, rfl, rfl, rfl⟩⟩

theorem Wrote.trans {x y z : Strand} {ds ds' : List Dest} {ps ps' : List (BitVec 3)} {fl fl' : Flags}
    (h : Wrote x y ds ps fl) (k : Wrote y z ds' ps' fl') : Wrote x z (ds ++ ds') (ps ++ ps') (fl ||| fl') where
  s r hr := by
    simp only [List.mem_append, not_or] at hr
    exact ⟨(k.s r hr.2).1.trans (h.s r hr.1).1, (k.s r hr.2).2.trans (h.s r hr.1).2⟩
  v r hr := by
    simp only [List.mem_append, not_or] at hr
    exact (k.v r hr.2).trans (h.v r hr.1)
  d r hr := by
    simp only [List.mem_append, not_or] at hr
    exact (k.d r hr.2).trans (h.d r hr.1)
  p r hr := by
    simp only [List.mem_append, not_or] at hr
    exact (k.p r hr.2).trans (h.p r hr.1)
  ctl := by rw [k.ctl, h.ctl, setWidth_or]; simp [BitVec.or_assoc]
  rest := k.rest.trans h.rest
  ends d hd he := by
    simp only [List.mem_append, not_or] at hd
    exact h.ends d hd.1 (k.ends d hd.2 he)
  place := by
    obtain ⟨a, b, c, d, e⟩ := h.place
    obtain ⟨a', b', c', d', e'⟩ := k.place
    exact ⟨a'.trans a, b'.trans b, c'.trans c, d'.trans d, e'.trans e⟩

/-- A wider list of written registers allows no less. -/
theorem Wrote.mono {x y : Strand} {ds ds' : List Dest} {ps ps' : List (BitVec 3)} {fl : Flags} (h : Wrote x y ds ps fl)
    (hd : ∀ d ∈ ds, d ∈ ds') (hp : ∀ p ∈ ps, p ∈ ps') : Wrote x y ds' ps' fl where
  s r hr := h.s r fun q => hr (hd _ q)
  v r hr := h.v r fun q => hr (hd _ q)
  d r hr := h.d r fun q => hr (hd _ q)
  p r hr := h.p r fun q => hr (hp _ q)
  ctl := h.ctl
  rest := h.rest
  ends d hd' := h.ends d fun q => hd' (hd _ q)
  place := h.place

theorem endsOn_iff (x : Strand) (d : Dest) :
    x.endsOn d = true ↔ ∃ w ∈ x.windows, w.left ≤ 1 ∧ w.landed = true ∧ ∃ p ∈ w.writes, p.1 = d := by
  simp only [Strand.endsOn, List.any_eq_true, Bool.and_eq_true, decide_eq_true_eq, and_assoc]

theorem endsOn_cancel (x : Strand) (d e : Dest) : (x.cancel d).endsOn e = true ↔ e ≠ d ∧ x.endsOn e = true := by
  simp only [endsOn_iff, Strand.cancel, List.mem_map]
  constructor
  · rintro ⟨w, ⟨w0, h0, rfl⟩, h1, h2, p, hp, rfl⟩
    simp only [List.mem_filter, decide_eq_true_eq] at hp
    exact ⟨hp.2, w0, h0, h1, h2, p, hp.1, rfl⟩
  · rintro ⟨hne, w, h0, h1, h2, p, hp, rfl⟩
    exact ⟨_, ⟨w, h0, rfl⟩, h1, h2, p, by simp [hp, hne], rfl⟩

theorem Wrote.writeSRes (x : Strand) (r : Reg) (w : Word) (q : BitVec 4) :
    Wrote x (x.writeSRes r w q) [.s r] [] 0 where
  s k hk := by
    have : k ≠ r := fun e => hk (by simp [e])
    simp only [Strand.writeSRes, Strand.getS_putS, Strand.getRes_putS, this, if_false]
    exact ⟨rfl, rfl⟩
  v k _ := by unfold Strand.writeSRes Strand.putS; split <;> rfl
  d k _ := by unfold Strand.writeSRes Strand.putS; split <;> rfl
  p k _ := by unfold Strand.writeSRes Strand.putS; split <;> rfl
  ctl := by unfold Strand.writeSRes Strand.putS; split <;> simp [Strand.cancel]
  rest := by unfold Strand.writeSRes Strand.putS; split <;> rfl
  ends d hd he := by
    have : (x.cancel (.s r)).endsOn d = true := by
      unfold Strand.writeSRes Strand.putS at he; split at he <;> exact he
    exact ((endsOn_cancel x _ d).mp this).2
  place := by unfold Strand.writeSRes Strand.putS; split <;> exact ⟨rfl, rfl, rfl, rfl, rfl⟩

theorem Wrote.writeS (x : Strand) (r : Reg) (w : Word) : Wrote x (x.writeS r w) [.s r] [] 0 :=
  Wrote.writeSRes x r w (residue w)

theorem Wrote.writeV (x : Strand) (r : Reg) (l : Line) : Wrote x (x.writeV r l) [.v r] [] 0 where
  s k _ := ⟨rfl, rfl⟩
  v k hk := by
    have : k ≠ r := fun e => hk (by simp [e])
    simp only [Strand.writeV, Strand.getV_putV, this, if_false]
    rfl
  d k _ := rfl
  p k _ := rfl
  ctl := by simp [Strand.writeV, Strand.putV, Strand.cancel]
  rest := rfl
  ends d hd he := ((endsOn_cancel x (.v r) d).mp he).2
  place := ⟨rfl, rfl, rfl, rfl, rfl⟩

theorem Wrote.writeD (x : Strand) (r : BitVec 4) (l : Dist) : Wrote x (x.writeD r l) [.d r] [] 0 where
  s k _ := ⟨rfl, rfl⟩
  v k _ := rfl
  d k hk := by
    have : k ≠ r := fun e => hk (by simp [e])
    simp only [Strand.writeD, Strand.getD_putD, this, if_false]
    rfl
  p k _ := rfl
  ctl := by simp [Strand.writeD, Strand.putD, Strand.cancel]
  rest := rfl
  ends d hd he := ((endsOn_cancel x (.d r) d).mp he).2
  place := ⟨rfl, rfl, rfl, rfl, rfl⟩

theorem Wrote.putP (x : Strand) (r : BitVec 3) (w : Word) : Wrote x (x.putP r w) [] [r] 0 where
  s k _ := by unfold Strand.putP; split <;> exact ⟨rfl, rfl⟩
  v k _ := by unfold Strand.putP; split <;> rfl
  d k _ := by unfold Strand.putP; split <;> rfl
  p k hk := by
    have : k ≠ r := fun e => hk (by simp [e])
    simp only [Strand.getP_putP, this, if_false]
  ctl := by unfold Strand.putP; split <;> simp
  rest := by unfold Strand.putP; split <;> rfl
  ends d _ he := by unfold Strand.putP at he; split at he <;> exact he
  place := by unfold Strand.putP; split <;> exact ⟨rfl, rfl, rfl, rfl, rfl⟩

theorem Wrote.addFlags (x : Strand) (f : Flags) : Wrote x (x.addFlags f) [] [] f :=
  ⟨fun _ _ => ⟨rfl, rfl⟩, fun _ _ => rfl, fun _ _ => rfl, fun _ _ => rfl, rfl, rfl, fun _ _ h => h,
    ⟨rfl, rfl, rfl, rfl, rfl⟩⟩

theorem cancels_keep (l : List (Dest × WinVal)) (x : Strand) :
    SameBut (fun _ => False) { x with windows := [] } { l.foldl (fun z p => z.cancel p.1) x with windows := [] } ∧
    ∀ e, (l.foldl (fun z p => z.cancel p.1) x).endsOn e = true → (∀ p ∈ l, p.1 ≠ e) ∧ x.endsOn e = true := by
  induction l generalizing x with
  | nil => exact ⟨SameBut.refl _ _, fun e h => ⟨by simp, h⟩⟩
  | cons p r ih =>
    obtain ⟨h1, h2⟩ := ih (x.cancel p.1)
    refine ⟨?_, fun e he => ?_⟩
    · exact h1
    · obtain ⟨h3, h4⟩ := h2 e he
      obtain ⟨h5, h6⟩ := (endsOn_cancel x p.1 e).mp h4
      refine ⟨fun q hq => ?_, h6⟩
      rcases List.mem_cons.mp hq with rfl | hq
      · exact fun k => h5 k.symm
      · exact h3 q hq

theorem Wrote.openWindow (x : Strand) (la : BitVec 4) (ds : List (Dest × WinVal)) (read : Option FarRead) (landed : Bool) :
    Wrote x (x.openWindow la ds read landed) (ds.map Prod.fst) [] 0 := by
  obtain ⟨h, he⟩ := cancels_keep ds x
  refine ⟨fun r _ => h.s r (fun q => q), fun r _ => h.v r (fun q => q), fun r _ => h.d r (fun q => q),
    fun r _ => ?_, ?_, h.rest, ?_, ?_⟩
  · have := h.p
    simp only [Strand.openWindow, Strand.getP]
    simp only at this
    rw [this]
  · have := h.ctl
    simp only [Strand.openWindow]
    simp only at this
    rw [this]
    simp
  · intro d hd hends
    obtain ⟨w, hw, h1, h2, p, hp, rfl⟩ := (endsOn_iff _ _).mp hends
    simp only [Strand.openWindow, List.mem_append, List.mem_singleton] at hw
    rcases hw with hw | rfl
    · exact (he p.1 ((endsOn_iff _ _).mpr ⟨w, hw, h1, h2, p, hp, rfl⟩)).2
    · exact absurd (List.mem_map_of_mem hp) hd
  · obtain ⟨a, b, c, d, e, _⟩ := h.place
    exact ⟨a, b, c, d, e⟩

/-! ### The step on -/

/-- The strand after the position has moved on and before the windows count the step. -/
def Strand.moved (s : State) (id : StrandId) (x : Strand) (target : Option Word) (nullify branch : Bool) : Strand :=
  let y : Strand := match x.rep with
    | some r => Strand.repAt s id x r (r.place + 1)
    | none =>
      { x with pc0 := x.pc1, pc1 := x.pc2, pc2 := target.getD (s.after id x.pc2),
               annul := if nullify then 3 else x.annul >>> 1 }
  { y with slots := if branch then 2 else y.slots - 1, wait := .none }

@[simp] theorem State.onStrand_setMe (s : State) (x : Strand) (f : Strand → Strand) :
    (s.setMe x).onStrand s.cur f = s.setMe (f x) := by
  simp [State.onStrand, State.setMe, State.setStrand, KMap.set_set, State.strand]

theorem stepOn_eq (s : State) (y : Strand) (target : Option Word) (nullify branch : Bool) :
    ((s.setMe y).advance s.cur target nullify).counted s.cur branch
      = s.setMe (Strand.moved (s.setMe y) s.cur y target nullify branch).tick := by
  simp only [State.advance, State.counted, State.onStrand_setMe]
  rfl

/-- `retire` as one change of the strand. -/
theorem retire_eq (s : State) (y : Strand) :
    retire (s.setMe y) = s.setMe (Strand.moved (s.setMe y) s.cur y none false false).tick :=
  stepOn_eq s y none false false

/-- `retireBranch` as one change of the strand. -/
theorem retireBranch_eq (s : State) (y : Strand) (target : Option Word) (nullify : Bool) :
    retireBranch target nullify (s.setMe y) = s.setMe (Strand.moved (s.setMe y) s.cur y target nullify true).tick :=
  stepOn_eq s y target nullify true

/-- Moving the position changes no register and no window. -/
theorem moved_keeps (s : State) (id : StrandId) (x : Strand) (target : Option Word) (nullify branch : Bool) :
    (x.moved s id target nullify branch).s = x.s ∧ (x.moved s id target nullify branch).sres = x.sres ∧
    (x.moved s id target nullify branch).v = x.v ∧ (x.moved s id target nullify branch).d = x.d ∧
    (x.moved s id target nullify branch).p = x.p ∧ (x.moved s id target nullify branch).ctl = x.ctl ∧
    (x.moved s id target nullify branch).rest = x.rest ∧ (x.moved s id target nullify branch).windows = x.windows := by
  unfold Strand.moved
  cases x.rep <;> exact ⟨rfl, rfl, rfl, rfl, rfl, rfl, rfl, rfl⟩

/-- The frame of an instruction whose writes are `h` and which then steps on in whatever way. -/
theorem kept_of_wrote {s' : State} {id : StrandId} {x y : Strand} {ds : List Dest} {ps : List (BitVec 3)} {fl : Flags}
    (h : Wrote x y ds ps fl) (target : Option Word) (nullify branch : Bool) :
    Strand.Kept x (y.moved s' id target nullify branch).tick ds ps fl := by
  obtain ⟨h1, h2, h3, h4, h5, h6, h7, h8⟩ := moved_keeps s' id y target nullify branch
  obtain ⟨t1, t2, t3, t4, t5, t6, _, _⟩ := tick_keeps (y.moved s' id target nullify branch)
  have hends : ∀ d, (y.moved s' id target nullify branch).endsOn d = y.endsOn d := by
    intro d; simp only [Strand.endsOn, h8]
  have ne : ∀ d, d ∉ ds → x.endsOn d = false → (y.moved s' id target nullify branch).endsOn d = false := by
    intro d hd he
    rw [hends]
    cases hy : y.endsOn d with
    | false => rfl
    | true => rw [h.ends d hd hy] at he; cases he
  refine ⟨fun r hr he => ?_, fun r hr he => ?_, fun r hr he => ?_, fun r hr => ?_, ?_, ?_⟩
  · obtain ⟨a, b⟩ := t1 r (ne _ hr he)
    obtain ⟨c, d⟩ := h.s r hr
    refine ⟨a.trans (Eq.trans ?_ c), b.trans (Eq.trans ?_ d)⟩
    · simp only [Strand.getS, h1]
    · simp only [Strand.getRes, h2]
  · exact (t2 r (ne _ hr he)).trans (Eq.trans (by simp only [Strand.getV, h3]) (h.v r hr))
  · exact (t3 r (ne _ hr he)).trans (Eq.trans (by simp only [Strand.getD, h4]) (h.d r hr))
  · refine Eq.trans ?_ (h.p r hr)
    simp only [Strand.getP, t4, h5]
  · rw [t5, h6, h.ctl]
  · rw [t6, h7, h.rest]

/-- An instruction's writes, and then the step on, have the frame that the writes have. -/
theorem Frame.retire {s t : State} {y : Strand} {ds : List Dest} {ps : List (BitVec 3)} {fl : Flags}
    (ht : t = s.setMe y) (h : Wrote s.me y ds ps fl) : Frame s (retire t) ds ps fl := by
  subst ht
  rw [retire_eq]
  refine ⟨OnlyMe.setMe s _, ?_, fun hr => ?_⟩
  · rw [State.me_setMe]
    exact kept_of_wrote h none false false
  · obtain ⟨p0, p1, p2, p3, p4⟩ := h.place
    obtain ⟨q0, q1, q2, q3, q4, _⟩ := (tick_keeps (y.moved (s.setMe y) s.cur none false false)).2.2.2.2.2.2.1
    have hy : y.rep = none := by rw [p4, hr]
    rw [State.me_setMe, q0, q1, q2, q3, q4]
    simp [Strand.moved, hy, p1, p2, p3]

/-- The registers that no window ends on hold after the step what the instruction left in them. -/
theorem retire_regs (s : State) (y : Strand) :
    (∀ r, y.endsOn (.s r) = false →
      (Machine.retire (s.setMe y)).getS r = y.getS r ∧ (Machine.retire (s.setMe y)).me.getRes r = y.getRes r) ∧
    (∀ r, y.endsOn (.v r) = false → (Machine.retire (s.setMe y)).getV r = y.getV r) ∧
    (∀ r, y.endsOn (.d r) = false → (Machine.retire (s.setMe y)).getD r = y.getD r) ∧
    (∀ r, (Machine.retire (s.setMe y)).getP r = y.getP r) := by
  obtain ⟨h1, h2, h3, h4, h5, h6, h7, h8⟩ := moved_keeps (s.setMe y) s.cur y none false false
  obtain ⟨t1, t2, t3, t4, _⟩ := tick_keeps (y.moved (s.setMe y) s.cur none false false)
  have e : ∀ d, y.endsOn d = false → (y.moved (s.setMe y) s.cur none false false).endsOn d = false := by
    intro d h
    simp only [Strand.endsOn, h8]
    exact h
  rw [retire_eq]
  simp only [State.getS, State.getV, State.getD, State.getP, State.me_setMe]
  refine ⟨fun r h => ⟨(t1 r (e _ h)).1.trans ?_, (t1 r (e _ h)).2.trans ?_⟩, fun r h => (t2 r (e _ h)).trans ?_,
    fun r h => (t3 r (e _ h)).trans ?_, fun r => ?_⟩
  · simp only [Strand.getS, h1]
  · simp only [Strand.getRes, h2]
  · simp only [Strand.getV, h3]
  · simp only [Strand.getD, h4]
  · simp only [Strand.getP, t4, h5]

theorem endsOn_writeSRes (x : Strand) (r : Reg) (w : Word) (q : BitVec 4) : (x.writeSRes r w q).endsOn (.s r) = false := by
  cases h : (x.writeSRes r w q).endsOn (.s r) with
  | false => rfl
  | true =>
    have : (x.cancel (.s r)).endsOn (.s r) = true := by
      unfold Strand.writeSRes Strand.putS at h; split at h <;> exact h
    exact absurd rfl ((endsOn_cancel x _ _).mp this).1

theorem endsOn_writeV (x : Strand) (r : Reg) (l : Line) : (x.writeV r l).endsOn (.v r) = false := by
  cases h : (x.writeV r l).endsOn (.v r) with
  | false => rfl
  | true => exact absurd rfl ((endsOn_cancel x (.v r) (.v r)).mp h).1

theorem endsOn_writeD (x : Strand) (r : BitVec 4) (e : Dist) : (x.writeD r e).endsOn (.d r) = false := by
  cases h : (x.writeD r e).endsOn (.d r) with
  | false => rfl
  | true => exact absurd rfl ((endsOn_cancel x (.d r) (.d r)).mp h).1

@[simp] theorem Strand.endsOn_addFlags (x : Strand) (f : Flags) (d : Dest) : (x.addFlags f).endsOn d = x.endsOn d := rfl
@[simp] theorem Strand.getS_addFlags (x : Strand) (f : Flags) (r : Reg) : (x.addFlags f).getS r = x.getS r := rfl
@[simp] theorem Strand.getRes_addFlags (x : Strand) (f : Flags) (r : Reg) : (x.addFlags f).getRes r = x.getRes r := rfl
@[simp] theorem Strand.getV_addFlags (x : Strand) (f : Flags) (r : Reg) : (x.addFlags f).getV r = x.getV r := rfl
@[simp] theorem Strand.getD_addFlags (x : Strand) (f : Flags) (r : BitVec 4) : (x.addFlags f).getD r = x.getD r := rfl

/-! ### Instructions that write one register -/

/-- A scalar result under any residue, with flags. -/
theorem Writes.sres {i : Instr} {s t : State} {d : Reg} {w : Word} {q : BitVec 4} {fl : Flags}
    (e : t = s.setMe ((s.me.writeSRes d w q).addFlags fl)) (h : exec i s = (Eff.done t).out) : Writes i s d w fl := by
  have hw := (Wrote.writeSRes s.me d w q).trans (Wrote.addFlags _ fl)
  have hf : Frame s (retire t) [.s d] [] fl := Frame.retire e (by simpa using hw)
  refine ⟨retire t, h, ?_, hf⟩
  subst e
  have := ((retire_regs s ((s.me.writeSRes d w q).addFlags fl)).1 d
    ((Strand.endsOn_addFlags _ _ _).trans (endsOn_writeSRes s.me d w q))).1
  rw [this, Strand.getS_addFlags, Strand.writeSRes, Strand.getS_putS, if_pos rfl]

theorem Writes.predicted {i : Instr} {s : State} {d : Reg} {r : Nat × Flags} {bad : Bool} {dev : Int}
    (h : exec i s = (Eff.done (s.deliverPredicted d r bad dev)).out) : Writes i s d (BitVec.ofNat 64 r.1) r.2 :=
  Writes.sres (by simp [State.deliverPredicted, State.addFlags, State.onMe_eq]; rfl) h

theorem Writes.deliver {i : Instr} {s : State} {d : Reg} {r : Nat × Flags}
    (h : exec i s = (Eff.done (s.deliver d r)).out) : Writes i s d (BitVec.ofNat 64 r.1) r.2 :=
  Writes.sres (by simp [State.deliver, State.writeS, State.addFlags, State.onMe_eq]; rfl) h

theorem Strand.addFlags_zero (x : Strand) : x.addFlags 0 = x := by
  simp [Strand.addFlags]

theorem Writes.value {i : Instr} {s : State} {d : Reg} {w : Word} (h : exec i s = (Eff.value s d w).out) :
    Writes i s d w 0 :=
  Writes.sres (by rw [Strand.addFlags_zero]; rfl) h

theorem WritesV.write {i : Instr} {s t : State} {d : Reg} {l : Line} {fl : Flags}
    (e : t = s.setMe ((s.me.writeV d l).addFlags fl)) (h : exec i s = (Eff.done t).out) : WritesV i s d l fl := by
  have hw := (Wrote.writeV s.me d l).trans (Wrote.addFlags _ fl)
  have hf : Frame s (retire t) [.v d] [] fl := Frame.retire e (by simpa using hw)
  refine ⟨retire t, h, ?_, hf⟩
  subst e
  have := (retire_regs s ((s.me.writeV d l).addFlags fl)).2.1 d
    ((Strand.endsOn_addFlags _ _ _).trans (endsOn_writeV s.me d l))
  rw [this, Strand.getV_addFlags, Strand.writeV, Strand.getV_putV, if_pos rfl]

theorem WritesD.write {i : Instr} {s t : State} {d : BitVec 4} {l : Dist} {fl : Flags}
    (e : t = s.setMe ((s.me.writeD d l).addFlags fl)) (h : exec i s = (Eff.done t).out) : WritesD i s d l fl := by
  have hw := (Wrote.writeD s.me d l).trans (Wrote.addFlags _ fl)
  have hf : Frame s (retire t) [.d d] [] fl := Frame.retire e (by simpa using hw)
  refine ⟨retire t, h, ?_, hf⟩
  subst e
  have := (retire_regs s ((s.me.writeD d l).addFlags fl)).2.2.1 d
    ((Strand.endsOn_addFlags _ _ _).trans (endsOn_writeD s.me d l))
  rw [this, Strand.getD_addFlags, Strand.writeD, Strand.getD_putD, if_pos rfl]

end Sys2Proof.Machine
end

