-- ==== Sys2Proof/Laws/Lanes.lean ====
section
/-! SUPPORT. What the lane-by-lane operations on vector registers, and the element-by-element operations on distribution
registers, leave in each lane or element and in the flags. -/

namespace Sys2Proof.Machine

/-! ### Packed lanes -/

theorem packLanes_lt (w : Nat) (l : List Nat) : packLanes w l < 2 ^ (w * l.length) := by
  induction l with
  | nil => simp [packLanes]
  | cons x r ih =>
    have h : 0 < 2 ^ w := Nat.two_pow_pos w
    have hx : x % 2 ^ w < 2 ^ w := Nat.mod_lt _ h
    rw [packLanes, List.length_cons, Nat.mul_succ, Nat.add_comm (w * r.length), Nat.pow_add]
    calc x % 2 ^ w + 2 ^ w * packLanes w r < 2 ^ w + 2 ^ w * packLanes w r := by omega
      _ = 2 ^ w * (packLanes w r + 1) := by rw [Nat.mul_add, Nat.mul_one, Nat.add_comm]
      _ ≤ 2 ^ w * 2 ^ (w * r.length) := Nat.mul_le_mul_left _ ih

theorem packLanes_lane (w : Nat) : ∀ (l : List Nat) (n : Nat) (h : n < l.length),
    packLanes w l >>> (w * n) % 2 ^ w = l[n] % 2 ^ w
  | x :: r, 0, _ => by
    simp only [packLanes, Nat.mul_zero, Nat.shiftRight_zero, List.getElem_cons_zero]
    rw [Nat.add_mul_mod_self_left, Nat.mod_mod]
  | x :: r, n + 1, h => by
    have h0 : 0 < 2 ^ w := Nat.two_pow_pos w
    have ih := packLanes_lane w r n (by simpa using h)
    rw [packLanes, Nat.mul_succ, Nat.add_comm (w * n), Nat.shiftRight_add, Nat.shiftRight_eq_div_pow _ w,
      Nat.add_mul_div_left _ _ h0, Nat.div_eq_of_lt (Nat.mod_lt _ h0), Nat.zero_add, ih]
    rfl

/-- A lane of a line packed from its lanes. -/
theorem lane_pack {w : Nat} {l : List Nat} (hl : w * l.length ≤ 512) {n : Nat} (h : n < l.length) :
    lane (BitVec.ofNat 512 (packLanes w l)) w n = l[n] % 2 ^ w := by
  have hb : packLanes w l < 2 ^ 512 := Nat.lt_of_lt_of_le (packLanes_lt w l) (Nat.pow_le_pow_right (by omega) hl)
  unfold lane
  rw [BitVec.toNat_ofNat, Nat.mod_eq_of_lt hb, packLanes_lane w l n h]

theorem lane_lt (l : Line) (w n : Nat) : lane l w n < 2 ^ w := Nat.mod_lt _ (Nat.two_pow_pos w)

theorem lanes_fit (w : Nat) : w * (512 / w) ≤ 512 := Nat.mul_div_le 512 w

theorem lane_lanesLine {w n : Nat} (f : Nat → Nat) (h : n < 512 / w) : lane (lanesLine w f) w n = f n % 2 ^ w := by
  unfold lanesLine
  rw [lane_pack (by simpa using lanes_fit w) (by simpa using h)]
  simp

/-! ### Flags of many lanes -/

theorem foldl_or (l : List Flags) (a : Flags) (b : Nat) :
    (l.foldl (· ||| ·) a).getLsbD b = true ↔ a.getLsbD b = true ∨ ∃ x ∈ l, x.getLsbD b = true := by
  induction l generalizing a with
  | nil => simp
  | cons x r ih => simp [ih, or_assoc]

/-- The bits of the flags of an indexed family, each term 0 where it does not count. -/
theorem foldl_or_range (k : Nat) (on : Nat → Bool) (g : Nat → Flags) (h : ∀ n, on n = false → g n = 0) (b : Nat) :
    (((List.range k).map g).foldl (· ||| ·) 0).getLsbD b = true ↔ ∃ n, n < k ∧ on n = true ∧ (g n).getLsbD b = true := by
  rw [foldl_or]
  constructor
  · rintro (h0 | ⟨x, hx, hb⟩)
    · simp at h0
    · obtain ⟨n, hn, rfl⟩ := List.mem_map.mp hx
      refine ⟨n, List.mem_range.mp hn, ?_, hb⟩
      cases ho : on n with
      | true => rfl
      | false => rw [h n ho] at hb; simp at hb
  · rintro ⟨n, hn, _, hb⟩
    exact .inr ⟨g n, List.mem_map.mpr ⟨n, List.mem_range.mpr hn, rfl⟩, hb⟩

/-! ### Lane-by-lane results -/

theorem mapLanes_lane {w n : Nat} (en : Nat → Bool) (old : Line) (f : Nat → Nat × Flags) (h : n < 512 / w) :
    lane (mapLanes w en old f).1 w n = if en n = true then (f n).1 % 2 ^ w else lane old w n := by
  unfold mapLanes
  rw [lane_pack (by simpa using lanes_fit w) (by simpa using h)]
  simp only [List.map_map, List.getElem_map, List.getElem_range, Function.comp_apply]
  split
  · rfl
  · exact Nat.mod_eq_of_lt (lane_lt old w n)

theorem mapLanes_flags (w : Nat) (en : Nat → Bool) (old : Line) (f : Nat → Nat × Flags) (b : Nat) :
    (mapLanes w en old f).2.getLsbD b = true ↔ ∃ n, n < 512 / w ∧ en n = true ∧ (f n).2.getLsbD b = true := by
  unfold mapLanes
  simp only [List.map_map]
  rw [foldl_or_range _ en _ (by intro n hn; simp [hn])]
  constructor <;> rintro ⟨n, hn, ho, hb⟩ <;> exact ⟨n, hn, ho, by simpa [ho] using hb⟩

/-- A vector line written with flags is the whole effect of an instruction that answers it. -/
theorem WritesV.done {i : Instr} {s : State} {d : Reg} {l : Line} {fl : Flags}
    (h : exec i s = (Eff.done ((s.writeV d l).addFlags fl)).out) : WritesV i s d l fl :=
  WritesV.write (by simp [State.writeV, State.addFlags, State.onMe_eq]) h

/-- What `Eff.lanes` does, whole. -/
theorem Lanewise.of_lanes {i : Instr} {s : State} {d : Reg} {m : BitVec 3} {w : Nat} {f : Nat → Nat × Flags}
    (h : exec i s = (Eff.lanes s d m w f).out) : Lanewise i s d m w f := by
  obtain ⟨t, e, r, fr⟩ := WritesV.done h
  refine ⟨t, _, e, fr, fun n hn => ?_, fun b => mapLanes_flags w (s.enabled m) (s.getV d) f b⟩
  rw [r]
  exact mapLanes_lane _ _ _ hn

/-- Two families that agree on the enabled lanes, up to the lane width, give one statement. -/
theorem Lanewise.congr {i : Instr} {s : State} {d : Reg} {m : BitVec 3} {w : Nat} {f g : Nat → Nat × Flags}
    (h : Lanewise i s d m w f)
    (e : ∀ n, n < 512 / w → s.enabled m n = true → (f n).1 % 2 ^ w = (g n).1 % 2 ^ w ∧ (f n).2 = (g n).2) :
    Lanewise i s d m w g := by
  obtain ⟨t, fl, h1, h2, h3, h4⟩ := h
  refine ⟨t, fl, h1, h2, fun n hn => ?_, fun b => (h4 b).trans ?_⟩
  · rw [h3 n hn]
    split
    · rename_i ho; exact (e n hn ho).1
    · rfl
  · constructor <;> rintro ⟨n, hn, ho, hb⟩ <;> exact ⟨n, hn, ho, by simpa [(e n hn ho).2] using hb⟩

/-! ### Element-by-element results -/

theorem enabledElems_mem (s : State) (m : BitVec 3) (e : Nat) : e ∈ s.enabledElems m ↔ e < 8 ∧ s.enabled m e = true := by
  simp [State.enabledElems]

theorem foldl_or_map {α : Type} (l : List α) (g : α → Flags) (a : Flags) (b : Nat) :
    (l.foldl (fun a e => a ||| g e) a).getLsbD b = true ↔ a.getLsbD b = true ∨ ∃ e ∈ l, (g e).getLsbD b = true := by
  induction l generalizing a with
  | nil => simp
  | cons x r ih => simp [ih, or_assoc]

/-- The bits of the flags of the enabled elements. -/
theorem elemFlags (s : State) (m : BitVec 3) (g : Nat → Flags) (b : Nat) :
    ((s.enabledElems m).foldl (fun a e => a ||| g e) 0).getLsbD b = true
      ↔ ∃ e, e < 8 ∧ s.enabled m e = true ∧ (g e).getLsbD b = true := by
  rw [foldl_or_map]
  simp only [enabledElems_mem, and_assoc]
  simp

theorem dist_elem (x : Dist) {e : Nat} (h : e < 8) : x.elem e = x.elems.get ⟨e, h⟩ := by
  unfold Dist.elem
  simp [List.getD, Vector.get, h]

theorem elem_elems (s : State) (d : BitVec 4) (m : BitVec 3) (f : Nat → DElem → DElem) (mask : BitVec 16) (align approx : Bool)
    (e : Nat) (h : e < 8) :
    (⟨s.elems d m f, mask, align, approx⟩ : Dist).elem e
      = if s.enabled m e = true then f e ((s.getD d).elem e) else (s.getD d).elem e := by
  rw [dist_elem _ h, dist_elem _ h]
  simp [State.elems, Vector.get]
  rfl

/-- A distribution register written with flags is the whole effect of an instruction that answers it. -/
theorem WritesD.done {i : Instr} {s : State} {d : BitVec 4} {x : Dist} {fl : Flags}
    (h : exec i s = (Eff.done ((s.writeD d x).addFlags fl)).out) : WritesD i s d x fl :=
  WritesD.write (by simp [State.writeD, State.addFlags, State.onMe_eq]) h

/-- What `Eff.dist` does, whole. -/
theorem Elementwise.of_dist {i : Instr} {s : State} {d : BitVec 4} {m : BitVec 3} {mask : BitVec 16} {align approx : Bool}
    {f : Nat → DElem × Flags} (h : exec i s = (Eff.dist s d m mask align approx f).out) :
    Elementwise i s d m mask align approx f := by
  obtain ⟨t, e, r, fr⟩ := WritesD.done h
  refine ⟨t, _, e, fr, by rw [r], by rw [r], by rw [r], fun n hn => ?_, fun b => elemFlags s m (fun e => (f e).2) b⟩
  rw [r]
  exact elem_elems s d m _ _ _ _ n hn

/-- Two families that agree on the enabled elements give one statement. -/
theorem Elementwise.congr {i : Instr} {s : State} {d : BitVec 4} {m : BitVec 3} {mask : BitVec 16} {align approx : Bool}
    {f g : Nat → DElem × Flags} (h : Elementwise i s d m mask align approx f)
    (e : ∀ n, n < 8 → s.enabled m n = true → f n = g n) : Elementwise i s d m mask align approx g := by
  obtain ⟨t, fl, h1, h2, h3, h4, h5, h6, h7⟩ := h
  refine ⟨t, fl, h1, h2, h3, h4, h5, fun n hn => ?_, fun b => (h7 b).trans ?_⟩
  · rw [h6 n hn]
    split
    · rename_i ho; rw [e n hn ho]
    · rfl
  · constructor <;> rintro ⟨n, hn, ho, hb⟩ <;> exact ⟨n, hn, ho, by simpa [e n hn ho] using hb⟩

end Sys2Proof.Machine
end

