-- ==== Sys2Proof/Laws/Memory.lean ====
section
/-! SUPPORT. Byte memories: every operation keeps the canonical form, and a read after a write reads what was written. -/

namespace Sys2Proof.Machine

theorem mem_takeWhile {α : Type} {p : α → Bool} {l : List α} {x : α} (h : x ∈ l.takeWhile p) : x ∈ l ∧ p x = true := by
  induction l with
  | nil => cases h
  | cons y r ih =>
    simp only [List.takeWhile_cons] at h
    split at h
    · rename_i hy
      rcases List.mem_cons.mp h with rfl | h
      · exact ⟨List.mem_cons_self, hy⟩
      · exact ⟨List.mem_cons_of_mem _ (ih h).1, (ih h).2⟩
    · cases h

theorem mem_dropWhile {α : Type} {p : α → Bool} {l : List α} {x : α} (h : x ∈ l.dropWhile p) : x ∈ l := by
  induction l with
  | nil => cases h
  | cons y r ih =>
    simp only [List.dropWhile_cons] at h
    split at h
    · exact List.mem_cons_of_mem _ (ih h)
    · exact h

theorem Mem.read_eq (m : Mem) (k : Nat) : Mem.read m k = (cellAt m k).getD Mem.unlisted := by
  unfold Mem.read
  cases cellAt m k <;> rfl

/-- Addresses strictly rising from a lower bound. -/
def From (a : Nat) : List Host.Cell → Prop
  | [] => True
  | c :: r => a ≤ c.1 ∧ From (c.1 + 1) r

theorem From.mono {a b : Nat} {m : List Host.Cell} (h : From a m) (hb : b ≤ a) : From b m := by
  cases m with
  | nil => trivial
  | cons c r => exact ⟨Nat.le_trans hb h.1, h.2⟩

theorem From.tail {a : Nat} {c : Host.Cell} {r : List Host.Cell} (h : From a (c :: r)) : From a r :=
  h.2.mono (by have := h.1; omega)

theorem from_of_rising {m : List Host.Cell} (h : rising m = true) : From 0 m := by
  suffices ∀ (m : List Host.Cell) (a : Nat), rising m = true → (∀ c r, m = c :: r → a ≤ c.1) → From a m from
    this m 0 h (fun _ _ _ => Nat.zero_le _)
  intro m
  induction m with
  | nil => intros; trivial
  | cons c r ih =>
    intro a h hb
    refine ⟨hb c r rfl, ih (c.1 + 1) ?_ ?_⟩
    · cases r with
      | nil => rfl
      | cons d r =>
        simp only [rising, Bool.and_eq_true] at h
        exact h.2
    · intro d r' hr
      subst hr
      simp only [rising, Bool.and_eq_true, decide_eq_true_eq] at h
      exact h.1

theorem rising_of_from {a : Nat} {m : List Host.Cell} (h : From a m) : rising m = true := by
  induction m generalizing a with
  | nil => rfl
  | cons c r ih =>
    cases r with
    | nil => rfl
    | cons d r =>
      simp only [rising, Bool.and_eq_true, decide_eq_true_eq]
      exact ⟨by have := h.2.1; omega, ih h.2⟩

/-- The canonical form in two parts: rising addresses, and no entry equal to the unlisted byte. -/
theorem wf_iff (m : Mem) : Mem.wf m = true ↔ From 0 m ∧ ∀ c ∈ m, c.2 ≠ Mem.unlisted := by
  suffices ∀ (m : Mem), Mem.wf m = true ↔ rising m = true ∧ ∀ c ∈ m, c.2 ≠ Mem.unlisted by
    rw [this]
    exact ⟨fun h => ⟨from_of_rising h.1, h.2⟩, fun h => ⟨rising_of_from h.1, h.2⟩⟩
  intro m
  induction m with
  | nil => simp [Mem.wf, rising]
  | cons c r ih =>
    cases r with
    | nil => simp [Mem.wf, rising]
    | cons d r =>
      simp only [Mem.wf, rising, Bool.and_eq_true, decide_eq_true_eq, ih, List.mem_cons, forall_eq_or_imp]
      constructor
      · rintro ⟨⟨h1, h2⟩, h3, h4, h5⟩; exact ⟨⟨h2, h3⟩, h1, h4, h5⟩
      · rintro ⟨⟨h2, h3⟩, h1, h4, h5⟩; exact ⟨⟨h1, h2⟩, h3, h4, h5⟩

theorem cellAt_lt {a k : Nat} {m : List Host.Cell} (h : From a m) (hk : k < a) : cellAt m k = none := by
  induction m generalizing a with
  | nil => rfl
  | cons c r ih =>
    simp only [cellAt]
    rw [if_neg (by have := h.1; omega)]
    exact ih h.2 (by have := h.1; omega)

theorem mem_of_cellAt {m : List Host.Cell} {k : Nat} {b : Byte} (h : cellAt m k = some b) : (k, b) ∈ m := by
  induction m with
  | nil => cases h
  | cons c r ih =>
    simp only [cellAt] at h
    split at h
    · obtain rfl := Option.some.inj h
      rename_i e
      subst e
      exact List.mem_cons_self
    · exact List.mem_cons_of_mem _ (ih h)

theorem cellAt_append (m n : List Host.Cell) (k : Nat) :
    cellAt (m ++ n) k = match cellAt m k with | some b => some b | none => cellAt n k := by
  induction m with
  | nil => rfl
  | cons c r ih =>
    simp only [List.cons_append, cellAt]
    split
    · rfl
    · exact ih

/-- The cells below an address, and from it on, of a rising list. -/
theorem cellAt_takeWhile {a : Nat} {m : List Host.Cell} (h : From 0 m) (k : Nat) :
    cellAt (m.takeWhile fun c => decide (c.1 < a)) k = if k < a then cellAt m k else none := by
  suffices ∀ (m : List Host.Cell) (b : Nat), From b m →
      cellAt (m.takeWhile fun c => decide (c.1 < a)) k = if k < a then cellAt m k else none from this m 0 h
  intro m
  induction m with
  | nil => intro b _; simp [cellAt]
  | cons c r ih =>
    intro b h
    by_cases hc : c.1 < a
    · simp only [List.takeWhile_cons, hc, decide_true, if_true, cellAt]
      by_cases he : c.1 = k
      · simp only [he, if_true]
        rw [if_pos (by omega)]
      · simp only [he, if_false]
        exact ih _ h.2
    · simp only [List.takeWhile_cons, hc, decide_false, Bool.false_eq_true, if_false, cellAt]
      by_cases hk : k < a
      · rw [if_pos hk, if_neg (by omega)]
        exact (cellAt_lt h.2 (by omega)).symm
      · rw [if_neg hk]

theorem cellAt_dropWhile {a : Nat} {m : List Host.Cell} (h : From 0 m) (k : Nat) :
    cellAt (m.dropWhile fun c => decide (c.1 < a)) k = if k < a then none else cellAt m k := by
  suffices ∀ (m : List Host.Cell) (b : Nat), From b m →
      cellAt (m.dropWhile fun c => decide (c.1 < a)) k = if k < a then none else cellAt m k from this m 0 h
  intro m
  induction m with
  | nil => intro b _; simp [cellAt]
  | cons c r ih =>
    intro b h
    by_cases hc : c.1 < a
    · simp only [List.dropWhile_cons, hc, decide_true, if_true, cellAt]
      rw [ih _ h.2]
      by_cases hk : k < a
      · rw [if_pos hk, if_pos hk]
      · rw [if_neg hk, if_neg hk, if_neg (by omega)]
    · simp only [List.dropWhile_cons, hc, decide_false, Bool.false_eq_true, if_false]
      by_cases hk : k < a
      · rw [if_pos hk]
        exact cellAt_lt (a := a) ⟨by omega, h.2⟩ hk
      · rw [if_neg hk]

theorem From.takeWhile {b : Nat} {m : List Host.Cell} (p : Host.Cell → Bool) (h : From b m) : From b (m.takeWhile p) := by
  induction m generalizing b with
  | nil => trivial
  | cons c r ih =>
    simp only [List.takeWhile_cons]
    split
    · exact ⟨h.1, ih h.2⟩
    · trivial

theorem From.dropWhile {b a : Nat} {m : List Host.Cell} (h : From b m) :
    From a (m.dropWhile fun c => decide (c.1 < a)) := by
  induction m generalizing b with
  | nil => trivial
  | cons c r ih =>
    by_cases hc : c.1 < a
    · simp only [List.dropWhile_cons, hc, decide_true, if_true]
      exact ih h.2
    · simp only [List.dropWhile_cons, hc, decide_false, Bool.false_eq_true, if_false]
      exact ⟨by omega, h.2⟩

theorem From.filter {b : Nat} {m : List Host.Cell} (p : Host.Cell → Bool) (h : From b m) : From b (m.filter p) := by
  induction m generalizing b with
  | nil => trivial
  | cons c r ih =>
    simp only [List.filter_cons]
    split
    · exact ⟨h.1, ih h.2⟩
    · exact (ih h.2).mono (by have := h.1; omega)

/-- Lists joined below and from an address on. -/
theorem From.append {b a : Nat} {m n : List Host.Cell} (h : From b m) (hm : ∀ c ∈ m, c.1 < a) (hn : From a n) (hb : b ≤ a) :
    From b (m ++ n) := by
  induction m generalizing b with
  | nil => exact hn.mono hb
  | cons c r ih =>
    exact ⟨h.1, ih h.2 (fun d hd => hm d (List.mem_cons_of_mem _ hd)) (by have := hm c List.mem_cons_self; omega)⟩

theorem From.bound {b : Nat} {m : List Host.Cell} (h : From b m) : ∀ c ∈ m, b ≤ c.1 := by
  induction m generalizing b with
  | nil => simp
  | cons c r ih =>
    intro d hd
    rcases List.mem_cons.mp hd with rfl | hd
    · exact h.1
    · have := ih h.2 d hd
      have := h.1
      omega

theorem takeWhile_lt (m : List Host.Cell) (a : Nat) : ∀ c ∈ m.takeWhile (fun c => decide (c.1 < a)), c.1 < a := by
  intro c hc
  simpa using (mem_takeWhile hc).2

/-- Cells in a range. -/
def Within (a n : Nat) (cs : List Host.Cell) : Prop := From a cs ∧ ∀ c ∈ cs, c.1 < a + n

theorem From.splice {m cs : List Host.Cell} {a n : Nat} (h : From 0 m) (hc : Within a n cs) : From 0 (splice m a n cs) := by
  unfold Machine.splice
  refine From.append (a := a + n) ?_ ?_ h.dropWhile (Nat.zero_le _)
  · exact From.append (h.takeWhile _) (takeWhile_lt m a) hc.1 (Nat.zero_le _)
  · intro c hcm
    rcases List.mem_append.mp hcm with h1 | h1
    · have := takeWhile_lt m a c h1
      omega
    · exact hc.2 c h1

theorem cellAt_splice {m cs : List Host.Cell} {a n : Nat} (h : From 0 m) (hc : Within a n cs) (k : Nat) :
    cellAt (splice m a n cs) k = if k < a then cellAt m k else if k < a + n then cellAt cs k else cellAt m k := by
  unfold Machine.splice
  rw [List.append_assoc, cellAt_append, cellAt_append, cellAt_takeWhile h, cellAt_dropWhile h]
  by_cases h1 : k < a
  · rw [if_pos h1, if_pos h1]
    cases hm : cellAt m k with
    | some b => rfl
    | none =>
      rw [cellAt_lt hc.1 h1]
      simp only
      rw [if_pos (by omega)]
  · rw [if_neg h1, if_neg h1]
    by_cases h2 : k < a + n
    · rw [if_pos h2, if_pos h2]
      cases cellAt cs k <;> rfl
    · rw [if_neg h2, if_neg h2]
      have : cellAt cs k = none := by
        cases hcs : cellAt cs k with
        | none => rfl
        | some b => exact absurd (hc.2 _ (mem_of_cellAt hcs)) (by simpa using h2)
      rw [this]

theorem within_runCells (a : Nat) (bs : List Byte) : Within a bs.length (runCells a bs) := by
  induction bs generalizing a with
  | nil => exact ⟨trivial, by simp [runCells]⟩
  | cons b r ih =>
    obtain ⟨h1, h2⟩ := ih (a + 1)
    refine ⟨⟨Nat.le_refl _, h1⟩, ?_⟩
    intro c hc
    simp only [runCells, List.mem_cons] at hc
    rcases hc with rfl | hc
    · simp
    · have := h2 c hc
      simp only [List.length_cons]
      omega

theorem cellAt_runCells (a : Nat) (bs : List Byte) (k : Nat) :
    cellAt (runCells a bs) k = if k < a then none else bs[k - a]? := by
  induction bs generalizing a with
  | nil => simp [runCells, cellAt]
  | cons b r ih =>
    simp only [runCells, cellAt, ih]
    by_cases h : a = k
    · subst h
      simp
    · rw [if_neg h]
      by_cases h1 : k < a
      · rw [if_pos (by omega), if_pos h1]
      · rw [if_neg (by omega), if_neg h1]
        have : k - a = (k - (a + 1)) + 1 := by omega
        rw [this, List.getElem?_cons_succ]

theorem Within.filter {a n : Nat} {cs : List Host.Cell} (p : Host.Cell → Bool) (h : Within a n cs) :
    Within a n (cs.filter p) :=
  ⟨h.1.filter p, fun c hc => h.2 c ((List.mem_filter.mp hc).1)⟩

/-- Leaving out the entries equal to the unlisted byte changes no read. -/
theorem read_filter {b : Nat} {m : Mem} (h : From b m) (k : Nat) :
    Mem.read (m.filter fun c => decide (c.2 ≠ Mem.unlisted)) k = Mem.read m k := by
  induction m generalizing b with
  | nil => rfl
  | cons c r ih =>
    have ihr := ih h.2
    unfold Mem.read at ihr ⊢
    by_cases hc : c.2 = Mem.unlisted
    · simp only [List.filter_cons, hc, ne_eq, not_true, decide_false, Bool.false_eq_true, if_false, cellAt]
      rw [ihr]
      by_cases hk : c.1 = k
      · subst hk
        rw [cellAt_lt h.2 (by omega)]
        simp
      · rw [if_neg hk]
    · simp only [List.filter_cons, ne_eq, hc, not_false_eq_true, decide_true, if_true, cellAt]
      by_cases hk : c.1 = k
      · simp [hk]
      · simp only [hk, if_false]
        exact ihr

/-! ### Memory -/

theorem Mem.wf_write (m : Mem) (a : Nat) (bs : List Byte) (h : Mem.wf m = true) : Mem.wf (Mem.write m a bs) = true := by
  obtain ⟨h1, h2⟩ := (wf_iff m).mp h
  refine (wf_iff _).mpr ⟨h1.splice ((within_runCells a bs).filter _), ?_⟩
  intro c hc
  simp only [Mem.write, splice, List.mem_append] at hc
  rcases hc with (hc | hc) | hc
  · exact h2 c (mem_takeWhile hc).1
  · simpa using (List.mem_filter.mp hc).2
  · exact h2 c (mem_dropWhile hc)

theorem Mem.wf_store (m : Mem) (a n v : Nat) (h : Mem.wf m = true) : Mem.wf (Mem.store m a n v) = true :=
  Mem.wf_write m a _ h

theorem Mem.wf_clear (m : Mem) (a n : Nat) (h : Mem.wf m = true) : Mem.wf (Mem.clear m a n) = true := by
  obtain ⟨h1, h2⟩ := (wf_iff m).mp h
  refine (wf_iff _).mpr ⟨h1.splice ⟨trivial, by simp⟩, ?_⟩
  intro c hc
  simp only [Mem.clear, splice, List.mem_append] at hc
  rcases hc with (hc | hc) | hc
  · exact h2 c (mem_takeWhile hc).1
  · cases hc
  · exact h2 c (mem_dropWhile hc)

theorem From.merge (f : Nat) : ∀ {b : Nat} {m o : List Host.Cell}, From b m → From b o → From b (mergeCells f m o) := by
  induction f with
  | zero => intros; trivial
  | succ f ih =>
    intro b m o hm ho
    match m, o, hm, ho with
    | m, [], hm, _ => cases m <;> exact hm
    | [], c :: o, _, ho => exact ho
    | (a, x) :: m, (c, y) :: o, hm, ho =>
      simp only [mergeCells]
      split
      · exact ⟨hm.1, ih hm.2 ⟨by simp_all <;> omega, ho.2⟩⟩
      · split
        · exact ⟨ho.1, ih (hm.2.mono (by simp_all)) ho.2⟩
        · exact ⟨ho.1, ih ⟨by simp_all <;> omega, hm.2⟩ ho.2⟩

theorem Mem.wf_apply (m : Mem) (o : Overlay) (h : Mem.wf m = true) : Mem.wf (Mem.apply m o) = true := by
  unfold Mem.apply
  split
  · rename_i hr
    refine (wf_iff _).mpr ⟨(From.merge _ ((wf_iff m).mp h).1 (from_of_rising hr)).filter _, ?_⟩
    intro c hc
    simpa using (List.mem_filter.mp hc).2
  · rename_i hr
    clear hr
    induction o generalizing m with
    | nil => exact h
    | cons c r ih => exact ih _ (Mem.wf_write m c.1 [c.2] h)

/-- A read after a write. -/
theorem Mem.read_write (m : Mem) (a : Nat) (bs : List Byte) (k : Nat) (h : From 0 m) :
    Mem.read (Mem.write m a bs) k = if k < a then Mem.read m k else (bs[k - a]?).getD (Mem.read m k) := by
  have hw := within_runCells a bs
  rw [Mem.read_eq, Mem.write, cellAt_splice h (hw.filter _)]
  by_cases h1 : k < a
  · rw [if_pos h1, if_pos h1, Mem.read_eq]
  · rw [if_neg h1, if_neg h1]
    by_cases h2 : k < a + bs.length
    · have e := read_filter hw.1 k
      rw [Mem.read_eq, Mem.read_eq, cellAt_runCells, if_neg h1] at e
      have hl : k - a < bs.length := by omega
      rw [if_pos h2, e]
      simp [hl]
    · have hl : ¬ k - a < bs.length := by omega
      rw [if_neg h2, Mem.read_eq]
      simp [hl]

/-- Reading a range reads its bytes. -/
theorem cellAt_cellsIn {m : List Host.Cell} (h : From 0 m) (a n k : Nat) :
    cellAt (cellsIn m a n) k = if a ≤ k ∧ k < a + n then cellAt m k else none := by
  unfold cellsIn
  rw [cellAt_takeWhile ((h.dropWhile (a := a)).mono (Nat.zero_le _)), cellAt_dropWhile h]
  by_cases h1 : k < a + n <;> by_cases h2 : k < a
  · rw [if_pos h1, if_pos h2, if_neg (by omega)]
  · rw [if_pos h1, if_neg h2, if_pos (by omega)]
  · rw [if_neg h1, if_neg (by omega)]
  · rw [if_neg h1, if_neg (by omega)]

theorem Mem.readN_eq (m : Mem) (h : From 0 m) (a n : Nat) :
    Mem.readN m a n = (List.range n).map fun i => Mem.read m (a + i) := by
  unfold Mem.readN
  apply List.map_congr_left
  intro i hi
  have hi := List.mem_range.mp hi
  rw [Mem.read_eq, Mem.read_eq, cellAt_cellsIn h, if_pos (by omega)]

theorem viewRead_eq (m : Mem) (o : Overlay) (hm : From 0 m) (ho : From 0 o) (a n : Nat) :
    viewRead m o a n = (List.range n).map fun i => (cellAt o (a + i)).getD (Mem.read m (a + i)) := by
  unfold viewRead
  apply List.map_congr_left
  intro i hi
  have hi := List.mem_range.mp hi
  rw [cellAt_cellsIn ho, if_pos (by omega)]
  cases cellAt o (a + i) with
  | some b => rfl
  | none => simp only [Option.getD_none]; rw [Mem.read_eq, Mem.read_eq, cellAt_cellsIn hm, if_pos (by omega)]

/-! ### Overlays -/

theorem From.overlay_write {o : Overlay} (h : From 0 o) (a : Nat) (bs : List Byte) : From 0 (Overlay.write o a bs) :=
  h.splice (within_runCells a bs)

theorem rising_overlay_write {o : Overlay} (h : rising o = true) (a : Nat) (bs : List Byte) :
    rising (Overlay.write o a bs) = true := rising_of_from ((from_of_rising h).overlay_write a bs)

theorem cellAt_overlay_write {o : Overlay} (h : From 0 o) (a : Nat) (bs : List Byte) (k : Nat) :
    cellAt (Overlay.write o a bs) k = if k < a then cellAt o k else match bs[k - a]? with | some b => some b | none => cellAt o k := by
  unfold Overlay.write
  rw [cellAt_splice h (within_runCells a bs), cellAt_runCells]
  by_cases h1 : k < a
  · rw [if_pos h1, if_pos h1]
  · rw [if_neg h1, if_neg h1, if_neg h1]
    by_cases h2 : k < a + bs.length
    · have hl : k - a < bs.length := by omega
      rw [if_pos h2, List.getElem?_eq_getElem hl]
    · have hl : bs.length ≤ k - a := by omega
      rw [if_neg h2, List.getElem?_eq_none hl]

theorem length_leBytes (n v : Nat) : (leBytes n v).length = n := by
  induction n generalizing v with
  | zero => rfl
  | succ n ih => simp [leBytes, ih]

/-- The value of the bytes of a value. -/
theorem ofLE_leBytes (n v : Nat) : ofLE (leBytes n v) = v % 256 ^ n := by
  induction n generalizing v with
  | zero => simp [leBytes, ofLE, Nat.mod_one]
  | succ n ih =>
    simp only [leBytes, ofLE, ih, BitVec.toNat_ofNat]
    have e : v % 256 ^ (n + 1) = v % 256 + 256 * (v / 256 % 256 ^ n) := by
      rw [show (256 : Nat) ^ (n + 1) = 256 * 256 ^ n by rw [Nat.pow_succ, Nat.mul_comm], Nat.mod_mul]
    rw [e]

end Sys2Proof.Machine
end

