-- ==== Sys2Proof/Laws/Local.lean ====
section
/-! SUPPORT. Reads and writes of local memory by the strand executing: what they leave of memory and of other strands. -/

namespace Sys2Proof.Machine

/-- Two states hold the same bytes in every tile and view, the same far memory and the same corridors. -/
structure SameBytes (s t : State) : Prop where
  vtiles : t.vtiles = s.vtiles
  corridors : t.corridors = s.corridors
  far : t.far = s.far
  mem : ∀ p, (t.tile p).mem = (s.tile p).mem
  loc : ∀ c vt st, (t.stageTile c vt st).loc = (s.stageTile c vt st).loc

theorem SameBytes.refl (s : State) : SameBytes s s := ⟨rfl, rfl, rfl, fun _ => rfl, fun _ _ _ => rfl⟩

theorem SameBytes.trans {s t u : State} (h : SameBytes s t) (k : SameBytes t u) : SameBytes s u :=
  ⟨k.vtiles.trans h.vtiles, k.corridors.trans h.corridors, k.far.trans h.far, fun p => (k.mem p).trans (h.mem p),
    fun c vt st => (k.loc c vt st).trans (h.loc c vt st)⟩

theorem SameBytes.phys {s t : State} (h : SameBytes s t) (c vt : Nat) : t.phys c vt = s.phys c vt := by
  simp only [State.phys, State.vtile, h.vtiles]

theorem SameBytes.viewBytes {s t : State} (h : SameBytes s t) (c vt st off n : Nat) :
    t.viewBytes c vt st off n = s.viewBytes c vt st off n := by
  simp only [State.viewBytes, h.phys, h.mem, h.loc]

theorem SameBytes.seen {s t : State} (h : SameBytes s t) (c vt st a : Nat) : t.seen c vt st a = s.seen c vt st a := by
  simp only [State.seen, h.viewBytes]

theorem SameBytes.after {s t : State} (h : SameBytes s t) (id : StrandId) (pc : Word) : t.after id pc = s.after id pc := by
  simp only [State.after, State.chainAt, State.code, State.cor, h.corridors, h.phys, h.mem]

theorem SameBytes.setStrand (s : State) (id : StrandId) (x : Strand) : SameBytes s (s.setStrand id x) :=
  ⟨rfl, rfl, rfl, fun _ => rfl, fun _ _ _ => rfl⟩

theorem SameBytes.setMe (s : State) (x : Strand) : SameBytes s (s.setMe x) := SameBytes.setStrand s s.cur x

theorem State.tile_setTile (s : State) (p q : Nat) (x : Tile) :
    (s.setTile p x).tile q = if q = p then x else s.tile q := by
  by_cases h : q = p
  · subst h; simp [State.tile, State.setTile]
  · simp [State.tile, State.setTile, KMap.getD_set_other _ _ _ _ _ h, h]

theorem State.stageTile_setStageTile (s : State) (c vt st c' vt' st' : Nat) (x : StageTile) :
    (s.setStageTile c vt st x).stageTile c' vt' st' = if (c', vt', st') = (c, vt, st) then x else s.stageTile c' vt' st' := by
  by_cases h : (c', vt', st') = (c, vt, st)
  · rw [if_pos h]
    simp only [State.stageTile, State.setStageTile, h, KMap.getD_set_self]
  · rw [if_neg h]
    simp only [State.stageTile, State.setStageTile, KMap.getD_set_other _ _ _ _ _ h]

theorem SameBytes.setTile (s : State) (p : Nat) (x : Tile) (h : x.mem = (s.tile p).mem) : SameBytes s (s.setTile p x) := by
  refine ⟨rfl, rfl, rfl, fun q => ?_, fun _ _ _ => rfl⟩
  rw [State.tile_setTile]
  split
  · rename_i e; rw [e, h]
  · rfl

theorem SameBytes.setStageTile (s : State) (c vt st : Nat) (x : StageTile) (h : x.loc = (s.stageTile c vt st).loc) :
    SameBytes s (s.setStageTile c vt st x) := by
  refine ⟨rfl, rfl, rfl, fun _ => rfl, fun c' vt' st' => ?_⟩
  rw [State.stageTile_setStageTile]
  split
  · rename_i e
    obtain ⟨rfl, rfl, rfl⟩ : c' = c ∧ vt' = vt ∧ st' = st := by simpa using e
    exact h
  · rfl

/-! ### Reads -/

theorem SameBytes.suspect (s : State) (p n : Nat) : SameBytes s (s.suspect p n) := SameBytes.setTile s p _ rfl

theorem SameBytes.charge (s : State) (c vt st n : Nat) : SameBytes s (s.charge c vt st n) := by
  unfold State.charge
  exact (⟨rfl, rfl, rfl, fun _ => rfl, fun _ _ _ => rfl⟩ : SameBytes s (s.setStage c st _)).trans (SameBytes.suspect _ _ _)

theorem SameBytes.tileVote (s : State) (c vt st : Nat) (t : TrapInfo) : SameBytes s (s.tileVote c vt st t) := by
  unfold State.tileVote
  apply SameBytes.setStageTile
  split <;> split <;> rfl

/-- What a noted read changes: no byte, no strand. -/
theorem noteReadOf_keeps (s : State) (c owner vt st off n : Nat) :
    SameBytes s (s.noteReadOf c owner vt st off n) ∧ (s.noteReadOf c owner vt st off n).strands = s.strands ∧
      (s.noteReadOf c owner vt st off n).cur = s.cur := by
  unfold State.noteReadOf
  split
  · split
    · exact ⟨(SameBytes.charge _ _ _ _ _).trans (SameBytes.tileVote _ _ _ _ _), rfl, rfl⟩
    · exact ⟨SameBytes.tileVote _ _ _ _ _, rfl, rfl⟩
  · exact ⟨SameBytes.refl s, rfl, rfl⟩

theorem noteReadOf_sound (s : State) (c owner vt st off n : Nat)
    (h : (c ≠ depotCor && poisoned (s.tile (s.phys c owner)).poison off n) = false) :
    s.noteReadOf c owner vt st off n = s := by
  unfold State.noteReadOf
  rw [if_neg (by simpa using h)]

/-- What reading the executing strand's own tile leaves. -/
theorem noteRead_mine (s : State) (off n : Nat) :
    let t := s.noteRead s.cur.cor s.cur.vt s.me.stage off n
    SameBytes s t ∧ t.strands = s.strands ∧ t.cur = s.cur ∧ (s.unsound off n = false → t = s) := by
  obtain ⟨h1, h2, h3⟩ := noteReadOf_keeps s s.cur.cor s.cur.vt s.cur.vt s.me.stage off n
  refine ⟨h1, h2, h3, fun h => noteReadOf_sound _ _ _ _ _ _ _ ?_⟩
  simpa [State.unsound, State.isDepot, isDepotId, State.myTile] using h

/-- The frame of an instruction that has read local bytes, then written registers, and steps on. -/
theorem LoadFrame.retire {s t0 : State} {y : Strand} {ds : List Dest} {sound : Prop} (hb : SameBytes s t0)
    (hs : t0.strands = s.strands) (hc : t0.cur = s.cur) (hu : sound → t0 = s)
    (h : Wrote s.me y ds [] 0) : LoadFrame s (retire (t0.setMe y)) ds sound := by
  have hme : t0.me = s.me := by simp only [State.me, State.strand, hs, hc]
  have f : Frame t0 (Machine.retire (t0.setMe y)) ds [] 0 := Frame.retire rfl (by rw [hme]; exact h)
  have b : SameBytes t0 (Machine.retire (t0.setMe y)) := by rw [retire_eq]; exact SameBytes.setMe _ _
  refine ⟨fun id hid => ?_, ?_, fun hr => ?_, fun c vt st a => ?_, ?_, fun hu' => ?_⟩
  · rw [f.only.others id (by rw [hc]; exact hid)]
    simp only [State.strand, hs]
  · have := f.me
    rw [hme] at this
    exact this
  · have := f.stepped (by rw [hme]; exact hr)
    rw [hme, hc, hb.after] at this
    exact this
  · rw [b.seen, hb.seen]
  · rw [b.far, hb.far]
  · have e := hu hu'
    subst e
    exact f.only.state

end Sys2Proof.Machine
end

