-- ==== Sys2Proof/Laws/PerInstr.lean ====
section
/-! SUPPORT. For each instruction: the chain that encodes it is read back as the instruction (R137 to R154). -/

namespace Sys2Proof.Laws.Encoding

open Sys2Proof.Encode

/-- The chain that the encoder gives a well-formed instruction fits the words that carry it, and the page tables read it
back as that instruction. -/
def Statement (i : Instr) : Prop :=
  ∀ c, Encode.chain i = some c → Fits c ∧ (WellFormed.wf i = true → c.build = .ok i)

theorem of_chain {i : Instr} {c : Chain} (hc : Encode.chain i = some c)
    (hb : WellFormed.wf i = true → c.build = .ok i) (hf : Fits c) : Statement i := by
  intro c' h
  obtain rfl : c = c' := Option.some.inj (hc.symm.trans h)
  exact ⟨hf, hb⟩

theorem both_left {a b : Option IllFormed} (h : WellFormed.both a b = none) : a = none := by
  cases a with
  | none => rfl
  | some e => cases h

theorem need_true {b : Bool} {e : IllFormed} (h : WellFormed.need b e = none) : b = true := by
  cases b with
  | true => rfl
  | false => cases h

/-- An event of the device has no chain. -/
theorem of_event {i : Instr} (h : Encode.chain i = none) : Statement i := by
  intro c hc
  rw [h] at hc
  cases hc


theorem add (o : R3) (x : Mod) : Statement (.add o x) :=
  of_chain rfl (fun _ => by
    simp [Chain.build, Chain.page0, Chain.gate, ensure, Chain.pick, Chain.regs]) (rrr_fits _ _ _ _ _ _ _ _ _ (by decide) (by simp))

theorem sub (o : R3) (x : Mod) : Statement (.sub o x) :=
  of_chain rfl (fun _ => by
    simp [Chain.build, Chain.page0, Chain.gate, ensure, Chain.pick, Chain.regs]) (rrr_fits _ _ _ _ _ _ _ _ _ (by decide) (by simp))

theorem mul (o : R3) (x : Mod) : Statement (.mul o x) :=
  of_chain rfl (fun _ => by
    simp [Chain.build, Chain.page0, Chain.gate, ensure, Chain.pick, Chain.regs]) (rrr_fits _ _ _ _ _ _ _ _ _ (by decide) (by simp))

theorem mulh (o : R3) (x : Mod) : Statement (.mulh o x) :=
  of_chain rfl (fun _ => by
    simp [Chain.build, Chain.page0, Chain.gate, ensure, Chain.pick, Chain.regs]) (rrr_fits _ _ _ _ _ _ _ _ _ (by decide) (by simp))

theorem and_ (o : R3) : Statement (.and_ o) :=
  of_chain rfl (fun _ => by
    simp [Chain.build, Chain.page0, Chain.gate, ensure, Chain.pick, Chain.regs]) (rrr_fits _ _ _ _ _ _ _ _ _ (by decide) (by simp))

theorem or_ (o : R3) : Statement (.or_ o) :=
  of_chain rfl (fun _ => by
    simp [Chain.build, Chain.page0, Chain.gate, ensure, Chain.pick, Chain.regs]) (rrr_fits _ _ _ _ _ _ _ _ _ (by decide) (by simp))

theorem xor_ (o : R3) : Statement (.xor_ o) :=
  of_chain rfl (fun _ => by
    simp [Chain.build, Chain.page0, Chain.gate, ensure, Chain.pick, Chain.regs]) (rrr_fits _ _ _ _ _ _ _ _ _ (by decide) (by simp))

theorem andn (o : R3) : Statement (.andn o) :=
  of_chain rfl (fun _ => by
    simp [Chain.build, Chain.page0, Chain.gate, ensure, Chain.pick, Chain.regs]) (rrr_fits _ _ _ _ _ _ _ _ _ (by decide) (by simp))

theorem shl (o : R3) : Statement (.shl o) :=
  of_chain rfl (fun _ => by
    simp [Chain.build, Chain.page0, Chain.gate, ensure, Chain.pick, Chain.regs]) (rrr_fits _ _ _ _ _ _ _ _ _ (by decide) (by simp))

theorem shr (o : R3) : Statement (.shr o) :=
  of_chain rfl (fun _ => by
    simp [Chain.build, Chain.page0, Chain.gate, ensure, Chain.pick, Chain.regs]) (rrr_fits _ _ _ _ _ _ _ _ _ (by decide) (by simp))

theorem sra (o : R3) : Statement (.sra o) :=
  of_chain rfl (fun _ => by
    simp [Chain.build, Chain.page0, Chain.gate, ensure, Chain.pick, Chain.regs]) (rrr_fits _ _ _ _ _ _ _ _ _ (by decide) (by simp))

theorem rol (o : R3) : Statement (.rol o) :=
  of_chain rfl (fun _ => by
    simp [Chain.build, Chain.page0, Chain.gate, ensure, Chain.pick, Chain.regs]) (rrr_fits _ _ _ _ _ _ _ _ _ (by decide) (by simp))

theorem slt (o : R3) : Statement (.slt o) :=
  of_chain rfl (fun _ => by
    simp [Chain.build, Chain.page0, Chain.gate, ensure, Chain.pick, Chain.regs]) (rrr_fits _ _ _ _ _ _ _ _ _ (by decide) (by simp))

theorem sltu (o : R3) : Statement (.sltu o) :=
  of_chain rfl (fun _ => by
    simp [Chain.build, Chain.page0, Chain.gate, ensure, Chain.pick, Chain.regs]) (rrr_fits _ _ _ _ _ _ _ _ _ (by decide) (by simp))

theorem seq (o : R3) : Statement (.seq o) :=
  of_chain rfl (fun _ => by
    simp [Chain.build, Chain.page0, Chain.gate, ensure, Chain.pick, Chain.regs]) (rrr_fits _ _ _ _ _ _ _ _ _ (by decide) (by simp))

theorem sne (o : R3) : Statement (.sne o) :=
  of_chain rfl (fun _ => by
    simp [Chain.build, Chain.page0, Chain.gate, ensure, Chain.pick, Chain.regs]) (rrr_fits _ _ _ _ _ _ _ _ _ (by decide) (by simp))

theorem min (o : R3) (x : Mod) : Statement (.min o x) :=
  of_chain rfl (fun _ => by
    simp [Chain.build, Chain.page0, Chain.gate, ensure, Chain.pick, Chain.regs]) (rrr_fits _ _ _ _ _ _ _ _ _ (by decide) (by simp))

theorem max (o : R3) (x : Mod) : Statement (.max o x) :=
  of_chain rfl (fun _ => by
    simp [Chain.build, Chain.page0, Chain.gate, ensure, Chain.pick, Chain.regs]) (rrr_fits _ _ _ _ _ _ _ _ _ (by decide) (by simp))

theorem minu (o : R3) (x : Mod) : Statement (.minu o x) :=
  of_chain rfl (fun _ => by
    simp [Chain.build, Chain.page0, Chain.gate, ensure, Chain.pick, Chain.regs]) (rrr_fits _ _ _ _ _ _ _ _ _ (by decide) (by simp))

theorem maxu (o : R3) (x : Mod) : Statement (.maxu o x) :=
  of_chain rfl (fun _ => by
    simp [Chain.build, Chain.page0, Chain.gate, ensure, Chain.pick, Chain.regs]) (rrr_fits _ _ _ _ _ _ _ _ _ (by decide) (by simp))

theorem addi (o : RI) (x : Mod) : Statement (.addi o x) :=
  of_chain rfl (fun h => by
    simp [Chain.build, Chain.page0, Chain.gate, ensure, noHigh, Chain.ri, ri_imm _ _ _ _ (Option.isNone_iff_eq_none.mp h)]) (ri_fits _ _ _ _ _ (by decide))

theorem andi (o : RI) : Statement (.andi o) :=
  of_chain rfl (fun h => by
    simp [Chain.build, Chain.page0, Chain.gate, ensure, noHigh, Chain.ri, ri_imm _ _ _ _ (Option.isNone_iff_eq_none.mp h)]) (ri_fits _ _ _ _ _ (by decide))

theorem ori (o : RI) : Statement (.ori o) :=
  of_chain rfl (fun h => by
    simp [Chain.build, Chain.page0, Chain.gate, ensure, noHigh, Chain.ri, ri_imm _ _ _ _ (Option.isNone_iff_eq_none.mp h)]) (ri_fits _ _ _ _ _ (by decide))

theorem xori (o : RI) : Statement (.xori o) :=
  of_chain rfl (fun h => by
    simp [Chain.build, Chain.page0, Chain.gate, ensure, noHigh, Chain.ri, ri_imm _ _ _ _ (Option.isNone_iff_eq_none.mp h)]) (ri_fits _ _ _ _ _ (by decide))

theorem shli (o : RI) : Statement (.shli o) :=
  of_chain rfl (fun h => by
    simp [Chain.build, Chain.page0, Chain.gate, ensure, noHigh, Chain.ri, shift_imm _ _ _ _ (Option.isNone_iff_eq_none.mp h)]) (ri_fits _ _ _ _ _ (by decide))

theorem shri (o : RI) : Statement (.shri o) :=
  of_chain rfl (fun h => by
    simp [Chain.build, Chain.page0, Chain.gate, ensure, noHigh, Chain.ri, shift_imm _ _ _ _ (Option.isNone_iff_eq_none.mp h)]) (ri_fits _ _ _ _ _ (by decide))

theorem srai (o : RI) : Statement (.srai o) :=
  of_chain rfl (fun h => by
    simp [Chain.build, Chain.page0, Chain.gate, ensure, noHigh, Chain.ri, shift_imm _ _ _ _ (Option.isNone_iff_eq_none.mp h)]) (ri_fits _ _ _ _ _ (by decide))

theorem li (o : LI) : Statement (.li o) :=
  of_chain rfl (fun h => by
    simp [Chain.build, Chain.page0, Chain.gate, ensure, noHigh, li_imm _ _ (Option.isNone_iff_eq_none.mp h)]) (li_fits _ _ (by decide))

theorem lih (o : LI) : Statement (.lih o) :=
  of_chain rfl (fun h => by
    simp [Chain.build, Chain.page0, Chain.gate, ensure, noHigh, li_imm _ _ (Option.isNone_iff_eq_none.mp h)]) (li_fits _ _ (by decide))

theorem ldB (o : LdOp) : Statement (.ldB o) :=
  of_chain rfl (fun h => by
    simp [Chain.build, Chain.page0, Chain.gate, ensure, noHigh, Chain.ld, ld_imm _ _ _ _ _ (both_left (Option.isNone_iff_eq_none.mp h))]) (ld_fits _ _ _ _ _ (by decide) (by simp))

theorem ldH (o : LdOp) : Statement (.ldH o) :=
  of_chain rfl (fun h => by
    simp [Chain.build, Chain.page0, Chain.gate, ensure, noHigh, Chain.ld, ld_imm _ _ _ _ _ (both_left (Option.isNone_iff_eq_none.mp h))]) (ld_fits _ _ _ _ _ (by decide) (by simp))

theorem ldW (o : LdOp) : Statement (.ldW o) :=
  of_chain rfl (fun h => by
    simp [Chain.build, Chain.page0, Chain.gate, ensure, noHigh, Chain.ld, ld_imm _ _ _ _ _ (both_left (Option.isNone_iff_eq_none.mp h))]) (ld_fits _ _ _ _ _ (by decide) (by simp))

theorem ldD (o : LdOp) : Statement (.ldD o) :=
  of_chain rfl (fun h => by
    simp [Chain.build, Chain.page0, Chain.gate, ensure, noHigh, Chain.ld, ld_imm _ _ _ _ _ (both_left (Option.isNone_iff_eq_none.mp h))]) (ld_fits _ _ _ _ _ (by decide) (by simp))

theorem ldBs (o : LdOp) : Statement (.ldBs o) :=
  of_chain rfl (fun h => by
    simp [Chain.build, Chain.page0, Chain.gate, ensure, noHigh, Chain.ld, ld_imm _ _ _ _ _ (both_left (Option.isNone_iff_eq_none.mp h))]) (ld_fits _ _ _ _ _ (by decide) (by simp))

theorem ldHs (o : LdOp) : Statement (.ldHs o) :=
  of_chain rfl (fun h => by
    simp [Chain.build, Chain.page0, Chain.gate, ensure, noHigh, Chain.ld, ld_imm _ _ _ _ _ (both_left (Option.isNone_iff_eq_none.mp h))]) (ld_fits _ _ _ _ _ (by decide) (by simp))

theorem ldWs (o : LdOp) : Statement (.ldWs o) :=
  of_chain rfl (fun h => by
    simp [Chain.build, Chain.page0, Chain.gate, ensure, noHigh, Chain.ld, ld_imm _ _ _ _ _ (both_left (Option.isNone_iff_eq_none.mp h))]) (ld_fits _ _ _ _ _ (by decide) (by simp))

theorem stB (o : StOp) : Statement (.stB o) :=
  of_chain rfl (fun h => by
    simp [Chain.build, Chain.page0, Chain.gate, ensure, noHigh, Chain.sm, sm_imm _ _ _ _ (Option.isNone_iff_eq_none.mp h)]) (sm_fits _ _ _ _ (by decide))

theorem stH (o : StOp) : Statement (.stH o) :=
  of_chain rfl (fun h => by
    simp [Chain.build, Chain.page0, Chain.gate, ensure, noHigh, Chain.sm, sm_imm _ _ _ _ (Option.isNone_iff_eq_none.mp h)]) (sm_fits _ _ _ _ (by decide))

theorem stW (o : StOp) : Statement (.stW o) :=
  of_chain rfl (fun h => by
    simp [Chain.build, Chain.page0, Chain.gate, ensure, noHigh, Chain.sm, sm_imm _ _ _ _ (Option.isNone_iff_eq_none.mp h)]) (sm_fits _ _ _ _ (by decide))

theorem stD (o : StOp) : Statement (.stD o) :=
  of_chain rfl (fun h => by
    simp [Chain.build, Chain.page0, Chain.gate, ensure, noHigh, Chain.sm, sm_imm _ _ _ _ (Option.isNone_iff_eq_none.mp h)]) (sm_fits _ _ _ _ (by decide))

theorem b (o : BrOp) : Statement (.b o) :=
  of_chain (chain_b o) (fun h => by
    simp [Chain.build, Chain.page0, Chain.gate, ensure, noHigh, branch_imm _ (need_true (both_left (Option.isNone_iff_eq_none.mp h)))]) (branch_fits _)

theorem j (off : Int) : Statement (.j off) :=
  of_chain rfl (fun h => by
    simp [Chain.build, Chain.page0, Chain.gate, ensure, j_imm _ _ (need_true (Option.isNone_iff_eq_none.mp h))]) (j_fits _ _)

theorem call (off : Int) : Statement (.call off) :=
  of_chain rfl (fun h => by
    simp [Chain.build, Chain.page0, Chain.gate, ensure, j_imm _ _ (need_true (Option.isNone_iff_eq_none.mp h))]) (j_fits _ _)

theorem jr (a : Reg) : Statement (.jr a) :=
  of_chain rfl (fun _ => by
    simp [Chain.build, Chain.page0, Chain.gate, ensure, Chain.pick, zero]) (rrr_fits _ _ _ _ _ _ _ _ _ (by decide) (by simp))

theorem callr (a : Reg) : Statement (.callr a) :=
  of_chain rfl (fun _ => by
    simp [Chain.build, Chain.page0, Chain.gate, ensure, Chain.pick, zero]) (rrr_fits _ _ _ _ _ _ _ _ _ (by decide) (by simp))

theorem ret : Statement (.ret) :=
  of_chain rfl (fun _ => by
    simp [Chain.build, Chain.page0, Chain.gate, ensure, Chain.pick, zero]) (rrr_fits _ _ _ _ _ _ _ _ _ (by decide) (by simp))

theorem rep (o : RepOp) : Statement (.rep o) :=
  of_chain rfl (fun _ => by
    simp [Chain.build, Chain.page0, Chain.gate, ensure]
    simp [rep_parts 28#5 o.nm1 o.cnt o.stride o.fields _ rfl]) (s_fits _ _ _ (by decide))

theorem div (o : R3) : Statement (.div o) :=
  of_chain rfl (fun _ => by
    simp [Chain.build, Chain.page1, Chain.gate, ensure, Chain.pick, Chain.regs]) (rrr_fits _ _ _ _ _ _ _ _ _ (by decide) (by simp))

theorem divu (o : R3) : Statement (.divu o) :=
  of_chain rfl (fun _ => by
    simp [Chain.build, Chain.page1, Chain.gate, ensure, Chain.pick, Chain.regs]) (rrr_fits _ _ _ _ _ _ _ _ _ (by decide) (by simp))

theorem rem (o : R3) : Statement (.rem o) :=
  of_chain rfl (fun _ => by
    simp [Chain.build, Chain.page1, Chain.gate, ensure, Chain.pick, Chain.regs]) (rrr_fits _ _ _ _ _ _ _ _ _ (by decide) (by simp))

theorem remu (o : R3) : Statement (.remu o) :=
  of_chain rfl (fun _ => by
    simp [Chain.build, Chain.page1, Chain.gate, ensure, Chain.pick, Chain.regs]) (rrr_fits _ _ _ _ _ _ _ _ _ (by decide) (by simp))

theorem clz (o : R2) : Statement (.clz o) :=
  of_chain rfl (fun _ => by
    simp [Chain.build, Chain.page1, Chain.gate, ensure, Chain.pick, zero]) (rrr_fits _ _ _ _ _ _ _ _ _ (by decide) (by simp))

theorem ctz (o : R2) : Statement (.ctz o) :=
  of_chain rfl (fun _ => by
    simp [Chain.build, Chain.page1, Chain.gate, ensure, Chain.pick, zero]) (rrr_fits _ _ _ _ _ _ _ _ _ (by decide) (by simp))

theorem pop (o : R2) : Statement (.pop o) :=
  of_chain rfl (fun _ => by
    simp [Chain.build, Chain.page1, Chain.gate, ensure, Chain.pick, zero]) (rrr_fits _ _ _ _ _ _ _ _ _ (by decide) (by simp))

theorem brev (o : R2) : Statement (.brev o) :=
  of_chain rfl (fun _ => by
    simp [Chain.build, Chain.page1, Chain.gate, ensure, Chain.pick, zero]) (rrr_fits _ _ _ _ _ _ _ _ _ (by decide) (by simp))

theorem bfx (o : R3) (w : BitVec 5) : Statement (.bfx o w) :=
  of_chain rfl (fun _ => by
    simp [Chain.build, Chain.page1, Chain.gate, ensure, Chain.pick, Chain.regs]) (rrr_fits _ _ _ _ _ _ _ _ _ (by decide) (by simp))

theorem bfxs (o : R3) (w : BitVec 5) : Statement (.bfxs o w) :=
  of_chain rfl (fun _ => by
    simp [Chain.build, Chain.page1, Chain.gate, ensure, Chain.pick, Chain.regs]) (rrr_fits _ _ _ _ _ _ _ _ _ (by decide) (by simp))

theorem bfi (o : R3) (w : BitVec 5) : Statement (.bfi o w) :=
  of_chain rfl (fun _ => by
    simp [Chain.build, Chain.page1, Chain.gate, ensure, Chain.pick, Chain.regs]) (rrr_fits _ _ _ _ _ _ _ _ _ (by decide) (by simp))

theorem sel (o : R3) (c : Reg) : Statement (.sel o c) :=
  of_chain rfl (fun _ => by
    simp [Chain.build, Chain.page1, Chain.gate, ensure, Chain.pick, Chain.regs]) (rrr_fits _ _ _ _ _ _ _ _ _ (by decide) (by simp))

theorem selz (o : R3) (c : Reg) : Statement (.selz o c) :=
  of_chain rfl (fun _ => by
    simp [Chain.build, Chain.page1, Chain.gate, ensure, Chain.pick, Chain.regs]) (rrr_fits _ _ _ _ _ _ _ _ _ (by decide) (by simp))

theorem faddF32 (o : R3) (x : Mod) : Statement (.faddF32 o x) :=
  of_chain rfl (fun _ => by
    simp [Chain.build, Chain.page1, Chain.gate, ensure, Chain.pick, Chain.regs]) (rrr_fits _ _ _ _ _ _ _ _ _ (by decide) (by simp))

theorem fsubF32 (o : R3) (x : Mod) : Statement (.fsubF32 o x) :=
  of_chain rfl (fun _ => by
    simp [Chain.build, Chain.page1, Chain.gate, ensure, Chain.pick, Chain.regs]) (rrr_fits _ _ _ _ _ _ _ _ _ (by decide) (by simp))

theorem fmulF32 (o : R3) (x : Mod) : Statement (.fmulF32 o x) :=
  of_chain rfl (fun _ => by
    simp [Chain.build, Chain.page1, Chain.gate, ensure, Chain.pick, Chain.regs]) (rrr_fits _ _ _ _ _ _ _ _ _ (by decide) (by simp))

theorem fdivF32 (o : R3) (x : Mod) : Statement (.fdivF32 o x) :=
  of_chain rfl (fun _ => by
    simp [Chain.build, Chain.page1, Chain.gate, ensure, Chain.pick, Chain.regs]) (rrr_fits _ _ _ _ _ _ _ _ _ (by decide) (by simp))

theorem faddF64 (o : R3) (x : Mod) : Statement (.faddF64 o x) :=
  of_chain rfl (fun _ => by
    simp [Chain.build, Chain.page1, Chain.gate, ensure, Chain.pick, Chain.regs]) (rrr_fits _ _ _ _ _ _ _ _ _ (by decide) (by simp))

theorem fsubF64 (o : R3) (x : Mod) : Statement (.fsubF64 o x) :=
  of_chain rfl (fun _ => by
    simp [Chain.build, Chain.page1, Chain.gate, ensure, Chain.pick, Chain.regs]) (rrr_fits _ _ _ _ _ _ _ _ _ (by decide) (by simp))

theorem fmulF64 (o : R3) (x : Mod) : Statement (.fmulF64 o x) :=
  of_chain rfl (fun _ => by
    simp [Chain.build, Chain.page1, Chain.gate, ensure, Chain.pick, Chain.regs]) (rrr_fits _ _ _ _ _ _ _ _ _ (by decide) (by simp))

theorem fdivF64 (o : R3) (x : Mod) : Statement (.fdivF64 o x) :=
  of_chain rfl (fun _ => by
    simp [Chain.build, Chain.page1, Chain.gate, ensure, Chain.pick, Chain.regs]) (rrr_fits _ _ _ _ _ _ _ _ _ (by decide) (by simp))

theorem fmaF32 (o : R3) (c : Reg) (x : Mod) : Statement (.fmaF32 o c x) :=
  of_chain rfl (fun _ => by
    simp [Chain.build, Chain.page1, Chain.gate, ensure, Chain.pick, Chain.regs]) (rrr_fits _ _ _ _ _ _ _ _ _ (by decide) (by simp))

theorem fmsF32 (o : R3) (c : Reg) (x : Mod) : Statement (.fmsF32 o c x) :=
  of_chain rfl (fun _ => by
    simp [Chain.build, Chain.page1, Chain.gate, ensure, Chain.pick, Chain.regs]) (rrr_fits _ _ _ _ _ _ _ _ _ (by decide) (by simp))

theorem fnmaF32 (o : R3) (c : Reg) (x : Mod) : Statement (.fnmaF32 o c x) :=
  of_chain rfl (fun _ => by
    simp [Chain.build, Chain.page1, Chain.gate, ensure, Chain.pick, Chain.regs]) (rrr_fits _ _ _ _ _ _ _ _ _ (by decide) (by simp))

theorem fnmsF32 (o : R3) (c : Reg) (x : Mod) : Statement (.fnmsF32 o c x) :=
  of_chain rfl (fun _ => by
    simp [Chain.build, Chain.page1, Chain.gate, ensure, Chain.pick, Chain.regs]) (rrr_fits _ _ _ _ _ _ _ _ _ (by decide) (by simp))

theorem fmaF64 (o : R3) (c : Reg) (x : Mod) : Statement (.fmaF64 o c x) :=
  of_chain rfl (fun _ => by
    simp [Chain.build, Chain.page1, Chain.gate, ensure, Chain.pick, Chain.regs]) (rrr_fits _ _ _ _ _ _ _ _ _ (by decide) (by simp))

theorem fmsF64 (o : R3) (c : Reg) (x : Mod) : Statement (.fmsF64 o c x) :=
  of_chain rfl (fun _ => by
    simp [Chain.build, Chain.page1, Chain.gate, ensure, Chain.pick, Chain.regs]) (rrr_fits _ _ _ _ _ _ _ _ _ (by decide) (by simp))

theorem fnmaF64 (o : R3) (c : Reg) (x : Mod) : Statement (.fnmaF64 o c x) :=
  of_chain rfl (fun _ => by
    simp [Chain.build, Chain.page1, Chain.gate, ensure, Chain.pick, Chain.regs]) (rrr_fits _ _ _ _ _ _ _ _ _ (by decide) (by simp))

theorem fnmsF64 (o : R3) (c : Reg) (x : Mod) : Statement (.fnmsF64 o c x) :=
  of_chain rfl (fun _ => by
    simp [Chain.build, Chain.page1, Chain.gate, ensure, Chain.pick, Chain.regs]) (rrr_fits _ _ _ _ _ _ _ _ _ (by decide) (by simp))

theorem fminF32 (o : R3) (x : Mod) : Statement (.fminF32 o x) :=
  of_chain rfl (fun _ => by
    simp [Chain.build, Chain.page1, Chain.gate, ensure, Chain.pick, Chain.regs]) (rrr_fits _ _ _ _ _ _ _ _ _ (by decide) (by simp))

theorem fmaxF32 (o : R3) (x : Mod) : Statement (.fmaxF32 o x) :=
  of_chain rfl (fun _ => by
    simp [Chain.build, Chain.page1, Chain.gate, ensure, Chain.pick, Chain.regs]) (rrr_fits _ _ _ _ _ _ _ _ _ (by decide) (by simp))

theorem fminF64 (o : R3) (x : Mod) : Statement (.fminF64 o x) :=
  of_chain rfl (fun _ => by
    simp [Chain.build, Chain.page1, Chain.gate, ensure, Chain.pick, Chain.regs]) (rrr_fits _ _ _ _ _ _ _ _ _ (by decide) (by simp))

theorem fmaxF64 (o : R3) (x : Mod) : Statement (.fmaxF64 o x) :=
  of_chain rfl (fun _ => by
    simp [Chain.build, Chain.page1, Chain.gate, ensure, Chain.pick, Chain.regs]) (rrr_fits _ _ _ _ _ _ _ _ _ (by decide) (by simp))

theorem fsqrtF32 (o : R2) (x : Mod) : Statement (.fsqrtF32 o x) :=
  of_chain rfl (fun _ => by
    simp [Chain.build, Chain.page1, Chain.gate, ensure, Chain.pick, zero]) (rrr_fits _ _ _ _ _ _ _ _ _ (by decide) (by simp))

theorem fsqrtF64 (o : R2) (x : Mod) : Statement (.fsqrtF64 o x) :=
  of_chain rfl (fun _ => by
    simp [Chain.build, Chain.page1, Chain.gate, ensure, Chain.pick, zero]) (rrr_fits _ _ _ _ _ _ _ _ _ (by decide) (by simp))

theorem feqF32 (o : R3) : Statement (.feqF32 o) :=
  of_chain rfl (fun _ => by
    simp [Chain.build, Chain.page1, Chain.gate, ensure, Chain.pick, Chain.regs]) (rrr_fits _ _ _ _ _ _ _ _ _ (by decide) (by simp))

theorem fltF32 (o : R3) : Statement (.fltF32 o) :=
  of_chain rfl (fun _ => by
    simp [Chain.build, Chain.page1, Chain.gate, ensure, Chain.pick, Chain.regs]) (rrr_fits _ _ _ _ _ _ _ _ _ (by decide) (by simp))

theorem fleF32 (o : R3) : Statement (.fleF32 o) :=
  of_chain rfl (fun _ => by
    simp [Chain.build, Chain.page1, Chain.gate, ensure, Chain.pick, Chain.regs]) (rrr_fits _ _ _ _ _ _ _ _ _ (by decide) (by simp))

theorem funoF32 (o : R3) : Statement (.funoF32 o) :=
  of_chain rfl (fun _ => by
    simp [Chain.build, Chain.page1, Chain.gate, ensure, Chain.pick, Chain.regs]) (rrr_fits _ _ _ _ _ _ _ _ _ (by decide) (by simp))

theorem feqF64 (o : R3) : Statement (.feqF64 o) :=
  of_chain rfl (fun _ => by
    simp [Chain.build, Chain.page1, Chain.gate, ensure, Chain.pick, Chain.regs]) (rrr_fits _ _ _ _ _ _ _ _ _ (by decide) (by simp))

theorem fltF64 (o : R3) : Statement (.fltF64 o) :=
  of_chain rfl (fun _ => by
    simp [Chain.build, Chain.page1, Chain.gate, ensure, Chain.pick, Chain.regs]) (rrr_fits _ _ _ _ _ _ _ _ _ (by decide) (by simp))

theorem fleF64 (o : R3) : Statement (.fleF64 o) :=
  of_chain rfl (fun _ => by
    simp [Chain.build, Chain.page1, Chain.gate, ensure, Chain.pick, Chain.regs]) (rrr_fits _ _ _ _ _ _ _ _ _ (by decide) (by simp))

theorem funoF64 (o : R3) : Statement (.funoF64 o) :=
  of_chain rfl (fun _ => by
    simp [Chain.build, Chain.page1, Chain.gate, ensure, Chain.pick, Chain.regs]) (rrr_fits _ _ _ _ _ _ _ _ _ (by decide) (by simp))

theorem fcvt (o : CvtOp) (x : Mod) : Statement (.fcvt o x) :=
  of_chain rfl (fun _ => by
    simp [Chain.build, Chain.page1, Chain.gate, ensure, zero]
    simp [cvt_parts o.src o.dst _ rfl]) (rrr_fits _ _ _ _ _ _ _ _ _ (by decide) (by simp))

theorem ldaW (o : R3) (op : BitVec 5) : Statement (.ldaW o op) :=
  of_chain rfl (fun _ => by
    simp [Chain.build, Chain.page1, Chain.gate, ensure, Chain.pick, Chain.regs]) (rrr_fits _ _ _ _ _ _ _ _ _ (by decide) (by simp))

theorem ldaD (o : R3) (op : BitVec 5) : Statement (.ldaD o op) :=
  of_chain rfl (fun _ => by
    simp [Chain.build, Chain.page1, Chain.gate, ensure, Chain.pick, Chain.regs]) (rrr_fits _ _ _ _ _ _ _ _ _ (by decide) (by simp))

theorem vadd (o : V3) (x : Mod) : Statement (.vadd o x) :=
  of_chain rfl (fun _ => by
    simp [Chain.build, Chain.page2, Chain.gate, ensure, Encode.v3, Chain.pick, Chain.v3]) (rrr_fits _ _ _ _ _ _ _ _ _ (by decide) (by simp))

theorem vsub (o : V3) (x : Mod) : Statement (.vsub o x) :=
  of_chain rfl (fun _ => by
    simp [Chain.build, Chain.page2, Chain.gate, ensure, Encode.v3, Chain.pick, Chain.v3]) (rrr_fits _ _ _ _ _ _ _ _ _ (by decide) (by simp))

theorem vmul (o : V3) (x : Mod) : Statement (.vmul o x) :=
  of_chain rfl (fun _ => by
    simp [Chain.build, Chain.page2, Chain.gate, ensure, Encode.v3, Chain.pick, Chain.v3]) (rrr_fits _ _ _ _ _ _ _ _ _ (by decide) (by simp))

theorem vmulh (o : V3) (x : Mod) : Statement (.vmulh o x) :=
  of_chain rfl (fun _ => by
    simp [Chain.build, Chain.page2, Chain.gate, ensure, Encode.v3, Chain.pick, Chain.v3]) (rrr_fits _ _ _ _ _ _ _ _ _ (by decide) (by simp))

theorem vfma (o : V3) (x : Mod) : Statement (.vfma o x) :=
  of_chain rfl (fun _ => by
    simp [Chain.build, Chain.page2, Chain.gate, ensure, Encode.v3, Chain.pick, Chain.v3]) (rrr_fits _ _ _ _ _ _ _ _ _ (by decide) (by simp))

theorem vfms (o : V3) (x : Mod) : Statement (.vfms o x) :=
  of_chain rfl (fun _ => by
    simp [Chain.build, Chain.page2, Chain.gate, ensure, Encode.v3, Chain.pick, Chain.v3]) (rrr_fits _ _ _ _ _ _ _ _ _ (by decide) (by simp))

theorem vfnma (o : V3) (x : Mod) : Statement (.vfnma o x) :=
  of_chain rfl (fun _ => by
    simp [Chain.build, Chain.page2, Chain.gate, ensure, Encode.v3, Chain.pick, Chain.v3]) (rrr_fits _ _ _ _ _ _ _ _ _ (by decide) (by simp))

theorem vfnms (o : V3) (x : Mod) : Statement (.vfnms o x) :=
  of_chain rfl (fun _ => by
    simp [Chain.build, Chain.page2, Chain.gate, ensure, Encode.v3, Chain.pick, Chain.v3]) (rrr_fits _ _ _ _ _ _ _ _ _ (by decide) (by simp))

theorem vmin (o : V3) (x : Mod) : Statement (.vmin o x) :=
  of_chain rfl (fun _ => by
    simp [Chain.build, Chain.page2, Chain.gate, ensure, Encode.v3, Chain.pick, Chain.v3]) (rrr_fits _ _ _ _ _ _ _ _ _ (by decide) (by simp))

theorem vmax (o : V3) (x : Mod) : Statement (.vmax o x) :=
  of_chain rfl (fun _ => by
    simp [Chain.build, Chain.page2, Chain.gate, ensure, Encode.v3, Chain.pick, Chain.v3]) (rrr_fits _ _ _ _ _ _ _ _ _ (by decide) (by simp))

theorem vabd (o : V3) (x : Mod) : Statement (.vabd o x) :=
  of_chain rfl (fun _ => by
    simp [Chain.build, Chain.page2, Chain.gate, ensure, Encode.v3, Chain.pick, Chain.v3]) (rrr_fits _ _ _ _ _ _ _ _ _ (by decide) (by simp))

theorem vavg (o : V3) (x : Mod) : Statement (.vavg o x) :=
  of_chain rfl (fun _ => by
    simp [Chain.build, Chain.page2, Chain.gate, ensure, Encode.v3, Chain.pick, Chain.v3]) (rrr_fits _ _ _ _ _ _ _ _ _ (by decide) (by simp))

theorem vand (o : V3) : Statement (.vand o) :=
  of_chain rfl (fun _ => by
    simp [Chain.build, Chain.page2, Chain.gate, ensure, Encode.v3, Chain.pick, Chain.v3]) (rrr_fits _ _ _ _ _ _ _ _ _ (by decide) (by simp))

theorem vor (o : V3) : Statement (.vor o) :=
  of_chain rfl (fun _ => by
    simp [Chain.build, Chain.page2, Chain.gate, ensure, Encode.v3, Chain.pick, Chain.v3]) (rrr_fits _ _ _ _ _ _ _ _ _ (by decide) (by simp))

theorem vxor (o : V3) : Statement (.vxor o) :=
  of_chain rfl (fun _ => by
    simp [Chain.build, Chain.page2, Chain.gate, ensure, Encode.v3, Chain.pick, Chain.v3]) (rrr_fits _ _ _ _ _ _ _ _ _ (by decide) (by simp))

theorem vandn (o : V3) : Statement (.vandn o) :=
  of_chain rfl (fun _ => by
    simp [Chain.build, Chain.page2, Chain.gate, ensure, Encode.v3, Chain.pick, Chain.v3]) (rrr_fits _ _ _ _ _ _ _ _ _ (by decide) (by simp))

theorem vshl (o : V3) : Statement (.vshl o) :=
  of_chain rfl (fun _ => by
    simp [Chain.build, Chain.page2, Chain.gate, ensure, Encode.v3, Chain.pick, Chain.v3]) (rrr_fits _ _ _ _ _ _ _ _ _ (by decide) (by simp))

theorem vshr (o : V3) : Statement (.vshr o) :=
  of_chain rfl (fun _ => by
    simp [Chain.build, Chain.page2, Chain.gate, ensure, Encode.v3, Chain.pick, Chain.v3]) (rrr_fits _ _ _ _ _ _ _ _ _ (by decide) (by simp))

theorem vsra (o : V3) : Statement (.vsra o) :=
  of_chain rfl (fun _ => by
    simp [Chain.build, Chain.page2, Chain.gate, ensure, Encode.v3, Chain.pick, Chain.v3]) (rrr_fits _ _ _ _ _ _ _ _ _ (by decide) (by simp))

theorem vrol (o : V3) : Statement (.vrol o) :=
  of_chain rfl (fun _ => by
    simp [Chain.build, Chain.page2, Chain.gate, ensure, Encode.v3, Chain.pick, Chain.v3]) (rrr_fits _ _ _ _ _ _ _ _ _ (by decide) (by simp))

theorem vcmpEq (o : VCmp) : Statement (.vcmpEq o) :=
  of_chain rfl (fun _ => by
    simp [Chain.build, Chain.page2, Chain.gate, ensure, Encode.vcmp, Chain.pick, Chain.vcmp, low8_reg3]) (rrr_fits _ _ _ _ _ _ _ _ _ (by decide) (by simp))

theorem vcmpLt (o : VCmp) : Statement (.vcmpLt o) :=
  of_chain rfl (fun _ => by
    simp [Chain.build, Chain.page2, Chain.gate, ensure, Encode.vcmp, Chain.pick, Chain.vcmp, low8_reg3]) (rrr_fits _ _ _ _ _ _ _ _ _ (by decide) (by simp))

theorem vcmpLe (o : VCmp) : Statement (.vcmpLe o) :=
  of_chain rfl (fun _ => by
    simp [Chain.build, Chain.page2, Chain.gate, ensure, Encode.vcmp, Chain.pick, Chain.vcmp, low8_reg3]) (rrr_fits _ _ _ _ _ _ _ _ _ (by decide) (by simp))

theorem vcmpNe (o : VCmp) : Statement (.vcmpNe o) :=
  of_chain rfl (fun _ => by
    simp [Chain.build, Chain.page2, Chain.gate, ensure, Encode.vcmp, Chain.pick, Chain.vcmp, low8_reg3]) (rrr_fits _ _ _ _ _ _ _ _ _ (by decide) (by simp))

theorem vsel (o : V3) : Statement (.vsel o) :=
  of_chain rfl (fun _ => by
    simp [Chain.build, Chain.page2, Chain.gate, ensure, Encode.v3, Chain.pick, Chain.v3]) (rrr_fits _ _ _ _ _ _ _ _ _ (by decide) (by simp))

theorem vcvt (o : VCvt) (x : Mod) : Statement (.vcvt o x) :=
  of_chain rfl (fun _ => by
    simp [Chain.build, Chain.page2, Chain.gate, ensure, noHigh]) (rrr_fits _ _ _ _ _ _ _ _ _ (by decide) (by simp))

theorem vredAdd (o : V2) (x : Mod) : Statement (.vredAdd o x) :=
  of_chain rfl (fun _ => by
    simp [Chain.build, Chain.page2, Chain.gate, ensure, Encode.v2, Chain.pick, Chain.v2, zero]) (rrr_fits _ _ _ _ _ _ _ _ _ (by decide) (by simp))

theorem vredMin (o : V2) (x : Mod) : Statement (.vredMin o x) :=
  of_chain rfl (fun _ => by
    simp [Chain.build, Chain.page2, Chain.gate, ensure, Encode.v2, Chain.pick, Chain.v2, zero]) (rrr_fits _ _ _ _ _ _ _ _ _ (by decide) (by simp))

theorem vredMax (o : V2) (x : Mod) : Statement (.vredMax o x) :=
  of_chain rfl (fun _ => by
    simp [Chain.build, Chain.page2, Chain.gate, ensure, Encode.v2, Chain.pick, Chain.v2, zero]) (rrr_fits _ _ _ _ _ _ _ _ _ (by decide) (by simp))

theorem vredAddo (o : V2) (x : Mod) : Statement (.vredAddo o x) :=
  of_chain rfl (fun _ => by
    simp [Chain.build, Chain.page2, Chain.gate, ensure, Encode.v2, Chain.pick, Chain.v2, zero]) (rrr_fits _ _ _ _ _ _ _ _ _ (by decide) (by simp))

theorem vdot4 (o : V3) (x : Mod) : Statement (.vdot4 o x) :=
  of_chain rfl (fun _ => by
    simp [Chain.build, Chain.page2, Chain.gate, ensure, Encode.v3, Chain.pick, Chain.v3]) (rrr_fits _ _ _ _ _ _ _ _ _ (by decide) (by simp))

theorem vdot2 (o : V3) (x : Mod) : Statement (.vdot2 o x) :=
  of_chain rfl (fun _ => by
    simp [Chain.build, Chain.page2, Chain.gate, ensure, Encode.v3, Chain.pick, Chain.v3]) (rrr_fits _ _ _ _ _ _ _ _ _ (by decide) (by simp))

theorem vld (o : LdOp) (m : BitVec 3) : Statement (.vld o m) :=
  of_chain rfl (fun h => by
    simp [Chain.build, Chain.page3, Chain.gate, ensure, noHigh, Chain.ld, ld_imm _ _ _ _ _ (Option.isNone_iff_eq_none.mp h)]) (ld_fits _ _ _ _ _ (by decide) (by simp))

theorem vst (o : StOp) (m : BitVec 3) : Statement (.vst o m) :=
  of_chain rfl (fun h => by
    simp [Chain.build, Chain.page3, Chain.gate, ensure, noHigh, Chain.sm, sm_imm _ _ _ _ (Option.isNone_iff_eq_none.mp h)]) (sm_fits _ _ _ _ (by decide))

theorem vgat (o : V3) : Statement (.vgat o) :=
  of_chain rfl (fun _ => by
    simp [Chain.build, Chain.page3, Chain.gate, ensure, Encode.v3, Chain.pick, Chain.v3]) (rrr_fits _ _ _ _ _ _ _ _ _ (by decide) (by simp))

theorem vsct (o : V3) : Statement (.vsct o) :=
  of_chain rfl (fun _ => by
    simp [Chain.build, Chain.page3, Chain.gate, ensure, Encode.v3, Chain.pick, Chain.v3]) (rrr_fits _ _ _ _ _ _ _ _ _ (by decide) (by simp))

theorem vbc (o : V2) : Statement (.vbc o) :=
  of_chain rfl (fun _ => by
    simp [Chain.build, Chain.page3, Chain.gate, ensure, Encode.v2, Chain.pick, Chain.v2, zero]) (rrr_fits _ _ _ _ _ _ _ _ _ (by decide) (by simp))

theorem vins (o : V3) : Statement (.vins o) :=
  of_chain rfl (fun _ => by
    simp [Chain.build, Chain.page3, Chain.gate, ensure, Encode.v3, Chain.pick, Chain.v3]) (rrr_fits _ _ _ _ _ _ _ _ _ (by decide) (by simp))

theorem vext (o : R3) (t : BitVec 5) : Statement (.vext o t) :=
  of_chain rfl (fun _ => by
    simp [Chain.build, Chain.page3, Chain.gate, ensure, Chain.pick, Chain.regs]) (rrr_fits _ _ _ _ _ _ _ _ _ (by decide) (by simp))

theorem vidx (o : V3) : Statement (.vidx o) :=
  of_chain rfl (fun _ => by
    simp [Chain.build, Chain.page3, Chain.gate, ensure, Encode.v3, Chain.pick, Chain.v3]) (rrr_fits _ _ _ _ _ _ _ _ _ (by decide) (by simp))

theorem vperm (o : V3) : Statement (.vperm o) :=
  of_chain rfl (fun _ => by
    simp [Chain.build, Chain.page3, Chain.gate, ensure, Encode.v3, Chain.pick, Chain.v3]) (rrr_fits _ _ _ _ _ _ _ _ _ (by decide) (by simp))

theorem vzip (o : V3) : Statement (.vzip o) :=
  of_chain rfl (fun _ => by
    simp [Chain.build, Chain.page3, Chain.gate, ensure, Encode.v3, Chain.pick, Chain.v3]) (rrr_fits _ _ _ _ _ _ _ _ _ (by decide) (by simp))

theorem vuzp (o : V3) : Statement (.vuzp o) :=
  of_chain rfl (fun _ => by
    simp [Chain.build, Chain.page3, Chain.gate, ensure, Encode.v3, Chain.pick, Chain.v3]) (rrr_fits _ _ _ _ _ _ _ _ _ (by decide) (by simp))

theorem vrot (o : V3) : Statement (.vrot o) :=
  of_chain rfl (fun _ => by
    simp [Chain.build, Chain.page3, Chain.gate, ensure, Encode.v3, Chain.pick, Chain.v3]) (rrr_fits _ _ _ _ _ _ _ _ _ (by decide) (by simp))

theorem vsf (o : V2) (f : BitVec 3) (x : Mod) : Statement (.vsf o f x) :=
  of_chain rfl (fun _ => by
    simp [Chain.build, Chain.page3, Chain.gate, ensure, Chain.pick, Chain.v2, noHigh]) (rrr_fits _ _ _ _ _ _ _ _ _ (by decide) (by simp))

theorem vsfFast (o : V2) (f : BitVec 3) (x : Mod) : Statement (.vsfFast o f x) :=
  of_chain rfl (fun _ => by
    simp [Chain.build, Chain.page3, Chain.gate, ensure, Chain.pick, Chain.v2, noHigh]) (rrr_fits _ _ _ _ _ _ _ _ _ (by decide) (by simp))

theorem vrng (o : R3) (m : BitVec 3) : Statement (.vrng o m) :=
  of_chain rfl (fun _ => by
    simp [Chain.build, Chain.page3, Chain.gate, ensure, Chain.pick, Chain.regs]) (rrr_fits _ _ _ _ _ _ _ _ _ (by decide) (by simp))

theorem vrngF (o : R3) (m : BitVec 3) : Statement (.vrngF o m) :=
  of_chain rfl (fun _ => by
    simp [Chain.build, Chain.page3, Chain.gate, ensure, Chain.pick, Chain.regs]) (rrr_fits _ _ _ _ _ _ _ _ _ (by decide) (by simp))

theorem gaddr (o : R2) (t : BitVec 5) : Statement (.gaddr o t) :=
  of_chain rfl (fun _ => by
    simp [Chain.build, Chain.page3, Chain.gate, ensure, Chain.pick, zero]) (rrr_fits _ _ _ _ _ _ _ _ _ (by decide) (by simp))

theorem gowner (o : R2) (t : BitVec 5) : Statement (.gowner o t) :=
  of_chain rfl (fun _ => by
    simp [Chain.build, Chain.page3, Chain.gate, ensure, Chain.pick, zero]) (rrr_fits _ _ _ _ _ _ _ _ _ (by decide) (by simp))

theorem mlease (n : Int) : Statement (.mlease n) :=
  of_chain rfl (fun h => by
    simp [Chain.build, Chain.page4, Chain.gate, ensure, zero, noHigh, Chain.ri, show (ri 4#4 0#5 ⟨0#5, 0#5, n⟩).imm 5 false = n from lease_imm 4 0 ⟨0, 0, n⟩ _ (Option.isNone_iff_eq_none.mp h)]) (ri_fits _ _ _ _ _ (by decide))

theorem mtry (d : Reg) (n : Int) : Statement (.mtry d n) :=
  of_chain rfl (fun h => by
    simp [Chain.build, Chain.page4, Chain.gate, ensure, zero, noHigh, Chain.ri, show (ri 4#4 1#5 ⟨d, 0#5, n⟩).imm 5 false = n from lease_imm 4 1 ⟨d, 0, n⟩ _ (Option.isNone_iff_eq_none.mp h)]) (ri_fits _ _ _ _ _ (by decide))

theorem mrel : Statement (.mrel) :=
  of_chain rfl (fun _ => by
    simp [Chain.build, Chain.page4, Chain.gate, ensure]) (s_fits _ _ _ (by decide))

theorem mmma (o : MmaOp) : Statement (.mmma o) :=
  of_chain rfl (fun _ => by
    simp [Chain.build, Chain.page4, Chain.gate, ensure]) (rrr_fits _ _ _ _ _ _ _ _ _ (by decide) (by simp))

theorem ast (h : Reg) (a : Reg) : Statement (.ast h a) :=
  of_chain rfl (fun _ => by
    simp [Chain.build, Chain.page4, Chain.gate, ensure, Chain.pick, zero]) (rrr_fits _ _ _ _ _ _ _ _ _ (by decide) (by simp))

theorem astAdd (h : Reg) (a : Reg) : Statement (.astAdd h a) :=
  of_chain rfl (fun _ => by
    simp [Chain.build, Chain.page4, Chain.gate, ensure, Chain.pick, zero]) (rrr_fits _ _ _ _ _ _ _ _ _ (by decide) (by simp))

theorem ald (h : Reg) (a : Reg) : Statement (.ald h a) :=
  of_chain rfl (fun _ => by
    simp [Chain.build, Chain.page4, Chain.gate, ensure, Chain.pick, zero]) (rrr_fits _ _ _ _ _ _ _ _ _ (by decide) (by simp))

theorem azero (h : Reg) : Statement (.azero h) :=
  of_chain rfl (fun _ => by
    simp [Chain.build, Chain.page4, Chain.gate, ensure, Chain.pick, zero]) (rrr_fits _ _ _ _ _ _ _ _ _ (by decide) (by simp))

theorem arel (h : Reg) : Statement (.arel h) :=
  of_chain rfl (fun _ => by
    simp [Chain.build, Chain.page4, Chain.gate, ensure, Chain.pick, zero]) (rrr_fits _ _ _ _ _ _ _ _ _ (by decide) (by simp))

theorem mwait (h : Reg) : Statement (.mwait h) :=
  of_chain rfl (fun _ => by
    simp [Chain.build, Chain.page4, Chain.gate, ensure]
    simp [mwait_parts 7#5 h _ rfl]) (s_fits _ _ _ (by decide))

theorem dld (o : DLdOp) : Statement (.dld o) :=
  of_chain rfl (fun h => by
    simp [Chain.build, Chain.page5, Chain.gate, ensure, noHigh, Chain.ld, dreg_reg4, show (ld 5#4 0#5 ⟨reg4 o.d, o.a, o.off, o.la, o.inc⟩ o.lin o.m).imm 0 false = o.off from
      ld_imm 5 0 ⟨reg4 o.d, o.a, o.off, o.la, o.inc⟩ _ _ (both_left (Option.isNone_iff_eq_none.mp h))]) (ld_fits _ _ _ _ _ (by decide) (by simp))

theorem dst (o : DStOp) : Statement (.dst o) :=
  of_chain rfl (fun h => by
    simp [Chain.build, Chain.page5, Chain.gate, ensure, noHigh, Chain.sm, dreg_reg4, show (sm 5#4 1#5 ⟨reg4 o.s, o.a, o.off⟩ o.m).imm 5 true = o.off from
      sm_imm 5 1 ⟨reg4 o.s, o.a, o.off⟩ _ (Option.isNone_iff_eq_none.mp h)]) (sm_fits _ _ _ _ (by decide))

theorem dpt (d : BitVec 4) (a : Reg) (m : BitVec 3) (lin : BitVec 5) : Statement (.dpt d a m lin) :=
  of_chain rfl (fun _ => by
    simp [Chain.build, Chain.page5, Chain.gate, ensure, Chain.pick, zero, dreg_reg4]) (rrr_fits _ _ _ _ _ _ _ _ _ (by decide) (by simp))

theorem dpte (d : BitVec 4) (g : BitVec 3) (m : BitVec 3) (lin : BitVec 5) : Statement (.dpte d g m lin) :=
  of_chain rfl (fun _ => by
    simp [Chain.build, Chain.page5, Chain.gate, ensure, Chain.pick, zero, dreg_reg4, low8_reg3]) (rrr_fits _ _ _ _ _ _ _ _ _ (by decide) (by simp))

theorem dpm (d : BitVec 4) (a : Reg) (b : Reg) (m : BitVec 3) (lin : BitVec 5) : Statement (.dpm d a b m lin) :=
  of_chain rfl (fun _ => by
    simp [Chain.build, Chain.page5, Chain.gate, ensure, Chain.pick, dreg_reg4]) (rrr_fits _ _ _ _ _ _ _ _ _ (by decide) (by simp))

theorem dadd (o : D3) : Statement (.dadd o) :=
  of_chain rfl (fun _ => by
    simp [Chain.build, Chain.page5, Chain.gate, ensure, Encode.d3, Chain.pick, Chain.d3, dreg_reg4]) (rrr_fits _ _ _ _ _ _ _ _ _ (by decide) (by simp))

theorem dsub (o : D3) : Statement (.dsub o) :=
  of_chain rfl (fun _ => by
    simp [Chain.build, Chain.page5, Chain.gate, ensure, Encode.d3, Chain.pick, Chain.d3, dreg_reg4]) (rrr_fits _ _ _ _ _ _ _ _ _ (by decide) (by simp))

theorem dmul (o : D3) : Statement (.dmul o) :=
  of_chain rfl (fun _ => by
    simp [Chain.build, Chain.page5, Chain.gate, ensure, Encode.d3, Chain.pick, Chain.d3, dreg_reg4]) (rrr_fits _ _ _ _ _ _ _ _ _ (by decide) (by simp))

theorem ddiv (o : D3) : Statement (.ddiv o) :=
  of_chain rfl (fun _ => by
    simp [Chain.build, Chain.page5, Chain.gate, ensure, Encode.d3, Chain.pick, Chain.d3, dreg_reg4]) (rrr_fits _ _ _ _ _ _ _ _ _ (by decide) (by simp))

theorem dmin (o : D3) : Statement (.dmin o) :=
  of_chain rfl (fun _ => by
    simp [Chain.build, Chain.page5, Chain.gate, ensure, Encode.d3, Chain.pick, Chain.d3, dreg_reg4]) (rrr_fits _ _ _ _ _ _ _ _ _ (by decide) (by simp))

theorem dmax (o : D3) : Statement (.dmax o) :=
  of_chain rfl (fun _ => by
    simp [Chain.build, Chain.page5, Chain.gate, ensure, Encode.d3, Chain.pick, Chain.d3, dreg_reg4]) (rrr_fits _ _ _ _ _ _ _ _ _ (by decide) (by simp))

theorem dmix (o : D3) : Statement (.dmix o) :=
  of_chain rfl (fun _ => by
    simp [Chain.build, Chain.page5, Chain.gate, ensure, Encode.d3, Chain.pick, Chain.d3, dreg_reg4]) (rrr_fits _ _ _ _ _ _ _ _ _ (by decide) (by simp))

theorem dscl (d : BitVec 4) (a : BitVec 4) (b : Reg) (m : BitVec 3) : Statement (.dscl d a b m) :=
  of_chain rfl (fun _ => by
    simp [Chain.build, Chain.page5, Chain.gate, ensure, Chain.pick, dreg_reg4]) (rrr_fits _ _ _ _ _ _ _ _ _ (by decide) (by simp))

theorem dsht (d : BitVec 4) (a : BitVec 4) (b : Reg) (m : BitVec 3) : Statement (.dsht d a b m) :=
  of_chain rfl (fun _ => by
    simp [Chain.build, Chain.page5, Chain.gate, ensure, Chain.pick, dreg_reg4]) (rrr_fits _ _ _ _ _ _ _ _ _ (by decide) (by simp))

theorem dmom (d : Reg) (a : BitVec 4) (f : BitVec 2) (m : BitVec 3) : Statement (.dmom d a f m) :=
  of_chain rfl (fun _ => by
    simp [Chain.build, Chain.page5, Chain.gate, ensure, zero, dreg_reg4]) (rrr_fits _ _ _ _ _ _ _ _ _ (by decide) (by simp))

theorem dqnt (d : Reg) (a : BitVec 4) (b : Reg) (m : BitVec 3) : Statement (.dqnt d a b m) :=
  of_chain rfl (fun _ => by
    simp [Chain.build, Chain.page5, Chain.gate, ensure, Chain.pick, dreg_reg4]) (rrr_fits _ _ _ _ _ _ _ _ _ (by decide) (by simp))

theorem dcdf (d : Reg) (a : BitVec 4) (b : Reg) (m : BitVec 3) : Statement (.dcdf d a b m) :=
  of_chain rfl (fun _ => by
    simp [Chain.build, Chain.page5, Chain.gate, ensure, Chain.pick, dreg_reg4]) (rrr_fits _ _ _ _ _ _ _ _ _ (by decide) (by simp))

theorem dtgr (d : Reg) (a : BitVec 4) : Statement (.dtgr d a) :=
  of_chain rfl (fun _ => by
    simp [Chain.build, Chain.page5, Chain.gate, ensure, Chain.pick, zero, dreg_reg4]) (rrr_fits _ _ _ _ _ _ _ _ _ (by decide) (by simp))

theorem dtgw (d : BitVec 4) (a : BitVec 4) (m : BitVec 3) (lin : BitVec 5) : Statement (.dtgw d a m lin) :=
  of_chain rfl (fun _ => by
    simp [Chain.build, Chain.page5, Chain.gate, ensure, Chain.pick, zero, dreg_reg4]) (rrr_fits _ _ _ _ _ _ _ _ _ (by decide) (by simp))

theorem dmov (d : BitVec 4) (a : BitVec 4) (m : BitVec 3) : Statement (.dmov d a m) :=
  of_chain rfl (fun _ => by
    simp [Chain.build, Chain.page5, Chain.gate, ensure, Chain.pick, zero, dreg_reg4]) (rrr_fits _ _ _ _ _ _ _ _ _ (by decide) (by simp))

theorem qcfg (a : Reg) : Statement (.qcfg a) :=
  of_chain rfl (fun _ => by
    simp [Chain.build, Chain.page6, Chain.gate, ensure, Chain.pick, zero]) (rrr_fits _ _ _ _ _ _ _ _ _ (by decide) (by simp))

theorem qres (a : Reg) : Statement (.qres a) :=
  of_chain rfl (fun _ => by
    simp [Chain.build, Chain.page6, Chain.gate, ensure, Chain.pick, zero]) (rrr_fits _ _ _ _ _ _ _ _ _ (by decide) (by simp))

theorem qstg (i : BitVec 3) (a : Reg) : Statement (.qstg i a) :=
  of_chain rfl (fun _ => by
    simp [Chain.build, Chain.page6, Chain.gate, ensure, noHigh, Chain.ld, low8_reg3, ld_ik]) (ld_fits _ _ _ _ _ (by decide) (by simp))

theorem qtm (d : Reg) (a : Reg) (f : BitVec 2) : Statement (.qtm d a f) :=
  of_chain rfl (fun _ => by
    simp [Chain.build, Chain.page6, Chain.gate, ensure, zero]) (rrr_fits _ _ _ _ _ _ _ _ _ (by decide) (by simp))

theorem qfin (g : BitVec 3) (a : Reg) (la : BitVec 4) : Statement (.qfin g a la) :=
  of_chain rfl (fun _ => by
    simp [Chain.build, Chain.page6, Chain.gate, ensure, noHigh, Chain.ld, low8_reg3, ld_ik]) (ld_fits _ _ _ _ _ (by decide) (by simp))

theorem qdec (d : Reg) (g : BitVec 3) (b : Reg) : Statement (.qdec d g b) :=
  of_chain rfl (fun _ => by
    simp [Chain.build, Chain.page6, Chain.gate, ensure, Chain.pick, low8_reg3]) (rrr_fits _ _ _ _ _ _ _ _ _ (by decide) (by simp))

theorem qst (a : Reg) (b : Reg) : Statement (.qst a b) :=
  of_chain rfl (fun _ => by
    simp [Chain.build, Chain.page6, Chain.gate, ensure, Chain.pick, zero]) (rrr_fits _ _ _ _ _ _ _ _ _ (by decide) (by simp))

theorem qset (o : R3) : Statement (.qset o) :=
  of_chain rfl (fun _ => by
    simp [Chain.build, Chain.page6, Chain.gate, ensure, Chain.pick, Chain.regs]) (rrr_fits _ _ _ _ _ _ _ _ _ (by decide) (by simp))

theorem ldfW (o : LdOp) : Statement (.ldfW o) :=
  of_chain rfl (fun h => by
    simp [Chain.build, Chain.page7, Chain.gate, ensure, noHigh, Chain.ld, ld_imm _ _ _ _ _ (both_left (Option.isNone_iff_eq_none.mp h))]) (ld_fits _ _ _ _ _ (by decide) (by simp))

theorem ldfD (o : LdOp) : Statement (.ldfD o) :=
  of_chain rfl (fun h => by
    simp [Chain.build, Chain.page7, Chain.gate, ensure, noHigh, Chain.ld, ld_imm _ _ _ _ _ (both_left (Option.isNone_iff_eq_none.mp h))]) (ld_fits _ _ _ _ _ (by decide) (by simp))

theorem vldf (o : LdOp) : Statement (.vldf o) :=
  of_chain rfl (fun h => by
    simp [Chain.build, Chain.page7, Chain.gate, ensure, noHigh, Chain.ld, ld_imm _ _ _ _ _ (Option.isNone_iff_eq_none.mp h)]) (ld_fits _ _ _ _ _ (by decide) (by simp))

theorem stfW (o : StOp) : Statement (.stfW o) :=
  of_chain rfl (fun h => by
    simp [Chain.build, Chain.page7, Chain.gate, ensure, noHigh, Chain.sm, sm_imm _ _ _ _ (Option.isNone_iff_eq_none.mp h)]) (sm_fits _ _ _ _ (by decide))

theorem stfD (o : StOp) : Statement (.stfD o) :=
  of_chain rfl (fun h => by
    simp [Chain.build, Chain.page7, Chain.gate, ensure, noHigh, Chain.sm, sm_imm _ _ _ _ (Option.isNone_iff_eq_none.mp h)]) (sm_fits _ _ _ _ (by decide))

theorem vstf (o : StOp) : Statement (.vstf o) :=
  of_chain rfl (fun h => by
    simp [Chain.build, Chain.page7, Chain.gate, ensure, noHigh, Chain.sm, sm_imm _ _ _ _ (Option.isNone_iff_eq_none.mp h)]) (sm_fits _ _ _ _ (by decide))

theorem accF32 (a : Reg) (b : Reg) : Statement (.accF32 a b) :=
  of_chain rfl (fun _ => by
    simp [Chain.build, Chain.page7, Chain.gate, ensure, Chain.pick, zero]) (rrr_fits _ _ _ _ _ _ _ _ _ (by decide) (by simp))

theorem accF64 (a : Reg) (b : Reg) : Statement (.accF64 a b) :=
  of_chain rfl (fun _ => by
    simp [Chain.build, Chain.page7, Chain.gate, ensure, Chain.pick, zero]) (rrr_fits _ _ _ _ _ _ _ _ _ (by decide) (by simp))

theorem accI64 (a : Reg) (b : Reg) : Statement (.accI64 a b) :=
  of_chain rfl (fun _ => by
    simp [Chain.build, Chain.page7, Chain.gate, ensure, Chain.pick, zero]) (rrr_fits _ _ _ _ _ _ _ _ _ (by decide) (by simp))

theorem accV16 (a : Reg) (b : Reg) : Statement (.accV16 a b) :=
  of_chain rfl (fun _ => by
    simp [Chain.build, Chain.page7, Chain.gate, ensure, Chain.pick, zero]) (rrr_fits _ _ _ _ _ _ _ _ _ (by decide) (by simp))

theorem amoiW (o : R3) (op : BitVec 5) : Statement (.amoiW o op) :=
  of_chain rfl (fun _ => by
    simp [Chain.build, Chain.page7, Chain.gate, ensure, Chain.pick, Chain.regs]) (rrr_fits _ _ _ _ _ _ _ _ _ (by decide) (by simp))

theorem amoiD (o : R3) (op : BitVec 5) : Statement (.amoiD o op) :=
  of_chain rfl (fun _ => by
    simp [Chain.build, Chain.page7, Chain.gate, ensure, Chain.pick, Chain.regs]) (rrr_fits _ _ _ _ _ _ _ _ _ (by decide) (by simp))

theorem cpush (a : Reg) : Statement (.cpush a) :=
  of_chain rfl (fun _ => by
    simp [Chain.build, Chain.page7, Chain.gate, ensure, Chain.pick, zero]) (rrr_fits _ _ _ _ _ _ _ _ _ (by decide) (by simp))

theorem cpushTry (d : Reg) (a : Reg) : Statement (.cpushTry d a) :=
  of_chain rfl (fun _ => by
    simp [Chain.build, Chain.page7, Chain.gate, ensure, Chain.pick, zero]) (rrr_fits _ _ _ _ _ _ _ _ _ (by decide) (by simp))

theorem mbw (d : Reg) : Statement (.mbw d) :=
  of_chain rfl (fun _ => by
    simp [Chain.build, Chain.page7, Chain.gate, ensure, Chain.pick, zero]) (rrr_fits _ _ _ _ _ _ _ _ _ (by decide) (by simp))

theorem mbwTo (d : Reg) (a : Reg) : Statement (.mbwTo d a) :=
  of_chain rfl (fun _ => by
    simp [Chain.build, Chain.page7, Chain.gate, ensure, Chain.pick, zero]) (rrr_fits _ _ _ _ _ _ _ _ _ (by decide) (by simp))

theorem mbp (d : Reg) : Statement (.mbp d) :=
  of_chain rfl (fun _ => by
    simp [Chain.build, Chain.page7, Chain.gate, ensure, Chain.pick, zero]) (rrr_fits _ _ _ _ _ _ _ _ _ (by decide) (by simp))

theorem mbpTry (d : Reg) : Statement (.mbpTry d) :=
  of_chain rfl (fun _ => by
    simp [Chain.build, Chain.page7, Chain.gate, ensure, Chain.pick, zero]) (rrr_fits _ _ _ _ _ _ _ _ _ (by decide) (by simp))

theorem pfl (o : R3) (u : BitVec 5) : Statement (.pfl o u) :=
  of_chain rfl (fun _ => by
    simp [Chain.build, Chain.page7, Chain.gate, ensure, Chain.pick, Chain.regs]) (rrr_fits _ _ _ _ _ _ _ _ _ (by decide) (by simp))

theorem pflClr : Statement (.pflClr) :=
  of_chain rfl (fun _ => by
    simp [Chain.build, Chain.page7, Chain.gate, ensure, Chain.pick, zero]) (rrr_fits _ _ _ _ _ _ _ _ _ (by decide) (by simp))

theorem pflN (o : R3) (u : BitVec 5) : Statement (.pflN o u) :=
  of_chain rfl (fun _ => by
    simp [Chain.build, Chain.page7, Chain.gate, ensure, Chain.pick, Chain.regs]) (rrr_fits _ _ _ _ _ _ _ _ _ (by decide) (by simp))

theorem xall (o : R3) : Statement (.xall o) :=
  of_chain rfl (fun _ => by
    simp [Chain.build, Chain.page7, Chain.gate, ensure, Chain.pick, Chain.regs]) (rrr_fits _ _ _ _ _ _ _ _ _ (by decide) (by simp))

theorem bar : Statement (.bar) :=
  of_chain rfl (fun _ => by
    simp [Chain.build, Chain.page8, Chain.gate, ensure, Chain.pick, zero]) (rrr_fits _ _ _ _ _ _ _ _ _ (by decide) (by simp))

theorem barRed (g : BitVec 3) (op : BitVec 5) : Statement (.barRed g op) :=
  of_chain rfl (fun _ => by
    simp [Chain.build, Chain.page8, Chain.gate, ensure, Chain.pick, zero, low8_reg3]) (rrr_fits _ _ _ _ _ _ _ _ _ (by decide) (by simp))

theorem barEnd : Statement (.barEnd) :=
  of_chain rfl (fun _ => by
    simp [Chain.build, Chain.page8, Chain.gate, ensure, Chain.pick, zero]) (rrr_fits _ _ _ _ _ _ _ _ _ (by decide) (by simp))

theorem barEndr (g : BitVec 3) (op : BitVec 5) : Statement (.barEndr g op) :=
  of_chain rfl (fun _ => by
    simp [Chain.build, Chain.page8, Chain.gate, ensure, Chain.pick, zero, low8_reg3]) (rrr_fits _ _ _ _ _ _ _ _ _ (by decide) (by simp))

theorem vote : Statement (.vote) :=
  of_chain rfl (fun _ => by
    simp [Chain.build, Chain.page8, Chain.gate, ensure]) (s_fits _ _ _ (by decide))

theorem bwait (a : Reg) (b : Reg) : Statement (.bwait a b) :=
  of_chain rfl (fun _ => by
    simp [Chain.build, Chain.page8, Chain.gate, ensure, Chain.pick, zero]) (rrr_fits _ _ _ _ _ _ _ _ _ (by decide) (by simp))

theorem fence (mask : BitVec 5) (kind : BitVec 2) : Statement (.fence mask kind) :=
  of_chain rfl (fun _ => by
    simp [Chain.build, Chain.page8, Chain.gate, ensure]
    simp [fence_parts 3#5 kind mask _ rfl]) (s_fits _ _ _ (by decide))

theorem csrr (d : Reg) (n : BitVec 8) : Statement (.csrr d n) :=
  of_chain rfl (fun _ => by
    simp [Chain.build, Chain.page8, Chain.gate, ensure, Encode.csr, Chain.pick, Chain.csr, zero, noHigh]) (rrr_fits _ _ _ _ _ _ _ _ _ (by decide) (by simp))

theorem csrw (d : Reg) (a : Reg) (n : BitVec 8) : Statement (.csrw d a n) :=
  of_chain rfl (fun _ => by
    simp [Chain.build, Chain.page8, Chain.gate, ensure, Encode.csr, Chain.pick, Chain.csr, noHigh]) (rrr_fits _ _ _ _ _ _ _ _ _ (by decide) (by simp))

theorem csrs (d : Reg) (a : Reg) (n : BitVec 8) : Statement (.csrs d a n) :=
  of_chain rfl (fun _ => by
    simp [Chain.build, Chain.page8, Chain.gate, ensure, Encode.csr, Chain.pick, Chain.csr, noHigh]) (rrr_fits _ _ _ _ _ _ _ _ _ (by decide) (by simp))

theorem csrc (d : Reg) (a : Reg) (n : BitVec 8) : Statement (.csrc d a n) :=
  of_chain rfl (fun _ => by
    simp [Chain.build, Chain.page8, Chain.gate, ensure, Encode.csr, Chain.pick, Chain.csr, noHigh]) (rrr_fits _ _ _ _ _ _ _ _ _ (by decide) (by simp))

theorem trap (code : BitVec 11) : Statement (.trap code) :=
  of_chain rfl (fun _ => by
    simp [Chain.build, Chain.page8, Chain.gate, ensure]) (s_fits _ _ _ (by decide))

theorem ebrk (code : BitVec 11) : Statement (.ebrk code) :=
  of_chain rfl (fun _ => by
    simp [Chain.build, Chain.page8, Chain.gate, ensure]) (s_fits _ _ _ (by decide))

theorem yld : Statement (.yld) :=
  of_chain rfl (fun _ => by
    simp [Chain.build, Chain.page8, Chain.gate, ensure]) (s_fits _ _ _ (by decide))

theorem tlbi (a : Reg) (b : Reg) : Statement (.tlbi a b) :=
  of_chain rfl (fun _ => by
    simp [Chain.build, Chain.page8, Chain.gate, ensure, Chain.pick, zero]) (rrr_fits _ _ _ _ _ _ _ _ _ (by decide) (by simp))

theorem rfe : Statement (.rfe) :=
  of_chain rfl (fun _ => by
    simp [Chain.build, Chain.page8, Chain.gate, ensure]) (s_fits _ _ _ (by decide))

theorem wfe : Statement (.wfe) :=
  of_chain rfl (fun _ => by
    simp [Chain.build, Chain.page8, Chain.gate, ensure]) (s_fits _ _ _ (by decide))

theorem ipost (a : Reg) (b : Reg) : Statement (.ipost a b) :=
  of_chain rfl (fun _ => by
    simp [Chain.build, Chain.page8, Chain.gate, ensure, Chain.pick, zero]) (rrr_fits _ _ _ _ _ _ _ _ _ (by decide) (by simp))

theorem illegalDecode (priv : Bool) : Statement (.illegalDecode priv) := of_event rfl

theorem windowDataLands (id : StrandId) (w : Nat) : Statement (.windowDataLands id w) := of_event rfl

theorem farReadServe (id : StrandId) (w : Nat) : Statement (.farReadServe id w) := of_event rfl

theorem remoteDeltaAccept (c : Nat) (st : Nat) (n : Nat) : Statement (.remoteDeltaAccept c st n) := of_event rfl

theorem laybyWake (id : StrandId) : Statement (.laybyWake id) := of_event rfl

theorem mbwTimeout (id : StrandId) : Statement (.mbwTimeout id) := of_event rfl

theorem copy (id : StrandId) (n : Nat) : Statement (.copy id n) := of_event rfl

theorem bcast (id : StrandId) (n : Nat) : Statement (.bcast id n) := of_event rfl

theorem send (id : StrandId) (n : Nat) : Statement (.send id n) := of_event rfl

theorem fill (id : StrandId) (n : Nat) : Statement (.fill id n) := of_event rfl

theorem digest (id : StrandId) (n : Nat) : Statement (.digest id n) := of_event rfl

theorem exchange (id : StrandId) (n : Nat) : Statement (.exchange id n) := of_event rfl

theorem commandComplete (id : StrandId) (n : Nat) : Statement (.commandComplete id n) := of_event rfl

theorem mailboxPost (id : StrandId) : Statement (.mailboxPost id) := of_event rfl

theorem stagerUnitFetch (c : Nat) (vt : Nat) (st : Nat) (n : Nat) : Statement (.stagerUnitFetch c vt st n) := of_event rfl

theorem stagedUnitLands (c : Nat) (vt : Nat) (st : Nat) (n : Nat) : Statement (.stagedUnitLands c vt st n) := of_event rfl

theorem stagedCopyForward (c : Nat) (st : Nat) (n : Nat) : Statement (.stagedCopyForward c st n) := of_event rfl

theorem leaseGrant (tile : Nat) : Statement (.leaseGrant tile) := of_event rfl

theorem slotAllocate (id : StrandId) : Statement (.slotAllocate id) := of_event rfl

theorem matrixCommandRun (tile : Nat) : Statement (.matrixCommandRun tile) := of_event rfl

theorem matrixCommandDone (tile : Nat) : Statement (.matrixCommandDone tile) := of_event rfl

theorem arrival (id : StrandId) : Statement (.arrival id) := of_event rfl

theorem quiesce (c : Nat) (st : Nat) : Statement (.quiesce c st) := of_event rfl

theorem linkTimeout (c : Nat) (st : Nat) : Statement (.linkTimeout c st) := of_event rfl

theorem strikeHorizon (c : Nat) (st : Nat) : Statement (.strikeHorizon c st) := of_event rfl

theorem junctionVote (c : Nat) (st : Nat) : Statement (.junctionVote c st) := of_event rfl

theorem junctionDecision (c : Nat) (st : Nat) (vt : Nat) : Statement (.junctionDecision c st vt) := of_event rfl

theorem commitDrain (c : Nat) (st : Nat) (vt : Nat) : Statement (.commitDrain c st vt) := of_event rfl

theorem farDrainEntry (c : Nat) (st : Nat) : Statement (.farDrainEntry c st) := of_event rfl

theorem commitFarComplete (c : Nat) (st : Nat) : Statement (.commitFarComplete c st) := of_event rfl

theorem heldOpRelease (id : StrandId) : Statement (.heldOpRelease id) := of_event rfl

theorem atomicExecute (n : Nat) : Statement (.atomicExecute n) := of_event rfl

theorem amoiResult (id : StrandId) : Statement (.amoiResult id) := of_event rfl

theorem crossStageDelivery (n : Nat) : Statement (.crossStageDelivery n) := of_event rfl

theorem resultAreaWrite (c : Nat) (st : Nat) : Statement (.resultAreaWrite c st) := of_event rfl

theorem corridorCompletion (c : Nat) : Statement (.corridorCompletion c) := of_event rfl

theorem earlyAbort (c : Nat) (st : Nat) : Statement (.earlyAbort c st) := of_event rfl

theorem rollback (c : Nat) (st : Nat) (vt : Nat) : Statement (.rollback c st vt) := of_event rfl

theorem causeService (c : Nat) (st : Nat) : Statement (.causeService c st) := of_event rfl

theorem strikeReport (die : Nat) (block : Nat) : Statement (.strikeReport die block) := of_event rfl

theorem sensorSelfTest (die : Nat) (block : Nat) (good : Nat) : Statement (.sensorSelfTest die block good) := of_event rfl

theorem eccError (at_ : EccSite) (fatal : Bool) : Statement (.eccError at_ fatal) := of_event rfl

theorem parityError (site : ParitySite) : Statement (.parityError site) := of_event rfl

theorem lineRetire (pa : Nat) : Statement (.lineRetire pa) := of_event rfl

theorem suspicionDecay : Statement (.suspicionDecay) := of_event rfl

theorem tileWithdraw (tile : Nat) : Statement (.tileWithdraw tile) := of_event rfl

theorem targetedTest (tile : Nat) (pass : Bool) : Statement (.targetedTest tile pass) := of_event rfl

theorem ageingMonitorRead (die : Nat) (cluster : Nat) (birth : Nat) (count : Nat) : Statement (.ageingMonitorRead die cluster birth count) := of_event rfl

theorem clockStepApply (die : Nat) (cluster : Nat) : Statement (.clockStepApply die cluster) := of_event rfl

theorem clockStepTimeout (die : Nat) (cluster : Nat) : Statement (.clockStepTimeout die cluster) := of_event rfl

theorem modulePowerEvent (watts : Nat) : Statement (.modulePowerEvent watts) := of_event rfl

theorem coreCurrentEvent (amps : Nat) (die : Nat) : Statement (.coreCurrentEvent amps die) := of_event rfl

theorem thermalEvent (die : Nat) (cluster : Nat) (celsius : Nat) : Statement (.thermalEvent die cluster celsius) := of_event rfl

theorem boot (b : BootInput) : Statement (.boot b) := of_event rfl

theorem depotException (id : StrandId) (cause : BitVec 8) (addr : Word) : Statement (.depotException id cause addr) := of_event rfl

theorem dtmExpire (id : StrandId) : Statement (.dtmExpire id) := of_event rfl

theorem doorbell (fn : Nat) (q : Nat) : Statement (.doorbell fn q) := of_event rfl

theorem queueMap : Statement (.queueMap) := of_event rfl

theorem queueSlotTimeout (q : Nat) : Statement (.queueSlotTimeout q) := of_event rfl

theorem launch (n : Nat) : Statement (.launch n) := of_event rfl

theorem preempt (n : Nat) : Statement (.preempt n) := of_event rfl

theorem resume (n : Nat) : Statement (.resume n) := of_event rfl

theorem launchPlace (c : Nat) : Statement (.launchPlace c) := of_event rfl

theorem sliceExpiry (c : Nat) : Statement (.sliceExpiry c) := of_event rfl

theorem drainTimeout (c : Nat) : Statement (.drainTimeout c) := of_event rfl

theorem immediatePreempt (c : Nat) : Statement (.immediatePreempt c) := of_event rfl

theorem kill (c : Nat) : Statement (.kill c) := of_event rfl

theorem swapOut (c : Nat) : Statement (.swapOut c) := of_event rfl

theorem corridorResume (c : Nat) (place : List Nat) : Statement (.corridorResume c place) := of_event rfl

theorem migration (c : Nat) (place : List Nat) : Statement (.migration c place) := of_event rfl

theorem hostHaltRequest (c : Nat) : Statement (.hostHaltRequest c) := of_event rfl

theorem debugStateWrite (id : StrandId) (w : DebugWrite) : Statement (.debugStateWrite id w) := of_event rfl

theorem singleStep (id : StrandId) : Statement (.singleStep id) := of_event rfl

theorem debugResume (c : Nat) : Statement (.debugResume c) := of_event rfl

theorem invalidationService (pasid : Nat) : Statement (.invalidationService pasid) := of_event rfl

theorem walkComplete (die : Nat) : Statement (.walkComplete die) := of_event rfl

theorem connectionTableWrite (circuit : Nat) (value : BitVec 32) : Statement (.connectionTableWrite circuit value) := of_event rfl

theorem circuitLockLoss (circuit : Nat) : Statement (.circuitLockLoss circuit) := of_event rfl

theorem flitReceive (port : Nat) (flit : List Byte) : Statement (.flitReceive port flit) := of_event rfl

theorem laneFailure (port : Nat) (lane : Nat) : Statement (.laneFailure port lane) := of_event rfl

theorem retrainComplete (port : Nat) : Statement (.retrainComplete port) := of_event rfl

theorem fabricRequest (r : FabricReq) : Statement (.fabricRequest r) := of_event rfl

theorem fabricReply (r : FabricRep) : Statement (.fabricReply r) := of_event rfl

theorem fabricAttemptTimeout (pkg : Nat) (tag : Nat) : Statement (.fabricAttemptTimeout pkg tag) := of_event rfl

theorem busyRetry (pkg : Nat) (tag : Nat) : Statement (.busyRetry pkg tag) := of_event rfl

theorem tagQuarantineEnd (pkg : Nat) (tag : Nat) : Statement (.tagQuarantineEnd pkg tag) := of_event rfl

theorem duplicateEntryExpire (pkg : Nat) (tag : Nat) (inc : Nat) : Statement (.duplicateEntryExpire pkg tag inc) := of_event rfl

theorem ueInboundMessage (q : Nat) (data : List Byte) : Statement (.ueInboundMessage q data) := of_event rfl

theorem ueMessageDone (q : Nat) (acked : Bool) : Statement (.ueMessageDone q acked) := of_event rfl

theorem bar2Access (a : Bar2) : Statement (.bar2Access a) := of_event rfl

theorem functionLevelReset (vf : Nat) : Statement (.functionLevelReset vf) := of_event rfl

theorem pf0LinkReset : Statement (.pf0LinkReset) := of_event rfl

theorem atsInvalidation (pasid : Nat) (va : Nat) : Statement (.atsInvalidation pasid va) := of_event rfl

theorem pageRequestResponse (c : Nat) (ok : Bool) : Statement (.pageRequestResponse c ok) := of_event rfl

theorem pageRequestTimeout (c : Nat) : Statement (.pageRequestTimeout c) := of_event rfl

theorem frResp (fn : Nat) (seq : Nat) (fail : Bool) : Statement (.frResp fn seq fail) := of_event rfl

theorem frTimeout (fn : Nat) (seq : Nat) : Statement (.frTimeout fn seq) := of_event rfl

theorem oflReq (value : Word) : Statement (.oflReq value) := of_event rfl

theorem dieOffline (phase : Nat) : Statement (.dieOffline phase) := of_event rfl

theorem rmpAck (seq : Nat) : Statement (.rmpAck seq) := of_event rfl

theorem rmpTimeout (seq : Nat) : Statement (.rmpTimeout seq) := of_event rfl

theorem registerWrite (fn : Nat) (r : HostReg) (value : Word) : Statement (.registerWrite fn r value) := of_event rfl

theorem retuningComplete (circuit : Nat) : Statement (.retuningComplete circuit) := of_event rfl

theorem flashLayerWrite (c : Nat) (serial : Nat) : Statement (.flashLayerWrite c serial) := of_event rfl

theorem replicaDigestRequest (c : Nat) (mm : Nat) : Statement (.replicaDigestRequest c mm) := of_event rfl

theorem dieControllerFailure (die : Nat) : Statement (.dieControllerFailure die) := of_event rfl


end Sys2Proof.Laws.Encoding
end

