-- ==== Sys2Proof/Laws/State.lean ====
section
/-! SUPPORT. One lemma per field and update: an update of one part of the state, or of one register of a strand, leaves
every other field as it was. -/

namespace Sys2Proof.Machine

/-! ### setStrand -/

@[simp] theorem State.setStrand_clock (s : State) (id : StrandId) (x : Strand) : (s.setStrand id x).clock = s.clock := rfl
@[simp] theorem State.setStrand_turn (s : State) (id : StrandId) (x : Strand) : (s.setStrand id x).turn = s.turn := rfl
@[simp] theorem State.setStrand_agenda (s : State) (id : StrandId) (x : Strand) : (s.setStrand id x).agenda = s.agenda := rfl
@[simp] theorem State.setStrand_free (s : State) (id : StrandId) (x : Strand) : (s.setStrand id x).free = s.free := rfl
@[simp] theorem State.setStrand_stageTiles (s : State) (id : StrandId) (x : Strand) : (s.setStrand id x).stageTiles = s.stageTiles := rfl
@[simp] theorem State.setStrand_vtiles (s : State) (id : StrandId) (x : Strand) : (s.setStrand id x).vtiles = s.vtiles := rfl
@[simp] theorem State.setStrand_stages (s : State) (id : StrandId) (x : Strand) : (s.setStrand id x).stages = s.stages := rfl
@[simp] theorem State.setStrand_corridors (s : State) (id : StrandId) (x : Strand) : (s.setStrand id x).corridors = s.corridors := rfl
@[simp] theorem State.setStrand_tiles (s : State) (id : StrandId) (x : Strand) : (s.setStrand id x).tiles = s.tiles := rfl
@[simp] theorem State.setStrand_dies (s : State) (id : StrandId) (x : Strand) : (s.setStrand id x).dies = s.dies := rfl
@[simp] theorem State.setStrand_far (s : State) (id : StrandId) (x : Strand) : (s.setStrand id x).far = s.far := rfl
@[simp] theorem State.setStrand_atomics (s : State) (id : StrandId) (x : Strand) : (s.setStrand id x).atomics = s.atomics := rfl
@[simp] theorem State.setStrand_amoResults (s : State) (id : StrandId) (x : Strand) : (s.setStrand id x).amoResults = s.amoResults := rfl
@[simp] theorem State.setStrand_travelling (s : State) (id : StrandId) (x : Strand) : (s.setStrand id x).travelling = s.travelling := rfl
@[simp] theorem State.setStrand_depot (s : State) (id : StrandId) (x : Strand) : (s.setStrand id x).depot = s.depot := rfl
@[simp] theorem State.setStrand_host (s : State) (id : StrandId) (x : Strand) : (s.setStrand id x).host = s.host := rfl
@[simp] theorem State.setStrand_fabric (s : State) (id : StrandId) (x : Strand) : (s.setStrand id x).fabric = s.fabric := rfl
@[simp] theorem State.setStrand_lightway (s : State) (id : StrandId) (x : Strand) : (s.setStrand id x).lightway = s.lightway := rfl
@[simp] theorem State.setStrand_power (s : State) (id : StrandId) (x : Strand) : (s.setStrand id x).power = s.power := rfl

/-! ### setMe -/

@[simp] theorem State.setMe_clock (s : State) (x : Strand) : (s.setMe x).clock = s.clock := rfl
@[simp] theorem State.setMe_turn (s : State) (x : Strand) : (s.setMe x).turn = s.turn := rfl
@[simp] theorem State.setMe_agenda (s : State) (x : Strand) : (s.setMe x).agenda = s.agenda := rfl
@[simp] theorem State.setMe_free (s : State) (x : Strand) : (s.setMe x).free = s.free := rfl
@[simp] theorem State.setMe_stageTiles (s : State) (x : Strand) : (s.setMe x).stageTiles = s.stageTiles := rfl
@[simp] theorem State.setMe_vtiles (s : State) (x : Strand) : (s.setMe x).vtiles = s.vtiles := rfl
@[simp] theorem State.setMe_stages (s : State) (x : Strand) : (s.setMe x).stages = s.stages := rfl
@[simp] theorem State.setMe_corridors (s : State) (x : Strand) : (s.setMe x).corridors = s.corridors := rfl
@[simp] theorem State.setMe_tiles (s : State) (x : Strand) : (s.setMe x).tiles = s.tiles := rfl
@[simp] theorem State.setMe_dies (s : State) (x : Strand) : (s.setMe x).dies = s.dies := rfl
@[simp] theorem State.setMe_far (s : State) (x : Strand) : (s.setMe x).far = s.far := rfl
@[simp] theorem State.setMe_atomics (s : State) (x : Strand) : (s.setMe x).atomics = s.atomics := rfl
@[simp] theorem State.setMe_amoResults (s : State) (x : Strand) : (s.setMe x).amoResults = s.amoResults := rfl
@[simp] theorem State.setMe_travelling (s : State) (x : Strand) : (s.setMe x).travelling = s.travelling := rfl
@[simp] theorem State.setMe_depot (s : State) (x : Strand) : (s.setMe x).depot = s.depot := rfl
@[simp] theorem State.setMe_host (s : State) (x : Strand) : (s.setMe x).host = s.host := rfl
@[simp] theorem State.setMe_fabric (s : State) (x : Strand) : (s.setMe x).fabric = s.fabric := rfl
@[simp] theorem State.setMe_lightway (s : State) (x : Strand) : (s.setMe x).lightway = s.lightway := rfl
@[simp] theorem State.setMe_power (s : State) (x : Strand) : (s.setMe x).power = s.power := rfl

/-! ### onMe -/

@[simp] theorem State.onMe_clock (s : State) (f : Strand → Strand) : (s.onMe f).clock = s.clock := rfl
@[simp] theorem State.onMe_turn (s : State) (f : Strand → Strand) : (s.onMe f).turn = s.turn := rfl
@[simp] theorem State.onMe_agenda (s : State) (f : Strand → Strand) : (s.onMe f).agenda = s.agenda := rfl
@[simp] theorem State.onMe_free (s : State) (f : Strand → Strand) : (s.onMe f).free = s.free := rfl
@[simp] theorem State.onMe_stageTiles (s : State) (f : Strand → Strand) : (s.onMe f).stageTiles = s.stageTiles := rfl
@[simp] theorem State.onMe_vtiles (s : State) (f : Strand → Strand) : (s.onMe f).vtiles = s.vtiles := rfl
@[simp] theorem State.onMe_stages (s : State) (f : Strand → Strand) : (s.onMe f).stages = s.stages := rfl
@[simp] theorem State.onMe_corridors (s : State) (f : Strand → Strand) : (s.onMe f).corridors = s.corridors := rfl
@[simp] theorem State.onMe_tiles (s : State) (f : Strand → Strand) : (s.onMe f).tiles = s.tiles := rfl
@[simp] theorem State.onMe_dies (s : State) (f : Strand → Strand) : (s.onMe f).dies = s.dies := rfl
@[simp] theorem State.onMe_far (s : State) (f : Strand → Strand) : (s.onMe f).far = s.far := rfl
@[simp] theorem State.onMe_atomics (s : State) (f : Strand → Strand) : (s.onMe f).atomics = s.atomics := rfl
@[simp] theorem State.onMe_amoResults (s : State) (f : Strand → Strand) : (s.onMe f).amoResults = s.amoResults := rfl
@[simp] theorem State.onMe_travelling (s : State) (f : Strand → Strand) : (s.onMe f).travelling = s.travelling := rfl
@[simp] theorem State.onMe_depot (s : State) (f : Strand → Strand) : (s.onMe f).depot = s.depot := rfl
@[simp] theorem State.onMe_host (s : State) (f : Strand → Strand) : (s.onMe f).host = s.host := rfl
@[simp] theorem State.onMe_fabric (s : State) (f : Strand → Strand) : (s.onMe f).fabric = s.fabric := rfl
@[simp] theorem State.onMe_lightway (s : State) (f : Strand → Strand) : (s.onMe f).lightway = s.lightway := rfl
@[simp] theorem State.onMe_power (s : State) (f : Strand → Strand) : (s.onMe f).power = s.power := rfl

/-! ### setTile -/

@[simp] theorem State.setTile_clock (s : State) (p : Nat) (x : Tile) : (s.setTile p x).clock = s.clock := rfl
@[simp] theorem State.setTile_cur (s : State) (p : Nat) (x : Tile) : (s.setTile p x).cur = s.cur := rfl
@[simp] theorem State.setTile_turn (s : State) (p : Nat) (x : Tile) : (s.setTile p x).turn = s.turn := rfl
@[simp] theorem State.setTile_agenda (s : State) (p : Nat) (x : Tile) : (s.setTile p x).agenda = s.agenda := rfl
@[simp] theorem State.setTile_free (s : State) (p : Nat) (x : Tile) : (s.setTile p x).free = s.free := rfl
@[simp] theorem State.setTile_strands (s : State) (p : Nat) (x : Tile) : (s.setTile p x).strands = s.strands := rfl
@[simp] theorem State.setTile_stageTiles (s : State) (p : Nat) (x : Tile) : (s.setTile p x).stageTiles = s.stageTiles := rfl
@[simp] theorem State.setTile_vtiles (s : State) (p : Nat) (x : Tile) : (s.setTile p x).vtiles = s.vtiles := rfl
@[simp] theorem State.setTile_stages (s : State) (p : Nat) (x : Tile) : (s.setTile p x).stages = s.stages := rfl
@[simp] theorem State.setTile_corridors (s : State) (p : Nat) (x : Tile) : (s.setTile p x).corridors = s.corridors := rfl
@[simp] theorem State.setTile_dies (s : State) (p : Nat) (x : Tile) : (s.setTile p x).dies = s.dies := rfl
@[simp] theorem State.setTile_far (s : State) (p : Nat) (x : Tile) : (s.setTile p x).far = s.far := rfl
@[simp] theorem State.setTile_atomics (s : State) (p : Nat) (x : Tile) : (s.setTile p x).atomics = s.atomics := rfl
@[simp] theorem State.setTile_amoResults (s : State) (p : Nat) (x : Tile) : (s.setTile p x).amoResults = s.amoResults := rfl
@[simp] theorem State.setTile_travelling (s : State) (p : Nat) (x : Tile) : (s.setTile p x).travelling = s.travelling := rfl
@[simp] theorem State.setTile_depot (s : State) (p : Nat) (x : Tile) : (s.setTile p x).depot = s.depot := rfl
@[simp] theorem State.setTile_host (s : State) (p : Nat) (x : Tile) : (s.setTile p x).host = s.host := rfl
@[simp] theorem State.setTile_fabric (s : State) (p : Nat) (x : Tile) : (s.setTile p x).fabric = s.fabric := rfl
@[simp] theorem State.setTile_lightway (s : State) (p : Nat) (x : Tile) : (s.setTile p x).lightway = s.lightway := rfl
@[simp] theorem State.setTile_power (s : State) (p : Nat) (x : Tile) : (s.setTile p x).power = s.power := rfl

/-! ### setCor -/

@[simp] theorem State.setCor_clock (s : State) (c : Nat) (x : Corridor) : (s.setCor c x).clock = s.clock := rfl
@[simp] theorem State.setCor_cur (s : State) (c : Nat) (x : Corridor) : (s.setCor c x).cur = s.cur := rfl
@[simp] theorem State.setCor_turn (s : State) (c : Nat) (x : Corridor) : (s.setCor c x).turn = s.turn := rfl
@[simp] theorem State.setCor_agenda (s : State) (c : Nat) (x : Corridor) : (s.setCor c x).agenda = s.agenda := rfl
@[simp] theorem State.setCor_free (s : State) (c : Nat) (x : Corridor) : (s.setCor c x).free = s.free := rfl
@[simp] theorem State.setCor_strands (s : State) (c : Nat) (x : Corridor) : (s.setCor c x).strands = s.strands := rfl
@[simp] theorem State.setCor_stageTiles (s : State) (c : Nat) (x : Corridor) : (s.setCor c x).stageTiles = s.stageTiles := rfl
@[simp] theorem State.setCor_vtiles (s : State) (c : Nat) (x : Corridor) : (s.setCor c x).vtiles = s.vtiles := rfl
@[simp] theorem State.setCor_stages (s : State) (c : Nat) (x : Corridor) : (s.setCor c x).stages = s.stages := rfl
@[simp] theorem State.setCor_tiles (s : State) (c : Nat) (x : Corridor) : (s.setCor c x).tiles = s.tiles := rfl
@[simp] theorem State.setCor_dies (s : State) (c : Nat) (x : Corridor) : (s.setCor c x).dies = s.dies := rfl
@[simp] theorem State.setCor_far (s : State) (c : Nat) (x : Corridor) : (s.setCor c x).far = s.far := rfl
@[simp] theorem State.setCor_atomics (s : State) (c : Nat) (x : Corridor) : (s.setCor c x).atomics = s.atomics := rfl
@[simp] theorem State.setCor_amoResults (s : State) (c : Nat) (x : Corridor) : (s.setCor c x).amoResults = s.amoResults := rfl
@[simp] theorem State.setCor_travelling (s : State) (c : Nat) (x : Corridor) : (s.setCor c x).travelling = s.travelling := rfl
@[simp] theorem State.setCor_depot (s : State) (c : Nat) (x : Corridor) : (s.setCor c x).depot = s.depot := rfl
@[simp] theorem State.setCor_host (s : State) (c : Nat) (x : Corridor) : (s.setCor c x).host = s.host := rfl
@[simp] theorem State.setCor_fabric (s : State) (c : Nat) (x : Corridor) : (s.setCor c x).fabric = s.fabric := rfl
@[simp] theorem State.setCor_lightway (s : State) (c : Nat) (x : Corridor) : (s.setCor c x).lightway = s.lightway := rfl
@[simp] theorem State.setCor_power (s : State) (c : Nat) (x : Corridor) : (s.setCor c x).power = s.power := rfl

/-! ### setVtile -/

@[simp] theorem State.setVtile_clock (s : State) (c vt : Nat) (x : VTile) : (s.setVtile c vt x).clock = s.clock := rfl
@[simp] theorem State.setVtile_cur (s : State) (c vt : Nat) (x : VTile) : (s.setVtile c vt x).cur = s.cur := rfl
@[simp] theorem State.setVtile_turn (s : State) (c vt : Nat) (x : VTile) : (s.setVtile c vt x).turn = s.turn := rfl
@[simp] theorem State.setVtile_agenda (s : State) (c vt : Nat) (x : VTile) : (s.setVtile c vt x).agenda = s.agenda := rfl
@[simp] theorem State.setVtile_free (s : State) (c vt : Nat) (x : VTile) : (s.setVtile c vt x).free = s.free := rfl
@[simp] theorem State.setVtile_strands (s : State) (c vt : Nat) (x : VTile) : (s.setVtile c vt x).strands = s.strands := rfl
@[simp] theorem State.setVtile_stageTiles (s : State) (c vt : Nat) (x : VTile) : (s.setVtile c vt x).stageTiles = s.stageTiles := rfl
@[simp] theorem State.setVtile_stages (s : State) (c vt : Nat) (x : VTile) : (s.setVtile c vt x).stages = s.stages := rfl
@[simp] theorem State.setVtile_corridors (s : State) (c vt : Nat) (x : VTile) : (s.setVtile c vt x).corridors = s.corridors := rfl
@[simp] theorem State.setVtile_tiles (s : State) (c vt : Nat) (x : VTile) : (s.setVtile c vt x).tiles = s.tiles := rfl
@[simp] theorem State.setVtile_dies (s : State) (c vt : Nat) (x : VTile) : (s.setVtile c vt x).dies = s.dies := rfl
@[simp] theorem State.setVtile_far (s : State) (c vt : Nat) (x : VTile) : (s.setVtile c vt x).far = s.far := rfl
@[simp] theorem State.setVtile_atomics (s : State) (c vt : Nat) (x : VTile) : (s.setVtile c vt x).atomics = s.atomics := rfl
@[simp] theorem State.setVtile_amoResults (s : State) (c vt : Nat) (x : VTile) : (s.setVtile c vt x).amoResults = s.amoResults := rfl
@[simp] theorem State.setVtile_travelling (s : State) (c vt : Nat) (x : VTile) : (s.setVtile c vt x).travelling = s.travelling := rfl
@[simp] theorem State.setVtile_depot (s : State) (c vt : Nat) (x : VTile) : (s.setVtile c vt x).depot = s.depot := rfl
@[simp] theorem State.setVtile_host (s : State) (c vt : Nat) (x : VTile) : (s.setVtile c vt x).host = s.host := rfl
@[simp] theorem State.setVtile_fabric (s : State) (c vt : Nat) (x : VTile) : (s.setVtile c vt x).fabric = s.fabric := rfl
@[simp] theorem State.setVtile_lightway (s : State) (c vt : Nat) (x : VTile) : (s.setVtile c vt x).lightway = s.lightway := rfl
@[simp] theorem State.setVtile_power (s : State) (c vt : Nat) (x : VTile) : (s.setVtile c vt x).power = s.power := rfl

/-! ### setStage -/

@[simp] theorem State.setStage_clock (s : State) (c st : Nat) (x : Stage) : (s.setStage c st x).clock = s.clock := rfl
@[simp] theorem State.setStage_cur (s : State) (c st : Nat) (x : Stage) : (s.setStage c st x).cur = s.cur := rfl
@[simp] theorem State.setStage_turn (s : State) (c st : Nat) (x : Stage) : (s.setStage c st x).turn = s.turn := rfl
@[simp] theorem State.setStage_agenda (s : State) (c st : Nat) (x : Stage) : (s.setStage c st x).agenda = s.agenda := rfl
@[simp] theorem State.setStage_free (s : State) (c st : Nat) (x : Stage) : (s.setStage c st x).free = s.free := rfl
@[simp] theorem State.setStage_strands (s : State) (c st : Nat) (x : Stage) : (s.setStage c st x).strands = s.strands := rfl
@[simp] theorem State.setStage_stageTiles (s : State) (c st : Nat) (x : Stage) : (s.setStage c st x).stageTiles = s.stageTiles := rfl
@[simp] theorem State.setStage_vtiles (s : State) (c st : Nat) (x : Stage) : (s.setStage c st x).vtiles = s.vtiles := rfl
@[simp] theorem State.setStage_corridors (s : State) (c st : Nat) (x : Stage) : (s.setStage c st x).corridors = s.corridors := rfl
@[simp] theorem State.setStage_tiles (s : State) (c st : Nat) (x : Stage) : (s.setStage c st x).tiles = s.tiles := rfl
@[simp] theorem State.setStage_dies (s : State) (c st : Nat) (x : Stage) : (s.setStage c st x).dies = s.dies := rfl
@[simp] theorem State.setStage_far (s : State) (c st : Nat) (x : Stage) : (s.setStage c st x).far = s.far := rfl
@[simp] theorem State.setStage_atomics (s : State) (c st : Nat) (x : Stage) : (s.setStage c st x).atomics = s.atomics := rfl
@[simp] theorem State.setStage_amoResults (s : State) (c st : Nat) (x : Stage) : (s.setStage c st x).amoResults = s.amoResults := rfl
@[simp] theorem State.setStage_travelling (s : State) (c st : Nat) (x : Stage) : (s.setStage c st x).travelling = s.travelling := rfl
@[simp] theorem State.setStage_depot (s : State) (c st : Nat) (x : Stage) : (s.setStage c st x).depot = s.depot := rfl
@[simp] theorem State.setStage_host (s : State) (c st : Nat) (x : Stage) : (s.setStage c st x).host = s.host := rfl
@[simp] theorem State.setStage_fabric (s : State) (c st : Nat) (x : Stage) : (s.setStage c st x).fabric = s.fabric := rfl
@[simp] theorem State.setStage_lightway (s : State) (c st : Nat) (x : Stage) : (s.setStage c st x).lightway = s.lightway := rfl
@[simp] theorem State.setStage_power (s : State) (c st : Nat) (x : Stage) : (s.setStage c st x).power = s.power := rfl

/-! ### setStageTile -/

@[simp] theorem State.setStageTile_clock (s : State) (c vt st : Nat) (x : StageTile) : (s.setStageTile c vt st x).clock = s.clock := rfl
@[simp] theorem State.setStageTile_cur (s : State) (c vt st : Nat) (x : StageTile) : (s.setStageTile c vt st x).cur = s.cur := rfl
@[simp] theorem State.setStageTile_turn (s : State) (c vt st : Nat) (x : StageTile) : (s.setStageTile c vt st x).turn = s.turn := rfl
@[simp] theorem State.setStageTile_agenda (s : State) (c vt st : Nat) (x : StageTile) : (s.setStageTile c vt st x).agenda = s.agenda := rfl
@[simp] theorem State.setStageTile_free (s : State) (c vt st : Nat) (x : StageTile) : (s.setStageTile c vt st x).free = s.free := rfl
@[simp] theorem State.setStageTile_strands (s : State) (c vt st : Nat) (x : StageTile) : (s.setStageTile c vt st x).strands = s.strands := rfl
@[simp] theorem State.setStageTile_vtiles (s : State) (c vt st : Nat) (x : StageTile) : (s.setStageTile c vt st x).vtiles = s.vtiles := rfl
@[simp] theorem State.setStageTile_stages (s : State) (c vt st : Nat) (x : StageTile) : (s.setStageTile c vt st x).stages = s.stages := rfl
@[simp] theorem State.setStageTile_corridors (s : State) (c vt st : Nat) (x : StageTile) : (s.setStageTile c vt st x).corridors = s.corridors := rfl
@[simp] theorem State.setStageTile_tiles (s : State) (c vt st : Nat) (x : StageTile) : (s.setStageTile c vt st x).tiles = s.tiles := rfl
@[simp] theorem State.setStageTile_dies (s : State) (c vt st : Nat) (x : StageTile) : (s.setStageTile c vt st x).dies = s.dies := rfl
@[simp] theorem State.setStageTile_far (s : State) (c vt st : Nat) (x : StageTile) : (s.setStageTile c vt st x).far = s.far := rfl
@[simp] theorem State.setStageTile_atomics (s : State) (c vt st : Nat) (x : StageTile) : (s.setStageTile c vt st x).atomics = s.atomics := rfl
@[simp] theorem State.setStageTile_amoResults (s : State) (c vt st : Nat) (x : StageTile) : (s.setStageTile c vt st x).amoResults = s.amoResults := rfl
@[simp] theorem State.setStageTile_travelling (s : State) (c vt st : Nat) (x : StageTile) : (s.setStageTile c vt st x).travelling = s.travelling := rfl
@[simp] theorem State.setStageTile_depot (s : State) (c vt st : Nat) (x : StageTile) : (s.setStageTile c vt st x).depot = s.depot := rfl
@[simp] theorem State.setStageTile_host (s : State) (c vt st : Nat) (x : StageTile) : (s.setStageTile c vt st x).host = s.host := rfl
@[simp] theorem State.setStageTile_fabric (s : State) (c vt st : Nat) (x : StageTile) : (s.setStageTile c vt st x).fabric = s.fabric := rfl
@[simp] theorem State.setStageTile_lightway (s : State) (c vt st : Nat) (x : StageTile) : (s.setStageTile c vt st x).lightway = s.lightway := rfl
@[simp] theorem State.setStageTile_power (s : State) (c vt st : Nat) (x : StageTile) : (s.setStageTile c vt st x).power = s.power := rfl

/-! ### What is read back -/

@[simp] theorem State.tile_setTile_self (s : State) (p : Nat) (x : Tile) : (s.setTile p x).tile p = x := by
  simp [State.setTile, State.tile]
@[simp] theorem State.cor_setCor_self (s : State) (c : Nat) (x : Corridor) : (s.setCor c x).cor c = x := by
  simp [State.setCor, State.cor]
@[simp] theorem State.vtile_setVtile_self (s : State) (c vt : Nat) (x : VTile) : (s.setVtile c vt x).vtile c vt = x := by
  simp [State.setVtile, State.vtile]
@[simp] theorem State.stage_setStage_self (s : State) (c st : Nat) (x : Stage) : (s.setStage c st x).stage c st = x := by
  simp [State.setStage, State.stage]
@[simp] theorem State.stageTile_setStageTile_self (s : State) (c vt st : Nat) (x : StageTile) :
    (s.setStageTile c vt st x).stageTile c vt st = x := by
  simp [State.setStageTile, State.stageTile]

/-! ### putS -/

@[simp] theorem Strand.putS_status (x : Strand) (r : Reg) (w : Word) (q : BitVec 4) : (x.putS r w q).status = x.status := by
  unfold Strand.putS; split <;> rfl
@[simp] theorem Strand.putS_stage (x : Strand) (r : Reg) (w : Word) (q : BitVec 4) : (x.putS r w q).stage = x.stage := by
  unfold Strand.putS; split <;> rfl
@[simp] theorem Strand.putS_pc0 (x : Strand) (r : Reg) (w : Word) (q : BitVec 4) : (x.putS r w q).pc0 = x.pc0 := by
  unfold Strand.putS; split <;> rfl
@[simp] theorem Strand.putS_pc1 (x : Strand) (r : Reg) (w : Word) (q : BitVec 4) : (x.putS r w q).pc1 = x.pc1 := by
  unfold Strand.putS; split <;> rfl
@[simp] theorem Strand.putS_pc2 (x : Strand) (r : Reg) (w : Word) (q : BitVec 4) : (x.putS r w q).pc2 = x.pc2 := by
  unfold Strand.putS; split <;> rfl
@[simp] theorem Strand.putS_annul (x : Strand) (r : Reg) (w : Word) (q : BitVec 4) : (x.putS r w q).annul = x.annul := by
  unfold Strand.putS; split <;> rfl
@[simp] theorem Strand.putS_slots (x : Strand) (r : Reg) (w : Word) (q : BitVec 4) : (x.putS r w q).slots = x.slots := by
  unfold Strand.putS; split <;> rfl
@[simp] theorem Strand.putS_v (x : Strand) (r : Reg) (w : Word) (q : BitVec 4) : (x.putS r w q).v = x.v := by
  unfold Strand.putS; split <;> rfl
@[simp] theorem Strand.putS_d (x : Strand) (r : Reg) (w : Word) (q : BitVec 4) : (x.putS r w q).d = x.d := by
  unfold Strand.putS; split <;> rfl
@[simp] theorem Strand.putS_p (x : Strand) (r : Reg) (w : Word) (q : BitVec 4) : (x.putS r w q).p = x.p := by
  unfold Strand.putS; split <;> rfl
@[simp] theorem Strand.putS_ctl (x : Strand) (r : Reg) (w : Word) (q : BitVec 4) : (x.putS r w q).ctl = x.ctl := by
  unfold Strand.putS; split <;> rfl
@[simp] theorem Strand.putS_windows (x : Strand) (r : Reg) (w : Word) (q : BitVec 4) : (x.putS r w q).windows = x.windows := by
  unfold Strand.putS; split <;> rfl
@[simp] theorem Strand.putS_nextWin (x : Strand) (r : Reg) (w : Word) (q : BitVec 4) : (x.putS r w q).nextWin = x.nextWin := by
  unfold Strand.putS; split <;> rfl
@[simp] theorem Strand.putS_rep (x : Strand) (r : Reg) (w : Word) (q : BitVec 4) : (x.putS r w q).rep = x.rep := by
  unfold Strand.putS; split <;> rfl
@[simp] theorem Strand.putS_wait (x : Strand) (r : Reg) (w : Word) (q : BitVec 4) : (x.putS r w q).wait = x.wait := by
  unfold Strand.putS; split <;> rfl
@[simp] theorem Strand.putS_arrival (x : Strand) (r : Reg) (w : Word) (q : BitVec 4) : (x.putS r w q).arrival = x.arrival := by
  unfold Strand.putS; split <;> rfl
@[simp] theorem Strand.putS_voted (x : Strand) (r : Reg) (w : Word) (q : BitVec 4) : (x.putS r w q).voted = x.voted := by
  unfold Strand.putS; split <;> rfl
@[simp] theorem Strand.putS_cause (x : Strand) (r : Reg) (w : Word) (q : BitVec 4) : (x.putS r w q).cause = x.cause := by
  unfold Strand.putS; split <;> rfl
@[simp] theorem Strand.putS_haltCode (x : Strand) (r : Reg) (w : Word) (q : BitVec 4) : (x.putS r w q).haltCode = x.haltCode := by
  unfold Strand.putS; split <;> rfl
@[simp] theorem Strand.putS_stepping (x : Strand) (r : Reg) (w : Word) (q : BitVec 4) : (x.putS r w q).stepping = x.stepping := by
  unfold Strand.putS; split <;> rfl
@[simp] theorem Strand.putS_halting (x : Strand) (r : Reg) (w : Word) (q : BitVec 4) : (x.putS r w q).halting = x.halting := by
  unfold Strand.putS; split <;> rfl
@[simp] theorem Strand.putS_fifo (x : Strand) (r : Reg) (w : Word) (q : BitVec 4) : (x.putS r w q).fifo = x.fifo := by
  unfold Strand.putS; split <;> rfl
@[simp] theorem Strand.putS_running (x : Strand) (r : Reg) (w : Word) (q : BitVec 4) : (x.putS r w q).running = x.running := by
  unfold Strand.putS; split <;> rfl
@[simp] theorem Strand.putS_mailbox (x : Strand) (r : Reg) (w : Word) (q : BitVec 4) : (x.putS r w q).mailbox = x.mailbox := by
  unfold Strand.putS; split <;> rfl
@[simp] theorem Strand.putS_mailWaiting (x : Strand) (r : Reg) (w : Word) (q : BitVec 4) : (x.putS r w q).mailWaiting = x.mailWaiting := by
  unfold Strand.putS; split <;> rfl
@[simp] theorem Strand.putS_popped (x : Strand) (r : Reg) (w : Word) (q : BitVec 4) : (x.putS r w q).popped = x.popped := by
  unfold Strand.putS; split <;> rfl
@[simp] theorem Strand.putS_nextMail (x : Strand) (r : Reg) (w : Word) (q : BitVec 4) : (x.putS r w q).nextMail = x.nextMail := by
  unfold Strand.putS; split <;> rfl
@[simp] theorem Strand.putS_held (x : Strand) (r : Reg) (w : Word) (q : BitVec 4) : (x.putS r w q).held = x.held := by
  unfold Strand.putS; split <;> rfl
@[simp] theorem Strand.putS_released (x : Strand) (r : Reg) (w : Word) (q : BitVec 4) : (x.putS r w q).released = x.released := by
  unfold Strand.putS; split <;> rfl
@[simp] theorem Strand.putS_inflight (x : Strand) (r : Reg) (w : Word) (q : BitVec 4) : (x.putS r w q).inflight = x.inflight := by
  unfold Strand.putS; split <;> rfl
@[simp] theorem Strand.putS_seq (x : Strand) (r : Reg) (w : Word) (q : BitVec 4) : (x.putS r w q).seq = x.seq := by
  unfold Strand.putS; split <;> rfl
@[simp] theorem Strand.putS_handles (x : Strand) (r : Reg) (w : Word) (q : BitVec 4) : (x.putS r w q).handles = x.handles := by
  unfold Strand.putS; split <;> rfl
@[simp] theorem Strand.putS_serial (x : Strand) (r : Reg) (w : Word) (q : BitVec 4) : (x.putS r w q).serial = x.serial := by
  unfold Strand.putS; split <;> rfl
@[simp] theorem Strand.putS_depot (x : Strand) (r : Reg) (w : Word) (q : BitVec 4) : (x.putS r w q).depot = x.depot := by
  unfold Strand.putS; split <;> rfl
@[simp] theorem Strand.putS_restored (x : Strand) (r : Reg) (w : Word) (q : BitVec 4) : (x.putS r w q).restored = x.restored := by
  unfold Strand.putS; split <;> rfl

/-! ### putV -/

@[simp] theorem Strand.putV_status (x : Strand) (r : Reg) (l : Line) : (x.putV r l).status = x.status := rfl
@[simp] theorem Strand.putV_stage (x : Strand) (r : Reg) (l : Line) : (x.putV r l).stage = x.stage := rfl
@[simp] theorem Strand.putV_pc0 (x : Strand) (r : Reg) (l : Line) : (x.putV r l).pc0 = x.pc0 := rfl
@[simp] theorem Strand.putV_pc1 (x : Strand) (r : Reg) (l : Line) : (x.putV r l).pc1 = x.pc1 := rfl
@[simp] theorem Strand.putV_pc2 (x : Strand) (r : Reg) (l : Line) : (x.putV r l).pc2 = x.pc2 := rfl
@[simp] theorem Strand.putV_annul (x : Strand) (r : Reg) (l : Line) : (x.putV r l).annul = x.annul := rfl
@[simp] theorem Strand.putV_slots (x : Strand) (r : Reg) (l : Line) : (x.putV r l).slots = x.slots := rfl
@[simp] theorem Strand.putV_s (x : Strand) (r : Reg) (l : Line) : (x.putV r l).s = x.s := rfl
@[simp] theorem Strand.putV_sres (x : Strand) (r : Reg) (l : Line) : (x.putV r l).sres = x.sres := rfl
@[simp] theorem Strand.putV_d (x : Strand) (r : Reg) (l : Line) : (x.putV r l).d = x.d := rfl
@[simp] theorem Strand.putV_p (x : Strand) (r : Reg) (l : Line) : (x.putV r l).p = x.p := rfl
@[simp] theorem Strand.putV_ctl (x : Strand) (r : Reg) (l : Line) : (x.putV r l).ctl = x.ctl := rfl
@[simp] theorem Strand.putV_windows (x : Strand) (r : Reg) (l : Line) : (x.putV r l).windows = x.windows := rfl
@[simp] theorem Strand.putV_nextWin (x : Strand) (r : Reg) (l : Line) : (x.putV r l).nextWin = x.nextWin := rfl
@[simp] theorem Strand.putV_rep (x : Strand) (r : Reg) (l : Line) : (x.putV r l).rep = x.rep := rfl
@[simp] theorem Strand.putV_wait (x : Strand) (r : Reg) (l : Line) : (x.putV r l).wait = x.wait := rfl
@[simp] theorem Strand.putV_arrival (x : Strand) (r : Reg) (l : Line) : (x.putV r l).arrival = x.arrival := rfl
@[simp] theorem Strand.putV_voted (x : Strand) (r : Reg) (l : Line) : (x.putV r l).voted = x.voted := rfl
@[simp] theorem Strand.putV_cause (x : Strand) (r : Reg) (l : Line) : (x.putV r l).cause = x.cause := rfl
@[simp] theorem Strand.putV_haltCode (x : Strand) (r : Reg) (l : Line) : (x.putV r l).haltCode = x.haltCode := rfl
@[simp] theorem Strand.putV_stepping (x : Strand) (r : Reg) (l : Line) : (x.putV r l).stepping = x.stepping := rfl
@[simp] theorem Strand.putV_halting (x : Strand) (r : Reg) (l : Line) : (x.putV r l).halting = x.halting := rfl
@[simp] theorem Strand.putV_fifo (x : Strand) (r : Reg) (l : Line) : (x.putV r l).fifo = x.fifo := rfl
@[simp] theorem Strand.putV_running (x : Strand) (r : Reg) (l : Line) : (x.putV r l).running = x.running := rfl
@[simp] theorem Strand.putV_mailbox (x : Strand) (r : Reg) (l : Line) : (x.putV r l).mailbox = x.mailbox := rfl
@[simp] theorem Strand.putV_mailWaiting (x : Strand) (r : Reg) (l : Line) : (x.putV r l).mailWaiting = x.mailWaiting := rfl
@[simp] theorem Strand.putV_popped (x : Strand) (r : Reg) (l : Line) : (x.putV r l).popped = x.popped := rfl
@[simp] theorem Strand.putV_nextMail (x : Strand) (r : Reg) (l : Line) : (x.putV r l).nextMail = x.nextMail := rfl
@[simp] theorem Strand.putV_held (x : Strand) (r : Reg) (l : Line) : (x.putV r l).held = x.held := rfl
@[simp] theorem Strand.putV_released (x : Strand) (r : Reg) (l : Line) : (x.putV r l).released = x.released := rfl
@[simp] theorem Strand.putV_inflight (x : Strand) (r : Reg) (l : Line) : (x.putV r l).inflight = x.inflight := rfl
@[simp] theorem Strand.putV_seq (x : Strand) (r : Reg) (l : Line) : (x.putV r l).seq = x.seq := rfl
@[simp] theorem Strand.putV_handles (x : Strand) (r : Reg) (l : Line) : (x.putV r l).handles = x.handles := rfl
@[simp] theorem Strand.putV_serial (x : Strand) (r : Reg) (l : Line) : (x.putV r l).serial = x.serial := rfl
@[simp] theorem Strand.putV_depot (x : Strand) (r : Reg) (l : Line) : (x.putV r l).depot = x.depot := rfl
@[simp] theorem Strand.putV_restored (x : Strand) (r : Reg) (l : Line) : (x.putV r l).restored = x.restored := rfl

/-! ### putD -/

@[simp] theorem Strand.putD_status (x : Strand) (r : BitVec 4) (e : Dist) : (x.putD r e).status = x.status := rfl
@[simp] theorem Strand.putD_stage (x : Strand) (r : BitVec 4) (e : Dist) : (x.putD r e).stage = x.stage := rfl
@[simp] theorem Strand.putD_pc0 (x : Strand) (r : BitVec 4) (e : Dist) : (x.putD r e).pc0 = x.pc0 := rfl
@[simp] theorem Strand.putD_pc1 (x : Strand) (r : BitVec 4) (e : Dist) : (x.putD r e).pc1 = x.pc1 := rfl
@[simp] theorem Strand.putD_pc2 (x : Strand) (r : BitVec 4) (e : Dist) : (x.putD r e).pc2 = x.pc2 := rfl
@[simp] theorem Strand.putD_annul (x : Strand) (r : BitVec 4) (e : Dist) : (x.putD r e).annul = x.annul := rfl
@[simp] theorem Strand.putD_slots (x : Strand) (r : BitVec 4) (e : Dist) : (x.putD r e).slots = x.slots := rfl
@[simp] theorem Strand.putD_s (x : Strand) (r : BitVec 4) (e : Dist) : (x.putD r e).s = x.s := rfl
@[simp] theorem Strand.putD_sres (x : Strand) (r : BitVec 4) (e : Dist) : (x.putD r e).sres = x.sres := rfl
@[simp] theorem Strand.putD_v (x : Strand) (r : BitVec 4) (e : Dist) : (x.putD r e).v = x.v := rfl
@[simp] theorem Strand.putD_p (x : Strand) (r : BitVec 4) (e : Dist) : (x.putD r e).p = x.p := rfl
@[simp] theorem Strand.putD_ctl (x : Strand) (r : BitVec 4) (e : Dist) : (x.putD r e).ctl = x.ctl := rfl
@[simp] theorem Strand.putD_windows (x : Strand) (r : BitVec 4) (e : Dist) : (x.putD r e).windows = x.windows := rfl
@[simp] theorem Strand.putD_nextWin (x : Strand) (r : BitVec 4) (e : Dist) : (x.putD r e).nextWin = x.nextWin := rfl
@[simp] theorem Strand.putD_rep (x : Strand) (r : BitVec 4) (e : Dist) : (x.putD r e).rep = x.rep := rfl
@[simp] theorem Strand.putD_wait (x : Strand) (r : BitVec 4) (e : Dist) : (x.putD r e).wait = x.wait := rfl
@[simp] theorem Strand.putD_arrival (x : Strand) (r : BitVec 4) (e : Dist) : (x.putD r e).arrival = x.arrival := rfl
@[simp] theorem Strand.putD_voted (x : Strand) (r : BitVec 4) (e : Dist) : (x.putD r e).voted = x.voted := rfl
@[simp] theorem Strand.putD_cause (x : Strand) (r : BitVec 4) (e : Dist) : (x.putD r e).cause = x.cause := rfl
@[simp] theorem Strand.putD_haltCode (x : Strand) (r : BitVec 4) (e : Dist) : (x.putD r e).haltCode = x.haltCode := rfl
@[simp] theorem Strand.putD_stepping (x : Strand) (r : BitVec 4) (e : Dist) : (x.putD r e).stepping = x.stepping := rfl
@[simp] theorem Strand.putD_halting (x : Strand) (r : BitVec 4) (e : Dist) : (x.putD r e).halting = x.halting := rfl
@[simp] theorem Strand.putD_fifo (x : Strand) (r : BitVec 4) (e : Dist) : (x.putD r e).fifo = x.fifo := rfl
@[simp] theorem Strand.putD_running (x : Strand) (r : BitVec 4) (e : Dist) : (x.putD r e).running = x.running := rfl
@[simp] theorem Strand.putD_mailbox (x : Strand) (r : BitVec 4) (e : Dist) : (x.putD r e).mailbox = x.mailbox := rfl
@[simp] theorem Strand.putD_mailWaiting (x : Strand) (r : BitVec 4) (e : Dist) : (x.putD r e).mailWaiting = x.mailWaiting := rfl
@[simp] theorem Strand.putD_popped (x : Strand) (r : BitVec 4) (e : Dist) : (x.putD r e).popped = x.popped := rfl
@[simp] theorem Strand.putD_nextMail (x : Strand) (r : BitVec 4) (e : Dist) : (x.putD r e).nextMail = x.nextMail := rfl
@[simp] theorem Strand.putD_held (x : Strand) (r : BitVec 4) (e : Dist) : (x.putD r e).held = x.held := rfl
@[simp] theorem Strand.putD_released (x : Strand) (r : BitVec 4) (e : Dist) : (x.putD r e).released = x.released := rfl
@[simp] theorem Strand.putD_inflight (x : Strand) (r : BitVec 4) (e : Dist) : (x.putD r e).inflight = x.inflight := rfl
@[simp] theorem Strand.putD_seq (x : Strand) (r : BitVec 4) (e : Dist) : (x.putD r e).seq = x.seq := rfl
@[simp] theorem Strand.putD_handles (x : Strand) (r : BitVec 4) (e : Dist) : (x.putD r e).handles = x.handles := rfl
@[simp] theorem Strand.putD_serial (x : Strand) (r : BitVec 4) (e : Dist) : (x.putD r e).serial = x.serial := rfl
@[simp] theorem Strand.putD_depot (x : Strand) (r : BitVec 4) (e : Dist) : (x.putD r e).depot = x.depot := rfl
@[simp] theorem Strand.putD_restored (x : Strand) (r : BitVec 4) (e : Dist) : (x.putD r e).restored = x.restored := rfl

/-! ### putP -/

@[simp] theorem Strand.putP_status (x : Strand) (r : BitVec 3) (w : Word) : (x.putP r w).status = x.status := by
  unfold Strand.putP; split <;> rfl
@[simp] theorem Strand.putP_stage (x : Strand) (r : BitVec 3) (w : Word) : (x.putP r w).stage = x.stage := by
  unfold Strand.putP; split <;> rfl
@[simp] theorem Strand.putP_pc0 (x : Strand) (r : BitVec 3) (w : Word) : (x.putP r w).pc0 = x.pc0 := by
  unfold Strand.putP; split <;> rfl
@[simp] theorem Strand.putP_pc1 (x : Strand) (r : BitVec 3) (w : Word) : (x.putP r w).pc1 = x.pc1 := by
  unfold Strand.putP; split <;> rfl
@[simp] theorem Strand.putP_pc2 (x : Strand) (r : BitVec 3) (w : Word) : (x.putP r w).pc2 = x.pc2 := by
  unfold Strand.putP; split <;> rfl
@[simp] theorem Strand.putP_annul (x : Strand) (r : BitVec 3) (w : Word) : (x.putP r w).annul = x.annul := by
  unfold Strand.putP; split <;> rfl
@[simp] theorem Strand.putP_slots (x : Strand) (r : BitVec 3) (w : Word) : (x.putP r w).slots = x.slots := by
  unfold Strand.putP; split <;> rfl
@[simp] theorem Strand.putP_s (x : Strand) (r : BitVec 3) (w : Word) : (x.putP r w).s = x.s := by
  unfold Strand.putP; split <;> rfl
@[simp] theorem Strand.putP_sres (x : Strand) (r : BitVec 3) (w : Word) : (x.putP r w).sres = x.sres := by
  unfold Strand.putP; split <;> rfl
@[simp] theorem Strand.putP_v (x : Strand) (r : BitVec 3) (w : Word) : (x.putP r w).v = x.v := by
  unfold Strand.putP; split <;> rfl
@[simp] theorem Strand.putP_d (x : Strand) (r : BitVec 3) (w : Word) : (x.putP r w).d = x.d := by
  unfold Strand.putP; split <;> rfl
@[simp] theorem Strand.putP_ctl (x : Strand) (r : BitVec 3) (w : Word) : (x.putP r w).ctl = x.ctl := by
  unfold Strand.putP; split <;> rfl
@[simp] theorem Strand.putP_windows (x : Strand) (r : BitVec 3) (w : Word) : (x.putP r w).windows = x.windows := by
  unfold Strand.putP; split <;> rfl
@[simp] theorem Strand.putP_nextWin (x : Strand) (r : BitVec 3) (w : Word) : (x.putP r w).nextWin = x.nextWin := by
  unfold Strand.putP; split <;> rfl
@[simp] theorem Strand.putP_rep (x : Strand) (r : BitVec 3) (w : Word) : (x.putP r w).rep = x.rep := by
  unfold Strand.putP; split <;> rfl
@[simp] theorem Strand.putP_wait (x : Strand) (r : BitVec 3) (w : Word) : (x.putP r w).wait = x.wait := by
  unfold Strand.putP; split <;> rfl
@[simp] theorem Strand.putP_arrival (x : Strand) (r : BitVec 3) (w : Word) : (x.putP r w).arrival = x.arrival := by
  unfold Strand.putP; split <;> rfl
@[simp] theorem Strand.putP_voted (x : Strand) (r : BitVec 3) (w : Word) : (x.putP r w).voted = x.voted := by
  unfold Strand.putP; split <;> rfl
@[simp] theorem Strand.putP_cause (x : Strand) (r : BitVec 3) (w : Word) : (x.putP r w).cause = x.cause := by
  unfold Strand.putP; split <;> rfl
@[simp] theorem Strand.putP_haltCode (x : Strand) (r : BitVec 3) (w : Word) : (x.putP r w).haltCode = x.haltCode := by
  unfold Strand.putP; split <;> rfl
@[simp] theorem Strand.putP_stepping (x : Strand) (r : BitVec 3) (w : Word) : (x.putP r w).stepping = x.stepping := by
  unfold Strand.putP; split <;> rfl
@[simp] theorem Strand.putP_halting (x : Strand) (r : BitVec 3) (w : Word) : (x.putP r w).halting = x.halting := by
  unfold Strand.putP; split <;> rfl
@[simp] theorem Strand.putP_fifo (x : Strand) (r : BitVec 3) (w : Word) : (x.putP r w).fifo = x.fifo := by
  unfold Strand.putP; split <;> rfl
@[simp] theorem Strand.putP_running (x : Strand) (r : BitVec 3) (w : Word) : (x.putP r w).running = x.running := by
  unfold Strand.putP; split <;> rfl
@[simp] theorem Strand.putP_mailbox (x : Strand) (r : BitVec 3) (w : Word) : (x.putP r w).mailbox = x.mailbox := by
  unfold Strand.putP; split <;> rfl
@[simp] theorem Strand.putP_mailWaiting (x : Strand) (r : BitVec 3) (w : Word) : (x.putP r w).mailWaiting = x.mailWaiting := by
  unfold Strand.putP; split <;> rfl
@[simp] theorem Strand.putP_popped (x : Strand) (r : BitVec 3) (w : Word) : (x.putP r w).popped = x.popped := by
  unfold Strand.putP; split <;> rfl
@[simp] theorem Strand.putP_nextMail (x : Strand) (r : BitVec 3) (w : Word) : (x.putP r w).nextMail = x.nextMail := by
  unfold Strand.putP; split <;> rfl
@[simp] theorem Strand.putP_held (x : Strand) (r : BitVec 3) (w : Word) : (x.putP r w).held = x.held := by
  unfold Strand.putP; split <;> rfl
@[simp] theorem Strand.putP_released (x : Strand) (r : BitVec 3) (w : Word) : (x.putP r w).released = x.released := by
  unfold Strand.putP; split <;> rfl
@[simp] theorem Strand.putP_inflight (x : Strand) (r : BitVec 3) (w : Word) : (x.putP r w).inflight = x.inflight := by
  unfold Strand.putP; split <;> rfl
@[simp] theorem Strand.putP_seq (x : Strand) (r : BitVec 3) (w : Word) : (x.putP r w).seq = x.seq := by
  unfold Strand.putP; split <;> rfl
@[simp] theorem Strand.putP_handles (x : Strand) (r : BitVec 3) (w : Word) : (x.putP r w).handles = x.handles := by
  unfold Strand.putP; split <;> rfl
@[simp] theorem Strand.putP_serial (x : Strand) (r : BitVec 3) (w : Word) : (x.putP r w).serial = x.serial := by
  unfold Strand.putP; split <;> rfl
@[simp] theorem Strand.putP_depot (x : Strand) (r : BitVec 3) (w : Word) : (x.putP r w).depot = x.depot := by
  unfold Strand.putP; split <;> rfl
@[simp] theorem Strand.putP_restored (x : Strand) (r : BitVec 3) (w : Word) : (x.putP r w).restored = x.restored := by
  unfold Strand.putP; split <;> rfl

/-! ### cancel -/

@[simp] theorem Strand.cancel_status (x : Strand) (d : Dest) : (x.cancel d).status = x.status := rfl
@[simp] theorem Strand.cancel_stage (x : Strand) (d : Dest) : (x.cancel d).stage = x.stage := rfl
@[simp] theorem Strand.cancel_pc0 (x : Strand) (d : Dest) : (x.cancel d).pc0 = x.pc0 := rfl
@[simp] theorem Strand.cancel_pc1 (x : Strand) (d : Dest) : (x.cancel d).pc1 = x.pc1 := rfl
@[simp] theorem Strand.cancel_pc2 (x : Strand) (d : Dest) : (x.cancel d).pc2 = x.pc2 := rfl
@[simp] theorem Strand.cancel_annul (x : Strand) (d : Dest) : (x.cancel d).annul = x.annul := rfl
@[simp] theorem Strand.cancel_slots (x : Strand) (d : Dest) : (x.cancel d).slots = x.slots := rfl
@[simp] theorem Strand.cancel_s (x : Strand) (d : Dest) : (x.cancel d).s = x.s := rfl
@[simp] theorem Strand.cancel_sres (x : Strand) (d : Dest) : (x.cancel d).sres = x.sres := rfl
@[simp] theorem Strand.cancel_v (x : Strand) (d : Dest) : (x.cancel d).v = x.v := rfl
@[simp] theorem Strand.cancel_d (x : Strand) (d : Dest) : (x.cancel d).d = x.d := rfl
@[simp] theorem Strand.cancel_p (x : Strand) (d : Dest) : (x.cancel d).p = x.p := rfl
@[simp] theorem Strand.cancel_ctl (x : Strand) (d : Dest) : (x.cancel d).ctl = x.ctl := rfl
@[simp] theorem Strand.cancel_nextWin (x : Strand) (d : Dest) : (x.cancel d).nextWin = x.nextWin := rfl
@[simp] theorem Strand.cancel_rep (x : Strand) (d : Dest) : (x.cancel d).rep = x.rep := rfl
@[simp] theorem Strand.cancel_wait (x : Strand) (d : Dest) : (x.cancel d).wait = x.wait := rfl
@[simp] theorem Strand.cancel_arrival (x : Strand) (d : Dest) : (x.cancel d).arrival = x.arrival := rfl
@[simp] theorem Strand.cancel_voted (x : Strand) (d : Dest) : (x.cancel d).voted = x.voted := rfl
@[simp] theorem Strand.cancel_cause (x : Strand) (d : Dest) : (x.cancel d).cause = x.cause := rfl
@[simp] theorem Strand.cancel_haltCode (x : Strand) (d : Dest) : (x.cancel d).haltCode = x.haltCode := rfl
@[simp] theorem Strand.cancel_stepping (x : Strand) (d : Dest) : (x.cancel d).stepping = x.stepping := rfl
@[simp] theorem Strand.cancel_halting (x : Strand) (d : Dest) : (x.cancel d).halting = x.halting := rfl
@[simp] theorem Strand.cancel_fifo (x : Strand) (d : Dest) : (x.cancel d).fifo = x.fifo := rfl
@[simp] theorem Strand.cancel_running (x : Strand) (d : Dest) : (x.cancel d).running = x.running := rfl
@[simp] theorem Strand.cancel_mailbox (x : Strand) (d : Dest) : (x.cancel d).mailbox = x.mailbox := rfl
@[simp] theorem Strand.cancel_mailWaiting (x : Strand) (d : Dest) : (x.cancel d).mailWaiting = x.mailWaiting := rfl
@[simp] theorem Strand.cancel_popped (x : Strand) (d : Dest) : (x.cancel d).popped = x.popped := rfl
@[simp] theorem Strand.cancel_nextMail (x : Strand) (d : Dest) : (x.cancel d).nextMail = x.nextMail := rfl
@[simp] theorem Strand.cancel_held (x : Strand) (d : Dest) : (x.cancel d).held = x.held := rfl
@[simp] theorem Strand.cancel_released (x : Strand) (d : Dest) : (x.cancel d).released = x.released := rfl
@[simp] theorem Strand.cancel_inflight (x : Strand) (d : Dest) : (x.cancel d).inflight = x.inflight := rfl
@[simp] theorem Strand.cancel_seq (x : Strand) (d : Dest) : (x.cancel d).seq = x.seq := rfl
@[simp] theorem Strand.cancel_handles (x : Strand) (d : Dest) : (x.cancel d).handles = x.handles := rfl
@[simp] theorem Strand.cancel_serial (x : Strand) (d : Dest) : (x.cancel d).serial = x.serial := rfl
@[simp] theorem Strand.cancel_depot (x : Strand) (d : Dest) : (x.cancel d).depot = x.depot := rfl
@[simp] theorem Strand.cancel_restored (x : Strand) (d : Dest) : (x.cancel d).restored = x.restored := rfl

/-! ### addFlags -/

@[simp] theorem Strand.addFlags_status (x : Strand) (f : Flags) : (x.addFlags f).status = x.status := rfl
@[simp] theorem Strand.addFlags_stage (x : Strand) (f : Flags) : (x.addFlags f).stage = x.stage := rfl
@[simp] theorem Strand.addFlags_pc0 (x : Strand) (f : Flags) : (x.addFlags f).pc0 = x.pc0 := rfl
@[simp] theorem Strand.addFlags_pc1 (x : Strand) (f : Flags) : (x.addFlags f).pc1 = x.pc1 := rfl
@[simp] theorem Strand.addFlags_pc2 (x : Strand) (f : Flags) : (x.addFlags f).pc2 = x.pc2 := rfl
@[simp] theorem Strand.addFlags_annul (x : Strand) (f : Flags) : (x.addFlags f).annul = x.annul := rfl
@[simp] theorem Strand.addFlags_slots (x : Strand) (f : Flags) : (x.addFlags f).slots = x.slots := rfl
@[simp] theorem Strand.addFlags_s (x : Strand) (f : Flags) : (x.addFlags f).s = x.s := rfl
@[simp] theorem Strand.addFlags_sres (x : Strand) (f : Flags) : (x.addFlags f).sres = x.sres := rfl
@[simp] theorem Strand.addFlags_v (x : Strand) (f : Flags) : (x.addFlags f).v = x.v := rfl
@[simp] theorem Strand.addFlags_d (x : Strand) (f : Flags) : (x.addFlags f).d = x.d := rfl
@[simp] theorem Strand.addFlags_p (x : Strand) (f : Flags) : (x.addFlags f).p = x.p := rfl
@[simp] theorem Strand.addFlags_windows (x : Strand) (f : Flags) : (x.addFlags f).windows = x.windows := rfl
@[simp] theorem Strand.addFlags_nextWin (x : Strand) (f : Flags) : (x.addFlags f).nextWin = x.nextWin := rfl
@[simp] theorem Strand.addFlags_rep (x : Strand) (f : Flags) : (x.addFlags f).rep = x.rep := rfl
@[simp] theorem Strand.addFlags_wait (x : Strand) (f : Flags) : (x.addFlags f).wait = x.wait := rfl
@[simp] theorem Strand.addFlags_arrival (x : Strand) (f : Flags) : (x.addFlags f).arrival = x.arrival := rfl
@[simp] theorem Strand.addFlags_voted (x : Strand) (f : Flags) : (x.addFlags f).voted = x.voted := rfl
@[simp] theorem Strand.addFlags_cause (x : Strand) (f : Flags) : (x.addFlags f).cause = x.cause := rfl
@[simp] theorem Strand.addFlags_haltCode (x : Strand) (f : Flags) : (x.addFlags f).haltCode = x.haltCode := rfl
@[simp] theorem Strand.addFlags_stepping (x : Strand) (f : Flags) : (x.addFlags f).stepping = x.stepping := rfl
@[simp] theorem Strand.addFlags_halting (x : Strand) (f : Flags) : (x.addFlags f).halting = x.halting := rfl
@[simp] theorem Strand.addFlags_fifo (x : Strand) (f : Flags) : (x.addFlags f).fifo = x.fifo := rfl
@[simp] theorem Strand.addFlags_running (x : Strand) (f : Flags) : (x.addFlags f).running = x.running := rfl
@[simp] theorem Strand.addFlags_mailbox (x : Strand) (f : Flags) : (x.addFlags f).mailbox = x.mailbox := rfl
@[simp] theorem Strand.addFlags_mailWaiting (x : Strand) (f : Flags) : (x.addFlags f).mailWaiting = x.mailWaiting := rfl
@[simp] theorem Strand.addFlags_popped (x : Strand) (f : Flags) : (x.addFlags f).popped = x.popped := rfl
@[simp] theorem Strand.addFlags_nextMail (x : Strand) (f : Flags) : (x.addFlags f).nextMail = x.nextMail := rfl
@[simp] theorem Strand.addFlags_held (x : Strand) (f : Flags) : (x.addFlags f).held = x.held := rfl
@[simp] theorem Strand.addFlags_released (x : Strand) (f : Flags) : (x.addFlags f).released = x.released := rfl
@[simp] theorem Strand.addFlags_inflight (x : Strand) (f : Flags) : (x.addFlags f).inflight = x.inflight := rfl
@[simp] theorem Strand.addFlags_seq (x : Strand) (f : Flags) : (x.addFlags f).seq = x.seq := rfl
@[simp] theorem Strand.addFlags_handles (x : Strand) (f : Flags) : (x.addFlags f).handles = x.handles := rfl
@[simp] theorem Strand.addFlags_serial (x : Strand) (f : Flags) : (x.addFlags f).serial = x.serial := rfl
@[simp] theorem Strand.addFlags_depot (x : Strand) (f : Flags) : (x.addFlags f).depot = x.depot := rfl
@[simp] theorem Strand.addFlags_restored (x : Strand) (f : Flags) : (x.addFlags f).restored = x.restored := rfl

end Sys2Proof.Machine
end

