-- ==== Sys2Proof/Laws/Windows.lean ====
section
/-! SUPPORT. What a window that an instruction opens writes and when, and with it all that the shared load and store of local
memory do. -/

namespace Sys2Proof.Machine

/-! ### Windows -/

/-- A value that fits its register. -/
def Fitting (d : Dest) (v : WinVal) : Prop :=
  match d, v with
  | .s _, .s _ => True
  | .v _, .v _ => True
  | .d _, .d _ => True
  | _, _ => False

theorem land_reads (x : Strand) (d : Dest) (v : WinVal) (h : Fitting d v) : (x.land (d, v)).reads d v := by
  cases d <;> cases v <;> simp only [Fitting] at h
  · rename_i r w
    simp [Strand.land, Strand.reads, Strand.getS_putS, written]
  · rename_i r w
    simp [Strand.land, Strand.reads, Strand.getV_putV]
  · rename_i r w
    simp [Strand.land, Strand.reads, Strand.getD_putD]

/-- A window that ends with the step writes its one register last. -/
theorem tick_lands (x : Strand) (ws : List Window) (w : Window) (d : Dest) (v : WinVal) (hw : x.windows = ws ++ [w])
    (h1 : w.left ≤ 1) (h2 : w.landed = true) (h3 : w.writes = [(d, v)]) (h : Fitting d v) : x.tick.reads d v := by
  have e : ((x.windows.map fun w => { w with left := w.left - 1 }).filter fun w => w.left == 0 && w.landed)
      = ((ws.map fun w => { w with left := w.left - 1 }).filter fun w => w.left == 0 && w.landed)
        ++ [{ w with left := w.left - 1 }] := by
    have : w.left - 1 = 0 := by omega
    rw [hw, List.map_append, List.filter_append]
    simp [this, h2]
  unfold Strand.tick Strand.closeWindows
  simp only [e, List.foldl_append, List.foldl_cons, List.foldl_nil, h3]
  exact land_reads _ _ _ h

/-- The registers written by the window that an instruction opens over the next `la` instructions. -/
theorem retire_window (s : State) (x : Strand) (la : BitVec 4) (d : Dest) (v : WinVal) (read : Option FarRead) (landed : Bool)
    (h : Fitting d v) :
    let t := Machine.retire (s.setMe (x.openWindow la [(d, v)] read landed))
    (la = 0 → landed = true → t.me.reads d v) ∧
    (la ≠ 0 ∨ landed = false → t.me.windowOn la d v read landed) := by
  intro t
  have ht : t.me = (Strand.moved (s.setMe (x.openWindow la [(d, v)] read landed)) s.cur
      (x.openWindow la [(d, v)] read landed) none false false).tick := by
    simp only [t, retire_eq, State.me_setMe]
  obtain ⟨_, _, _, _, _, _, _, hw⟩ := moved_keeps (s.setMe (x.openWindow la [(d, v)] read landed)) s.cur
    (x.openWindow la [(d, v)] read landed) none false false
  have hws : (x.openWindow la [(d, v)] read landed).windows
      = (x.cancel d).windows ++ [⟨x.nextWin, la.toNat + 1, [(d, v)], read, landed⟩] := rfl
  refine ⟨fun h0 hl => ?_, fun hl => ?_⟩
  · rw [ht]
    subst h0
    exact tick_lands _ _ _ d v (hw.trans hws) (by simp) hl rfl h
  · rw [ht]
    obtain ⟨_, _, _, _, _, _, _, tw⟩ := tick_keeps (Strand.moved (s.setMe (x.openWindow la [(d, v)] read landed)) s.cur
      (x.openWindow la [(d, v)] read landed) none false false)
    refine ⟨⟨x.nextWin, la.toNat, [(d, v)], read, landed⟩, ?_, rfl, rfl, rfl, rfl⟩
    rw [tw, hw, hws]
    simp only [List.map_append, List.filter_append, List.mem_append]
    right
    have : (la.toNat == 0 && landed) = false := by
      rcases hl with hl | hl
      · have : la.toNat ≠ 0 := fun e => hl (BitVec.eq_of_toNat_eq (by simpa using e))
        simp [this]
      · simp [hl]
    exact List.mem_filter.mpr ⟨List.mem_map.mpr ⟨_, List.mem_singleton.mpr rfl, rfl⟩, by
      show (!(la.toNat == 0 && landed)) = true
      rw [this]; rfl⟩

/-- A register that an instruction's new window will write keeps its value over the step unless the window ends. -/
theorem endsOn_openWindow (x : Strand) (la : BitVec 4) (d : Dest) (v : WinVal) (read : Option FarRead) (landed : Bool)
    (h : la ≠ 0 ∨ landed = false) : (x.openWindow la [(d, v)] read landed).endsOn d = false := by
  cases he : (x.openWindow la [(d, v)] read landed).endsOn d with
  | false => rfl
  | true =>
    obtain ⟨w, hw, h1, h2, p, hp, hd⟩ := (endsOn_iff _ _).mp he
    simp only [Strand.openWindow, List.mem_append, List.mem_singleton, List.foldl_cons, List.foldl_nil] at hw
    rcases hw with hw | rfl
    · exact absurd rfl ((endsOn_cancel x d d).mp ((endsOn_iff _ _).mpr ⟨w, hw, h1, h2, p, hp, hd⟩)).1
    · rcases h with h | h
      · have : la.toNat ≠ 0 := fun e => h (BitVec.eq_of_toNat_eq (by simpa using e))
        simp at h1; omega
      · simp [h] at h2

/-- The other registers of a strand that opens a window. -/
theorem openWindow_regs (x : Strand) (la : BitVec 4) (ds : List (Dest × WinVal)) (read : Option FarRead) (landed : Bool) :
    (∀ r, (x.openWindow la ds read landed).getS r = x.getS r) ∧ (∀ r, (x.openWindow la ds read landed).getV r = x.getV r) ∧
    (∀ r, (x.openWindow la ds read landed).getD r = x.getD r) := by
  obtain ⟨h, _⟩ := cancels_keep ds x
  exact ⟨fun r => (h.s r (fun q => q)).1, fun r => h.v r (fun q => q), fun r => h.d r (fun q => q)⟩

/-! ### Loads through an LD-format operand -/

/-- A strand after the post-increment of a load and its window, before it steps on. -/
def Strand.loaded (x : Strand) (o : LdOp) (size : Nat) (d : Dest) (v : WinVal) (landed : Bool) (read : Option FarRead) : Strand :=
  (if o.inc then x.writeS o.a (x.getS o.a + BitVec.ofNat 64 size) else x).openWindow o.la [(d, v)] read landed

theorem Wrote.loaded (x : Strand) (o : LdOp) (size : Nat) (d : Dest) (v : WinVal) (landed : Bool) (read : Option FarRead) :
    Wrote x (x.loaded o size d v landed read) (d :: if o.inc then [.s o.a] else []) [] 0 := by
  unfold Strand.loaded
  cases o.inc with
  | false =>
    exact Wrote.openWindow x o.la [(d, v)] read landed
  | true =>
    have := (Wrote.writeS x o.a (x.getS o.a + BitVec.ofNat 64 size)).trans
      (Wrote.openWindow (x.writeS o.a (x.getS o.a + BitVec.ofNat 64 size)) o.la [(d, v)] read landed)
    refine Wrote.mono (fl := 0) (by simpa using this) ?_ ?_ <;> simp

theorem open_postInc (s : State) (o : LdOp) (size : Nat) (d : Dest) (v : WinVal) (landed : Bool) (read : Option FarRead) :
    (s.postInc o.a o.inc size).open_ o.la [(d, v)] read landed = s.setMe (s.me.loaded o size d v landed read) := by
  unfold State.postInc State.open_ Strand.loaded
  cases o.inc <;> simp [State.writeS, State.onMe_eq, State.getS]

/-- What is left of the base after a load that is not its own destination. -/
theorem loaded_base (s : State) (o : LdOp) (size : Nat) (d : Dest) (v : WinVal) (landed : Bool) (read : Option FarRead)
    (hinc : o.inc = true) (hd : d ≠ .s o.a) :
    (Machine.retire (s.setMe (s.me.loaded o size d v landed read))).getS o.a
      = written o.a (s.getS o.a + BitVec.ofNat 64 size) := by
  have hends : (s.me.loaded o size d v landed read).endsOn (.s o.a) = false := by
    cases he : (s.me.loaded o size d v landed read).endsOn (.s o.a) with
    | false => rfl
    | true =>
      unfold Strand.loaded at he
      rw [hinc] at he
      simp only [if_true] at he
      have := (Wrote.openWindow (s.me.writeS o.a (s.me.getS o.a + BitVec.ofNat 64 size)) o.la [(d, v)] read landed).ends
        (.s o.a) (by simpa using fun e => hd e.symm) he
      rw [Strand.writeS, show (s.me.cancel (.s o.a)).putS o.a (s.me.getS o.a + BitVec.ofNat 64 size)
        (residue (s.me.getS o.a + BitVec.ofNat 64 size)) = s.me.writeSRes o.a _ _ from rfl, endsOn_writeSRes] at this
      exact this.symm
  rw [((retire_regs s _).1 o.a hends).1]
  unfold Strand.loaded
  rw [hinc]
  simp only [if_true]
  rw [(openWindow_regs _ _ _ _ _).1, Strand.writeS, Strand.getS_putS, if_pos rfl]
  rfl

/-- All that the shared local load does, for one destination of any kind. -/
theorem loadLocal_spec {i : Instr} {s : State} {o : LdOp} {size : Nat} {dests : List Byte → List (Dest × WinVal)} {d : Dest}
    {v : List Byte → WinVal} (h : exec i s = (Eff.loadLocal s o size dests).out) (hd : ∀ bs, dests bs = [(d, v bs)])
    (hf : ∀ bs, Fitting d (v bs)) (off : Nat)
    (ha : s.checkAddr (s.ea o.a o.off size) (s.me.resOk o.a) onlyLocal size size false = .ok (.loc off))
    (hs : s.stagedAt s.cur.cor s.cur.vt s.me.stage off size = .ready) :
    ∃ t, exec i s = .next t ∧ LoadFrame s t (d :: if o.inc then [.s o.a] else []) (s.unsound off size = false) ∧
      (o.la = 0 → t.me.reads d (v (s.readView off size))) ∧
      (o.la ≠ 0 → t.me.windowOn o.la d (v (s.readView off size)) none true ∧
        (∀ r, d = .s r → ¬(o.inc = true ∧ o.a = r) → t.getS r = s.getS r) ∧ (∀ r, d = .v r → t.getV r = s.getV r) ∧
        (∀ r, d = .d r → t.getD r = s.getD r)) ∧
      (o.inc = true → d ≠ .s o.a → t.getS o.a = written o.a (s.getS o.a + BitVec.ofNat 64 size)) := by
  obtain ⟨n1, n2, n3, n4⟩ := noteRead_mine s off size
  let u := s.noteRead s.cur.cor s.cur.vt s.me.stage off size
  have hme : u.me = s.me := by
    show KMap.getD u.strands u.cur Strand.reset = KMap.getD s.strands s.cur Strand.reset
    rw [n2, n3]
  have hg : ∀ r, u.getS r = s.getS r := fun r => by simp only [State.getS, hme]
  let y := s.me.loaded o size d (v (s.readView off size)) true none
  have hx : exec i s = .next (Machine.retire (u.setMe y)) := by
    rw [h]
    unfold Eff.loadLocal Eff.address
    simp only [ha]
    unfold Eff.readLocal
    simp only [hs, hd]
    rw [open_postInc]
    show Host.Outcome.next (Machine.retire (u.setMe (u.me.loaded o size d (v (s.readView off size)) true none))) = _
    rw [hme]
  refine ⟨_, hx, LoadFrame.retire n1 n2 n3 (fun k => n4 k) (Wrote.loaded _ _ _ _ _ _ _), fun h0 => ?_, fun h0 => ⟨?_, ?_, ?_, ?_⟩,
    fun hi hne => ?_⟩
  · exact (retire_window u _ o.la d _ none true (hf _)).1 h0 rfl
  · exact (retire_window u _ o.la d _ none true (hf _)).2 (.inl h0)
  · rintro r rfl hne
    rw [((retire_regs u y).1 r (endsOn_openWindow _ _ _ _ _ _ (.inl h0))).1]
    show (Strand.openWindow _ _ _ _ _).getS r = _
    rw [(openWindow_regs _ _ _ _ _).1]
    split
    · rename_i hi
      have : r ≠ o.a := fun e => hne ⟨hi, e.symm⟩
      rw [Strand.writeS, Strand.getS_putS, if_neg this]
      rfl
    · rfl
  · rintro r rfl
    rw [(retire_regs u y).2.1 r (endsOn_openWindow _ _ _ _ _ _ (.inl h0))]
    show (Strand.openWindow _ _ _ _ _).getV r = _
    rw [(openWindow_regs _ _ _ _ _).2.1]
    split
    · exact (Wrote.writeS s.me o.a _).v r (by simp)
    · rfl
  · rintro r rfl
    rw [(retire_regs u y).2.2.1 r (endsOn_openWindow _ _ _ _ _ _ (.inl h0))]
    show (Strand.openWindow _ _ _ _ _).getD r = _
    rw [(openWindow_regs _ _ _ _ _).2.2]
    split
    · exact (Wrote.writeS s.me o.a _).d r (by simp)
    · rfl
  · have := loaded_base u o size d (v (s.readView off size)) true none hi hne
    rw [hme, hg] at this
    exact this

end Sys2Proof.Machine
end

