-- ==== Sys2Proof/Laws/Stores.lean ====
section
/-! SUPPORT. All that a local write of the strand executing does: the bytes in every view, and the frame of a store. -/

namespace Sys2Proof.Machine

/-! ### Canonical memories in a state -/

theorem KMap.mem_of_get? {κ α : Type} [DecidableEq κ] {m : KMap κ α} {k : κ} {v : α} (h : KMap.get? m k = some v) :
    (k, v) ∈ m := by
  induction m with
  | nil => simp [KMap.get?] at h
  | cons p r ih =>
    obtain ⟨k', v'⟩ := p
    by_cases e : k' = k
    · subst e
      simp [KMap.get?] at h
      simp [h]
    · simp [KMap.get?, e] at h
      exact List.mem_cons_of_mem _ (ih h)

theorem Tidy.tile_wf {s : State} (h : Tidy s) (p : Nat) : Mem.wf (s.tile p).mem = true := by
  unfold State.tile KMap.getD
  cases e : KMap.get? s.tiles p with
  | none => rfl
  | some t => exact h.1 _ (KMap.mem_of_get? e)

theorem Tidy.tile {s : State} (h : Tidy s) (p : Nat) : From 0 (s.tile p).mem := ((wf_iff _).mp (h.tile_wf p)).1

theorem Tidy.loc {s : State} (h : Tidy s) (c vt st : Nat) : From 0 (s.stageTile c vt st).loc := by
  unfold State.stageTile KMap.getD
  cases e : KMap.get? s.stageTiles (c, vt, st) with
  | none => trivial
  | some t => exact from_of_rising (h.2.2 _ (KMap.mem_of_get? e))

/-- One byte of a view (R46). -/
theorem seen_of {s : State} {c vt st : Nat} (hm : From 0 (s.tile (s.phys c vt)).mem) (hl : From 0 (s.stageTile c vt st).loc)
    (a : Nat) :
    s.seen c vt st a = if c = depotCor then Mem.read (s.tile (s.phys c vt)).mem a
      else (cellAt (s.stageTile c vt st).loc a).getD (Mem.read (s.tile (s.phys c vt)).mem a) := by
  unfold State.seen State.viewBytes
  split
  · simp [Mem.readN_eq _ hm]
  · simp [viewRead_eq _ _ hm hl]

theorem seen_eq {s : State} (h : Tidy s) (c vt st a : Nat) :
    s.seen c vt st a = if c = depotCor then Mem.read (s.tile (s.phys c vt)).mem a
      else (cellAt (s.stageTile c vt st).loc a).getD (Mem.read (s.tile (s.phys c vt)).mem a) :=
  seen_of (h.tile _) (h.loc _ _ _) a

theorem length_readView (s : State) (off n : Nat) : (s.readView off n).length = n := by
  unfold State.readView State.viewBytes viewRead Mem.readN
  split <;> simp

/-! ### The marks of R48 -/

theorem KMap.get?_map {κ α : Type} [DecidableEq κ] (m : KMap κ α) (f : κ → α → α) (k : κ) :
    KMap.get? (m.map fun p => (p.1, f p.1 p.2)) k = (KMap.get? m k).map (f k) := by
  induction m with
  | nil => rfl
  | cons p r ih =>
    obtain ⟨k', v'⟩ := p
    by_cases e : k' = k
    · subst e; simp [KMap.get?]
    · simp [KMap.get?, e, ih]

/-- A strand after `mapStrands` of a function that the property allows. -/
theorem mapStrands_strand (s : State) (f : StrandId → Strand → Strand) (id : StrandId) :
    (s.mapStrands f).strand id = f id (s.strand id) ∨ (s.mapStrands f).strand id = s.strand id := by
  unfold State.mapStrands State.strand KMap.getD
  rw [KMap.get?_map]
  cases KMap.get? s.strands id with
  | none => right; rfl
  | some x => left; rfl

/-- The marks of R48 alone. -/
structure Marked (x y : Strand) : Prop where
  marks : y.untaint = x.untaint
  fifo : y = { x with fifo := y.fifo, running := y.running, pushing := y.pushing }

theorem Marked.refl (x : Strand) : Marked x x := ⟨rfl, rfl⟩

theorem Marked.trans {x y z : Strand} (h : Marked x y) (k : Marked y z) : Marked x z :=
  ⟨k.marks.trans h.marks, by rw [k.fifo, h.fifo]⟩

theorem untaint_reads (vt off n : Nat) :
    (fun k : CopyCmd => { k with tainted := false }) ∘ CopyCmd.reads vt off n = fun k => { k with tainted := false } := by
  funext k
  simp only [Function.comp_apply, CopyCmd.reads]
  split <;> rfl

/-- What marking commands over a written range changes. -/
theorem taint_spec (s : State) (c vt off n : Nat) :
    let t := s.taint c vt off n
    SameBytes s t ∧ t.cur = s.cur ∧ (∀ id, Marked (s.strand id) (t.strand id)) ∧ t.stageTiles = s.stageTiles ∧
      { t with strands := s.strands, tiles := s.tiles } = s := by
  intro t
  have key : ∀ u : State, SameBytes s u → u.cur = s.cur → u.strands = s.strands → u.stageTiles = s.stageTiles →
      { u with strands := s.strands, tiles := s.tiles } = s → ∀ f : StrandId → Strand → Strand, ∀ _hf : (∀ id x, Marked x (f id x)),
      SameBytes s (u.mapStrands f) ∧ (u.mapStrands f).cur = s.cur ∧
        (∀ id, Marked (s.strand id) ((u.mapStrands f).strand id)) ∧ (u.mapStrands f).stageTiles = s.stageTiles ∧
        { u.mapStrands f with strands := s.strands, tiles := s.tiles } = s := by
    intro u hb hc hs hst he f hf
    have hstr : ∀ id, u.strand id = s.strand id := fun id => by simp only [State.strand, hs]
    refine ⟨⟨hb.vtiles, hb.corridors, hb.far, hb.mem, hb.loc⟩, hc, fun id => ?_, hst, he⟩
    rcases mapStrands_strand u f id with e | e
    · rw [e, hstr]; exact hf _ _
    · rw [e, hstr]; exact Marked.refl _
  have hf : ∀ (id : StrandId) (x : Strand), Marked x
      (if id.cor = c ∧ id.vt = vt ∧ !(x.fifo.isEmpty && x.running.isEmpty && x.pushing.isNone) then
        { x with
          fifo := x.fifo.map (CopyCmd.reads vt off n), running := x.running.map (CopyCmd.reads vt off n)
          pushing := x.pushing.map (CopyCmd.reads vt off n) }
      else x) := by
    intro id x
    split
    · refine ⟨?_, rfl⟩
      simp only [Strand.untaint, List.map_map, Option.map_map, untaint_reads]
    · exact Marked.refl _
  simp only [t, State.taint]
  apply key (_hf := hf)
  · split
    · exact SameBytes.setTile _ _ _ rfl
    · exact SameBytes.refl s
  all_goals (split <;> rfl)

/-! ### The write -/

/-- Bytes put into local memory: what every view of every tile then reads. -/
theorem putLocal_seen {s : State} (h : Tidy s) (c0 vt0 st0 off : Nat) (bs : List Byte) :
    let t := s.putLocal c0 vt0 st0 off bs
    (∀ c vt st a, a < off ∨ off + bs.length ≤ a → t.seen c vt st a = s.seen c vt st a) ∧
    (∀ n (hn : n < bs.length), t.seen c0 vt0 st0 (off + n) = bs[n]) ∧
    (c0 ≠ depotCor → ∀ c vt st a, (c, vt, st) ≠ (c0, vt0, st0) → t.seen c vt st a = s.seen c vt st a) ∧
    t.cur = s.cur ∧ t.strands = s.strands ∧ t.far = s.far ∧ t.corridors = s.corridors ∧ t.vtiles = s.vtiles ∧
    (∀ c vt st a, s.phys c vt ≠ s.phys c0 vt0 → t.seen c vt st a = s.seen c vt st a) := by
  have hout : ∀ a, a < off ∨ off + bs.length ≤ a → ¬ a < off → bs[a - off]? = none := fun a h1 h2 =>
    List.getElem?_eq_none (by omega)
  intro t
  by_cases hd : c0 = depotCor
  · have ht : t = s.setTile vt0 { s.tile vt0 with mem := Mem.write (s.tile vt0).mem off bs } := by
      simp only [t, State.putLocal, if_pos hd]
    have hm : ∀ p, From 0 (t.tile p).mem := by
      intro p
      rw [ht, State.tile_setTile]
      split
      · exact ((wf_iff _).mp (Mem.wf_write _ _ _ (h.tile_wf vt0))).1
      · exact h.tile p
    have hl : ∀ c vt st, (t.stageTile c vt st).loc = (s.stageTile c vt st).loc := fun _ _ _ => by rw [ht]; rfl
    have hp : ∀ c vt, t.phys c vt = s.phys c vt := fun _ _ => by rw [ht]; rfl
    have hs : ∀ c vt st a, t.seen c vt st a = if c = depotCor then Mem.read (t.tile (s.phys c vt)).mem a
        else (cellAt (s.stageTile c vt st).loc a).getD (Mem.read (t.tile (s.phys c vt)).mem a) := by
      intro c vt st a
      rw [seen_of (hm _) (by rw [hl]; exact h.loc _ _ _), hl, hp]
    have hr : ∀ p a, Mem.read (t.tile p).mem a = if p = vt0 then
        (if a < off then Mem.read (s.tile p).mem a else (bs[a - off]?).getD (Mem.read (s.tile p).mem a))
        else Mem.read (s.tile p).mem a := by
      intro p a
      rw [ht, State.tile_setTile]
      split
      · rename_i e; subst e; exact Mem.read_write _ _ _ _ (h.tile _)
      · rfl
    have hv : s.phys c0 vt0 = vt0 := by simp [State.phys, hd]
    refine ⟨fun c vt st a ha => ?_, fun n hn => ?_, fun hne => absurd hd hne, by rw [ht]; rfl, by rw [ht]; rfl, by rw [ht]; rfl,
      by rw [ht]; rfl, by rw [ht]; rfl, fun c vt st a hne => ?_⟩
    · have e : Mem.read (t.tile (s.phys c vt)).mem a = Mem.read (s.tile (s.phys c vt)).mem a := by
        rw [hr]
        split
        · split
          · rfl
          · rename_i h2; rw [hout a ha h2]; rfl
        · rfl
      rw [hs, seen_eq h, e]
    · rw [hs, if_pos hd, hr, if_pos hv, if_neg (by omega)]
      simp [hn]
    · have e := hr (s.phys c vt) a
      rw [if_neg (by rw [← hv]; exact hne)] at e
      rw [hs, seen_eq h, e]
  · have ht : t = s.setStageTile c0 vt0 st0 { s.stageTile c0 vt0 st0 with
        loc := Overlay.write (s.stageTile c0 vt0 st0).loc off bs } := by
      simp only [t, State.putLocal, if_neg hd]
    have htile : ∀ p, t.tile p = s.tile p := fun _ => by rw [ht]; rfl
    have hp : ∀ c vt, t.phys c vt = s.phys c vt := fun _ _ => by rw [ht]; rfl
    have hl : ∀ c vt st, (t.stageTile c vt st).loc = if (c, vt, st) = (c0, vt0, st0) then
        Overlay.write (s.stageTile c vt st).loc off bs else (s.stageTile c vt st).loc := by
      intro c vt st
      rw [ht, State.stageTile_setStageTile]
      split
      · rename_i e
        obtain ⟨rfl, rfl, rfl⟩ : c = c0 ∧ vt = vt0 ∧ st = st0 := by simpa using e
        rfl
      · rfl
    have hf : ∀ c vt st, From 0 (t.stageTile c vt st).loc := by
      intro c vt st
      rw [hl]
      split
      · exact (h.loc _ _ _).overlay_write _ _
      · exact h.loc _ _ _
    have hs : ∀ c vt st a, t.seen c vt st a = if c = depotCor then Mem.read (s.tile (s.phys c vt)).mem a
        else (cellAt (t.stageTile c vt st).loc a).getD (Mem.read (s.tile (s.phys c vt)).mem a) := by
      intro c vt st a
      rw [seen_of (by rw [htile]; exact h.tile _) (hf _ _ _), hp, htile]
    refine ⟨fun c vt st a ha => ?_, fun n hn => ?_, fun _ c vt st a hne => ?_, by rw [ht]; rfl, by rw [ht]; rfl, by rw [ht]; rfl,
      by rw [ht]; rfl, by rw [ht]; rfl, fun c vt st a hne => ?_⟩
    · rw [hs, seen_eq h, hl]
      split
      · rfl
      · split
        · rw [cellAt_overlay_write (h.loc _ _ _)]
          split
          · rfl
          · rename_i h2; rw [hout a ha h2]
        · rfl
    · rw [hs, if_neg hd, hl, if_pos rfl, cellAt_overlay_write (h.loc _ _ _), if_neg (by omega)]
      simp [hn]
    · rw [hs, seen_eq h, hl, if_neg hne]
    · have e : (c, vt, st) ≠ (c0, vt0, st0) := fun e => hne (by
        obtain ⟨rfl, rfl, _⟩ : c = c0 ∧ vt = vt0 ∧ st = st0 := by simpa using e
        rfl)
      rw [hs, seen_eq h, hl, if_neg e]

/-- All that a local write of the strand executing does. -/
theorem writeView_spec {s : State} (h : Tidy s) (off : Nat) (bs : List Byte) :
    let t := s.writeView off bs
    (∀ c vt st a, a < off ∨ off + bs.length ≤ a → t.seen c vt st a = s.seen c vt st a) ∧
    (∀ n (hn : n < bs.length), t.seen s.cur.cor s.cur.vt s.me.stage (off + n) = bs[n]) ∧
    (s.isDepot = false → ∀ c vt st a, (c, vt, st) ≠ (s.cur.cor, s.cur.vt, s.me.stage) → t.seen c vt st a = s.seen c vt st a) ∧
    t.cur = s.cur ∧ (∀ id, Marked (s.strand id) (t.strand id)) ∧ t.far = s.far ∧ t.corridors = s.corridors ∧
      t.vtiles = s.vtiles ∧ (∀ c vt st a, s.phys c vt ≠ s.myTile → t.seen c vt st a = s.seen c vt st a) := by
  intro t
  obtain ⟨h1, h2, h3, h4, h5, h6, h7, h8, h9⟩ := putLocal_seen h s.cur.cor s.cur.vt s.me.stage off bs
  obtain ⟨hb, k2, k3, _, _⟩ := taint_spec (s.putLocal s.cur.cor s.cur.vt s.me.stage off bs) s.cur.cor s.cur.vt off
    bs.length
  refine ⟨fun c vt st a ha => ?_, fun n hn => ?_, fun hd c vt st a hne => ?_, k2.trans h4, fun id => ?_, hb.far.trans h6,
    hb.corridors.trans h7, hb.vtiles.trans h8, fun c vt st a hne => (hb.seen _ _ _ _).trans (h9 _ _ _ _ hne)⟩
  · exact (hb.seen _ _ _ _).trans (h1 _ _ _ _ ha)
  · exact (hb.seen _ _ _ _).trans (h2 _ hn)
  · refine (hb.seen _ _ _ _).trans (h3 ?_ _ _ _ _ hne)
    intro e
    simp [State.isDepot, isDepotId, e] at hd
  · have := k3 id
    have e : (s.putLocal s.cur.cor s.cur.vt s.me.stage off bs).strand id = s.strand id := by
      simp only [State.strand, h5]
    rw [e] at this
    exact this

/-! ### The frame of a store -/

/-- Stepping on from a state is stepping on from it with its strand put back. -/
theorem retire_self (u : State) : Machine.retire u = Machine.retire (u.setMe u.me) := by
  rw [retire_eq]
  unfold Machine.retire State.advance
  have e : ∀ f : Strand → Strand, u.onStrand u.cur f = u.setMe (f u.me) := fun _ => rfl
  rw [e]
  unfold State.counted
  rw [State.onStrand_setMe]
  rfl

theorem Marked.kept {x y z : Strand} {ds : List Dest} (h : Marked x y) (k : Strand.Kept y z ds [] 0) :
    Strand.Kept x.untaint z.untaint ds [] 0 := by
  have e := h.fifo
  have hends : ∀ d, x.untaint.endsOn d = y.endsOn d := fun d => by rw [e]; rfl
  refine ⟨fun r hr he => ?_, fun r hr he => ?_, fun r hr he => ?_, fun r hr => ?_, ?_, ?_⟩
  · rw [hends] at he
    have := k.s r hr he
    rw [e] at this
    exact this
  · rw [hends] at he
    have := k.v r hr he
    rw [e] at this
    exact this
  · rw [hends] at he
    have := k.d r hr he
    rw [e] at this
    exact this
  · have := k.p r hr
    rw [e] at this
    exact this
  · have := k.ctl
    rw [e] at this
    exact this
  · have h1 : z.untaint.rest = z.rest.untaint := rfl
    have h2 : y.untaint.rest = y.rest.untaint := rfl
    rw [h1, k.rest, ← h2, h.marks]

/-- What an instruction leaves that has written local bytes, then registers, and steps on. -/
theorem StoreFrame.retire {s u : State} {y : Strand} {ds : List Dest} {off n : Nat}
    (h1 : ∀ c vt st a, a < off ∨ off + n ≤ a → u.seen c vt st a = s.seen c vt st a)
    (h3 : s.isDepot = false → ∀ c vt st a, (c, vt, st) ≠ (s.cur.cor, s.cur.vt, s.me.stage) →
      u.seen c vt st a = s.seen c vt st a)
    (h4 : u.cur = s.cur) (h5 : ∀ id, Marked (s.strand id) (u.strand id)) (h6 : u.far = s.far)
    (h7 : ∀ c vt st a, s.phys c vt ≠ s.myTile → u.seen c vt st a = s.seen c vt st a)
    (hy : Wrote u.me y ds [] 0) :
    StoreFrame s (Machine.retire (u.setMe y)) ds off n ∧
      ∀ c vt st a, (Machine.retire (u.setMe y)).seen c vt st a = u.seen c vt st a := by
  have hme : Marked s.me u.me := by
    have := h5 s.cur
    rw [← h4] at this
    unfold State.me
    rw [h4] at this ⊢
    exact this
  have f : Frame u (Machine.retire (u.setMe y)) ds [] 0 := Frame.retire rfl hy
  have b : SameBytes u (Machine.retire (u.setMe y)) := by rw [retire_eq]; exact SameBytes.setMe _ _
  refine ⟨⟨fun id hid => ?_, ?_, fun hr => ?_, fun c vt st a ha => ?_, fun hd c vt st a hne => ?_,
    fun c vt st a hne => ?_, ?_⟩, b.seen⟩
  · rw [f.only.others id (by rw [h4]; exact hid)]
    exact (h5 id).marks
  · exact hme.kept f.me
  · have e := hme.fifo
    have hr' : u.me.rep = none := by rw [e]; exact hr
    have := f.stepped hr'
    rw [h4] at this
    rw [b.after]
    rw [e] at this
    exact this
  · rw [b.seen]; exact h1 _ _ _ _ ha
  · rw [b.seen]; exact h3 hd _ _ _ _ hne
  · rw [b.seen]; exact h7 _ _ _ _ hne
  · rw [b.far]; exact h6

/-- All that the shared local store does where it completes. -/
theorem storeLocal_spec {i : Instr} {s : State} {o : StOp} {bs : List Byte}
    (h : exec i s = (Eff.storeLocal s o bs.length bs).out) (off : Nat)
    (ha : s.checkAddr (s.ea o.a o.off bs.length) (s.me.resOk o.a) onlyLocal bs.length bs.length true = .ok (.loc off))
    (hs : s.stagedAt s.cur.cor s.cur.vt s.me.stage off bs.length = .ready) (hr : s.localRoom off bs.length = true)
    (ht : Tidy s) :
    ∃ t, exec i s = .next t ∧ StoreFrame s t [] off bs.length ∧
      ∀ n (h : n < bs.length), t.seen s.cur.cor s.cur.vt s.me.stage (off + n) = bs[n] := by
  obtain ⟨h1, h2, h3, h4, h5, h6, _, _, h7⟩ := writeView_spec ht off bs
  obtain ⟨f, g⟩ := StoreFrame.retire (y := (s.writeView off bs).me) h1 h3 h4 h5 h6 h7 (Wrote.refl _)
  refine ⟨_, ?_, f, fun n hn => (g _ _ _ _).trans (h2 n hn)⟩
  rw [h, ← retire_self]
  unfold Eff.storeLocal Eff.address
  simp only [ha]
  unfold Eff.writeLocal
  simp only [hs, hr, if_true]
  rfl

end Sys2Proof.Machine
end

