-- ==== Sys2Proof/Tests/Slice0.lean ====
section
/-! SUPPORT. The package's own tests: ill-formed terms that the check refuses, words written out from the spec's
encodings, a few of the spec's worked examples, and for every statement with hypotheses a state that meets them. -/

namespace Sys2Proof.Tests

open Sys2Proof.Machine

set_option Elab.async false

/-! ### Ill-formed terms -/

/-- The check refuses each term, for the reason given. -/
def refuses (l : List (Instr × IllFormed)) : Bool := l.all fun p => WellFormed.check p.1 == some p.2

/-- A chain decodes to the instruction and ends with it. -/
def reads (l : List (List Half × Instr)) : Bool :=
  l.all fun p => match decode p.1 with | .ok (i, n) => decide (i = p.2) && n == p.1.length | .error _ => false

def o3 : R3 := ⟨1, 2, 3⟩
def x0 : Mod := ⟨false, false, false, false, 0⟩

/-- One term for each check of R139, R140, R145 to R154, R166, R199, R208, R228, R245 and R281. -/
theorem test_ill_formed_refused : refuses [
    (.vadd ⟨1, 2, 3, 0, 16⟩ x0, .elementType), (.vcvt ⟨1, 2, 0, 9, 9⟩ x0, .elementType),
    (.vredAddo ⟨1, 2, 0, 7⟩ x0, .elementType), (.vdot4 ⟨1, 2, 3, 0, 2⟩ x0, .elementType),
    (.vdot2 ⟨1, 2, 3, 0, 1⟩ x0, .elementType), (.vsf ⟨1, 2, 0, 11⟩ 0 x0, .elementType),
    (.vand ⟨1, 2, 3, 0, 8⟩, .elementType), (.vsel ⟨1, 2, 3, 0, 12⟩, .elementType),
    (.fcvt ⟨1, 2, 0, 2, 3⟩ x0, .elementType), (.fcvt ⟨1, 2, 0, 1, 1⟩ x0, .elementType),
    (.addi ⟨1, 2, 2147483648⟩ x0, .immediate), (.shli ⟨1, 2, 64⟩, .immediate), (.shri ⟨1, 2, -1⟩, .immediate),
    (.li ⟨1, 17179869184⟩, .immediate), (.ldD ⟨1, 2, 67108864, 0, false⟩, .immediate),
    (.stB ⟨1, 2, -2147483649⟩, .immediate), (.j 68719476736, .immediate), (.mlease 65, .immediate),
    (.mtry 1 0, .immediate), (.b ⟨0, 0, false, 1073741824⟩, .immediate), (.ldB ⟨4, 4, 0, 0, true⟩, .postIncrement),
    (.ldfD ⟨4, 4, 0, 0, true⟩, .postIncrement), (.b ⟨1, 6, false, 0⟩, .branchForm), (.b ⟨0, 6, true, 0⟩, .branchForm),
    (.fence 0 3, .fenceKind), (.ldaW o3 10, .operation), (.barRed 0 5, .operation), (.amoiD ⟨1, 2, 3⟩ 9, .register),
    (.azero 0, .register), (.ast 1 31, .register), (.mmma ⟨1, 8, 2, 1, 0⟩, .register), (.mmma ⟨1, 2, 31, 1, 0⟩, .register),
    (.cpush 6, .register), (.mbp 3, .register), (.dpt 1 2 0 17, .lineage), (.dld ⟨1, 2, 0, 0, false, 0, 31⟩, .lineage),
    (.suspicionDecay, .event)] = true := by decide +kernel

/-- The words of the same breaches: a decoder that took the neighbouring meaning would run them (R147). -/
theorem test_breaches_rejected :
    (decode [0xFC50, 0x014C]).toOption = none ∧ (decode [0xFC80, 0x0000]).toOption = none ∧
    (decode [0xCEC1]).toOption = none ∧ (decode [0xFD00, 0x1860]).toOption = none := by decide +kernel

/-! ### Decoding -/

/-! ### Words written out from the encodings -/

/-- R137, R138, R143, R162: words of the opcode maps, ADD to LI. -/
theorem test_decode_1 : reads [
    ([0x014C], .add o3 x0), ([0x014D], .sub o3 x0), ([0x014E], .mul o3 x0), ([0x014F], .mulh o3 x0), ([0x094C], .and_ o3),
    ([0x094D], .or_ o3), ([0x094E], .xor_ o3), ([0x094F], .andn o3), ([0x114C], .shl o3), ([0x114D], .shr o3),
    ([0x114E], .sra o3), ([0x114F], .rol o3), ([0x194C], .slt o3), ([0x194D], .sltu o3), ([0x194E], .seq o3),
    ([0x194F], .sne o3), ([0x214C], .min o3 x0), ([0x214D], .max o3 x0), ([0x214E], .minu o3 x0), ([0x214F], .maxu o3 x0),
    ([0x2955], .addi ⟨1, 2, -11⟩ x0), ([0x3155], .andi ⟨1, 2, -11⟩), ([0x3955], .ori ⟨1, 2, -11⟩),
    ([0x4155], .xori ⟨1, 2, -11⟩), ([0x4955], .shli ⟨1, 2, 21⟩), ([0x5155], .shri ⟨1, 2, 21⟩), ([0x5955], .srai ⟨1, 2, 21⟩),
    ([0x61C5], .li ⟨1, -59⟩)] = true := by decide +kernel

/-- R137, R138, R143, R162: words of the opcode maps, LIH to BFX. -/
theorem test_decode_2 : reads [
    ([0x69C5], .lih ⟨1, -59⟩), ([0x714B], .ldB ⟨1, 2, 0, 5, true⟩), ([0x794B], .ldH ⟨1, 2, 0, 5, true⟩),
    ([0x814B], .ldW ⟨1, 2, 0, 5, true⟩), ([0x894B], .ldD ⟨1, 2, 0, 5, true⟩), ([0x914B], .ldBs ⟨1, 2, 0, 5, true⟩),
    ([0x994B], .ldHs ⟨1, 2, 0, 5, true⟩), ([0xA14B], .ldWs ⟨1, 2, 0, 5, true⟩), ([0xA955], .stB ⟨1, 2, 21⟩),
    ([0xB155], .stH ⟨1, 2, 21⟩), ([0xB955], .stW ⟨1, 2, 21⟩), ([0xC155], .stD ⟨1, 2, 21⟩), ([0xCD7D], .b ⟨5, 3, true, -3⟩),
    ([0xD3FB], .j (-5)), ([0xD7FB], .call (-5)), ([0xD880], .jr 4), ([0xD881], .callr 4), ([0xD802], .ret),
    ([0xE57A], .rep ⟨5, 3, 6, 2⟩), ([0xFC20, 0x014C], .div o3), ([0xFC20, 0x014D], .divu o3), ([0xFC20, 0x014E], .rem o3),
    ([0xFC20, 0x014F], .remu o3), ([0xFC20, 0x0940], .clz ⟨1, 2⟩), ([0xFC20, 0x0941], .ctz ⟨1, 2⟩),
    ([0xFC20, 0x0942], .pop ⟨1, 2⟩), ([0xFC20, 0x0943], .brev ⟨1, 2⟩), ([0xFC33, 0x114C], .bfx o3 19)] = true := by decide +kernel

/-- R137, R138, R143, R162: words of the opcode maps, BFXS to FLT_F32. -/
theorem test_decode_3 : reads [
    ([0xFC33, 0x114D], .bfxs o3 19), ([0xFC33, 0x114E], .bfi o3 19), ([0xFC33, 0x194C], .sel o3 19),
    ([0xFC33, 0x194D], .selz o3 19), ([0xFC20, 0x214C], .faddF32 o3 x0), ([0xFC20, 0x214D], .fsubF32 o3 x0),
    ([0xFC20, 0x214E], .fmulF32 o3 x0), ([0xFC20, 0x214F], .fdivF32 o3 x0), ([0xFC20, 0x294C], .faddF64 o3 x0),
    ([0xFC20, 0x294D], .fsubF64 o3 x0), ([0xFC20, 0x294E], .fmulF64 o3 x0), ([0xFC20, 0x294F], .fdivF64 o3 x0),
    ([0xFC33, 0x314C], .fmaF32 o3 19 x0), ([0xFC33, 0x314D], .fmsF32 o3 19 x0), ([0xFC33, 0x314E], .fnmaF32 o3 19 x0),
    ([0xFC33, 0x314F], .fnmsF32 o3 19 x0), ([0xFC33, 0x394C], .fmaF64 o3 19 x0), ([0xFC33, 0x394D], .fmsF64 o3 19 x0),
    ([0xFC33, 0x394E], .fnmaF64 o3 19 x0), ([0xFC33, 0x394F], .fnmsF64 o3 19 x0), ([0xFC20, 0x414C], .fminF32 o3 x0),
    ([0xFC20, 0x414D], .fmaxF32 o3 x0), ([0xFC20, 0x414E], .fminF64 o3 x0), ([0xFC20, 0x414F], .fmaxF64 o3 x0),
    ([0xFC20, 0x4940], .fsqrtF32 ⟨1, 2⟩ x0), ([0xFC20, 0x4941], .fsqrtF64 ⟨1, 2⟩ x0), ([0xFC20, 0x514C], .feqF32 o3),
    ([0xFC20, 0x514D], .fltF32 o3)] = true := by decide +kernel

/-- R137, R138, R143, R162: words of the opcode maps, FLE_F32 to VSRA. -/
theorem test_decode_4 : reads [
    ([0xFC20, 0x514E], .fleF32 o3), ([0xFC20, 0x514F], .funoF32 o3), ([0xFC20, 0x594C], .feqF64 o3),
    ([0xFC20, 0x594D], .fltF64 o3), ([0xFC20, 0x594E], .fleF64 o3), ([0xFC20, 0x594F], .funoF64 o3),
    ([0xFC32, 0x6143], .fcvt ⟨1, 2, 3, 2, 1⟩ x0), ([0xFC25, 0x694C], .ldaW o3 5), ([0xFC25, 0x694D], .ldaD o3 5),
    ([0xFC41, 0x014C], .vadd ⟨1, 2, 3, 0, 1⟩ x0), ([0xFC41, 0x014D], .vsub ⟨1, 2, 3, 0, 1⟩ x0),
    ([0xFC41, 0x014E], .vmul ⟨1, 2, 3, 0, 1⟩ x0), ([0xFC41, 0x014F], .vmulh ⟨1, 2, 3, 0, 1⟩ x0),
    ([0xFC41, 0x094C], .vfma ⟨1, 2, 3, 0, 1⟩ x0), ([0xFC41, 0x094D], .vfms ⟨1, 2, 3, 0, 1⟩ x0),
    ([0xFC41, 0x094E], .vfnma ⟨1, 2, 3, 0, 1⟩ x0), ([0xFC41, 0x094F], .vfnms ⟨1, 2, 3, 0, 1⟩ x0),
    ([0xFC41, 0x114C], .vmin ⟨1, 2, 3, 0, 1⟩ x0), ([0xFC41, 0x114D], .vmax ⟨1, 2, 3, 0, 1⟩ x0),
    ([0xFC41, 0x114E], .vabd ⟨1, 2, 3, 0, 1⟩ x0), ([0xFC41, 0x114F], .vavg ⟨1, 2, 3, 0, 1⟩ x0),
    ([0xFC41, 0x194C], .vand ⟨1, 2, 3, 0, 1⟩), ([0xFC41, 0x194D], .vor ⟨1, 2, 3, 0, 1⟩),
    ([0xFC41, 0x194E], .vxor ⟨1, 2, 3, 0, 1⟩), ([0xFC41, 0x194F], .vandn ⟨1, 2, 3, 0, 1⟩),
    ([0xFC41, 0x214C], .vshl ⟨1, 2, 3, 0, 1⟩), ([0xFC41, 0x214D], .vshr ⟨1, 2, 3, 0, 1⟩),
    ([0xFC41, 0x214E], .vsra ⟨1, 2, 3, 0, 1⟩)] = true := by decide +kernel

/-- R137, R138, R143, R162: words of the opcode maps, VROL to VRNG. -/
theorem test_decode_5 : reads [
    ([0xFC41, 0x214F], .vrol ⟨1, 2, 3, 0, 1⟩), ([0xFC41, 0x294C], .vcmpEq ⟨1, 2, 3, 0, 1⟩),
    ([0xFC41, 0x294D], .vcmpLt ⟨1, 2, 3, 0, 1⟩), ([0xFC41, 0x294E], .vcmpLe ⟨1, 2, 3, 0, 1⟩),
    ([0xFC41, 0x294F], .vcmpNe ⟨1, 2, 3, 0, 1⟩), ([0xFC41, 0x314C], .vsel ⟨1, 2, 3, 0, 1⟩),
    ([0xFC49, 0x3954], .vcvt ⟨1, 2, 0, 20, 9⟩ x0), ([0xFC4A, 0x4140], .vredAdd ⟨1, 2, 0, 10⟩ x0),
    ([0xFC4A, 0x4141], .vredMin ⟨1, 2, 0, 10⟩ x0), ([0xFC4A, 0x4142], .vredMax ⟨1, 2, 0, 10⟩ x0),
    ([0xFC4A, 0x4143], .vredAddo ⟨1, 2, 0, 10⟩ x0), ([0xFC41, 0x494C], .vdot4 ⟨1, 2, 3, 0, 1⟩ x0),
    ([0xFC49, 0x494D], .vdot2 ⟨1, 2, 3, 0, 9⟩ x0), ([0xFC60, 0x014B], .vld ⟨1, 2, 0, 5, true⟩ 0),
    ([0xFC60, 0x0955], .vst ⟨1, 2, 21⟩ 0), ([0xFC61, 0x114C], .vgat ⟨1, 2, 3, 0, 1⟩),
    ([0xFC61, 0x194C], .vsct ⟨1, 2, 3, 0, 1⟩), ([0xFC6A, 0x2140], .vbc ⟨1, 2, 0, 10⟩),
    ([0xFC61, 0x214D], .vins ⟨1, 2, 3, 0, 1⟩), ([0xFC61, 0x214E], .vext o3 1), ([0xFC61, 0x214F], .vidx ⟨1, 2, 3, 0, 1⟩),
    ([0xFC61, 0x294C], .vperm ⟨1, 2, 3, 0, 1⟩), ([0xFC61, 0x294D], .vzip ⟨1, 2, 3, 0, 1⟩),
    ([0xFC61, 0x294E], .vuzp ⟨1, 2, 3, 0, 1⟩), ([0xFC61, 0x294F], .vrot ⟨1, 2, 3, 0, 1⟩),
    ([0xFC6A, 0x3154], .vsf ⟨1, 2, 0, 10⟩ 5 x0), ([0xFC6A, 0x3155], .vsfFast ⟨1, 2, 0, 10⟩ 5 x0),
    ([0xFC60, 0x394C], .vrng o3 0)] = true := by decide +kernel

/-- R137, R138, R143, R162: words of the opcode maps, VRNG_F to DMOM. -/
theorem test_decode_6 : reads [
    ([0xFC60, 0x394D], .vrngF o3 0), ([0xFC73, 0x4140], .gaddr ⟨1, 2⟩ 19), ([0xFC73, 0x4141], .gowner ⟨1, 2⟩ 19),
    ([0xFC80, 0x0009], .mlease 9), ([0xFC80, 0x0909], .mtry 1 9), ([0xFC80, 0x1000], .mrel),
    ([0xFC93, 0x194D], .mmma ⟨1, 2, 3, 1, 19⟩), ([0xFC80, 0x2140], .ast 1 2), ([0xFC80, 0x2141], .astAdd 1 2),
    ([0xFC80, 0x2940], .ald 1 2), ([0xFC80, 0x3200], .azero 2), ([0xFC80, 0x3201], .arel 2), ([0xFC80, 0x3805], .mwait 5),
    ([0xFCA9, 0x014B], .dld ⟨1, 2, 0, 5, true, 0, 9⟩), ([0xFCA0, 0x0955], .dst ⟨1, 2, 21, 0⟩),
    ([0xFCA9, 0x1140], .dpt 1 2 0 9), ([0xFCA9, 0x1141], .dpte 1 2 0 9), ([0xFCA9, 0x114E], .dpm 1 2 3 0 9),
    ([0xFCA0, 0x194C], .dadd ⟨1, 2, 3, 0⟩), ([0xFCA0, 0x194D], .dsub ⟨1, 2, 3, 0⟩), ([0xFCA0, 0x194E], .dmul ⟨1, 2, 3, 0⟩),
    ([0xFCA0, 0x194F], .ddiv ⟨1, 2, 3, 0⟩), ([0xFCA0, 0x214C], .dmin ⟨1, 2, 3, 0⟩), ([0xFCA0, 0x214D], .dmax ⟨1, 2, 3, 0⟩),
    ([0xFCA0, 0x214E], .dmix ⟨1, 2, 3, 0⟩), ([0xFCA0, 0x294C], .dscl 1 2 3 0), ([0xFCA0, 0x294D], .dsht 1 2 3 0),
    ([0xFCA0, 0x3142], .dmom 1 2 2 0)] = true := by decide +kernel

/-- R137, R138, R143, R162: words of the opcode maps, DQNT to MBW. -/
theorem test_decode_7 : reads [
    ([0xFCA0, 0x394C], .dqnt 1 2 3 0), ([0xFCA0, 0x394D], .dcdf 1 2 3 0), ([0xFCA0, 0x4140], .dtgr 1 2),
    ([0xFCA9, 0x4141], .dtgw 1 2 0 9), ([0xFCA0, 0x4142], .dmov 1 2 0), ([0xFCC0, 0x0080], .qcfg 4),
    ([0xFCC0, 0x0081], .qres 4), ([0xFCC0, 0x0D40], .qstg 5 2), ([0xFCC0, 0x1142], .qtm 1 2 2),
    ([0xFCC0, 0x1D52], .qfin 5 2 9), ([0xFCC0, 0x214C], .qdec 1 2 3), ([0xFCC0, 0x284C], .qst 2 3),
    ([0xFCC0, 0x314C], .qset o3), ([0xFCE0, 0x014B], .ldfW ⟨1, 2, 0, 5, true⟩),
    ([0xFCE0, 0x094B], .ldfD ⟨1, 2, 0, 5, true⟩), ([0xFCE0, 0x114B], .vldf ⟨1, 2, 0, 5, true⟩),
    ([0xFCE0, 0x1955], .stfW ⟨1, 2, 21⟩), ([0xFCE0, 0x2155], .stfD ⟨1, 2, 21⟩), ([0xFCE0, 0x2955], .vstf ⟨1, 2, 21⟩),
    ([0xFCE0, 0x304C], .accF32 2 3), ([0xFCE0, 0x304D], .accF64 2 3), ([0xFCE0, 0x304E], .accI64 2 3),
    ([0xFCE0, 0x304F], .accV16 2 3), ([0xFCE5, 0x394C], .amoiW o3 5), ([0xFCE5, 0x394D], .amoiD o3 5),
    ([0xFCE0, 0x4080], .cpush 4), ([0xFCE0, 0x4181], .cpushTry 1 4), ([0xFCE0, 0x4A00], .mbw 2)] = true := by decide +kernel

/-- R137, R138, R143, R162: words of the opcode maps, MBW_TO to IPOST. -/
theorem test_decode_8 : reads [
    ([0xFCE0, 0x490D], .mbwTo 1 3), ([0xFCE0, 0x5200], .mbp 2), ([0xFCE0, 0x5201], .mbpTry 2),
    ([0xFCF3, 0x594C], .pfl o3 19), ([0xFCE0, 0x5801], .pflClr), ([0xFCF3, 0x594E], .pflN o3 19),
    ([0xFCE0, 0x614C], .xall o3), ([0xFD00, 0x0000], .bar), ([0xFD03, 0x00A1], .barRed 5 3), ([0xFD00, 0x0002], .barEnd),
    ([0xFD03, 0x00A3], .barEndr 5 3), ([0xFD00, 0x0800], .vote), ([0xFD00, 0x104C], .bwait 2 3),
    ([0xFD00, 0x1855], .fence 21 2), ([0xFD09, 0x2114], .csrr 1 77), ([0xFD09, 0x2155], .csrw 1 2 77),
    ([0xFD09, 0x2156], .csrs 1 2 77), ([0xFD09, 0x2157], .csrc 1 2 77), ([0xFD00, 0x2DA3], .trap 0x5A3),
    ([0xFD00, 0x35A3], .ebrk 0x5A3), ([0xFD00, 0x3800], .yld), ([0xFD00, 0x404C], .tlbi 2 3), ([0xFD00, 0x4800], .rfe),
    ([0xFD00, 0x5000], .wfe), ([0xFD00, 0x584C], .ipost 2 3)] = true := by decide +kernel

/-- The encodings worked out in chapters 07 to 14, with their prefixes. -/
theorem test_decode_worked : reads [
    ([0xFC60, 0xF900, 0xFA02, 0x0165], .vld ⟨17, 3, 2, 2, true⟩ 0), ([0xFC4A, 0xF811, 0x2B91], .vcmpLt ⟨3, 4, 20, 1, 10⟩),
    ([0xFC53, 0xF820, 0x3B2A], .vcvt ⟨3, 9, 0, 10, 19⟩ x0), ([0xFC6A, 0x3150], .vsf ⟨1, 2, 0, 10⟩ 4 x0),
    ([0xFCE0, 0xF820, 0x2785], .stfD ⟨7, 12, 5⟩), ([0xFCE0, 0xF828, 0x3B05], .amoiD ⟨3, 8, 9⟩ 0),
    ([0xFA26, 0xFB5E, 0xFADE, 0x65F0], .li ⟨5, 0x9ABCDEF0⟩), ([0xFA04, 0xFB1A, 0xFA56, 0x6D78], .lih ⟨5, 0x12345678⟩),
    ([0xFC32, 0x6381], .fcvt ⟨3, 4, 1, 2, 1⟩ x0), ([0xF880, 0xFBFF, 0xCC37], .b ⟨12, 1, true, -9⟩),
    ([0xF880, 0xC806], .b ⟨8, 0, false, 6⟩), ([0xFC83, 0xF8A0, 0x198A], .mmma ⟨9, 12, 2, 2, 3⟩),
    ([0xFC80, 0xF8A0, 0x21C0], .ast 9 14), ([0xFC80, 0xF880, 0x3101], .arel 9), ([0xFC80, 0x3809], .mwait 9),
    ([0xFCA0, 0xF804, 0x1B2A], .dmul ⟨3, 1, 2, 4⟩), ([0xFCA2, 0xF880, 0x1141], .dpte 9 2 0 2),
    ([0xFCB0, 0xF8C0, 0xFA02, 0x0482], .dld ⟨12, 20, 2, 1, false, 0, 16⟩), ([0xFCA0, 0x3540], .dmom 5 2 0 0),
    ([0xFCC0, 0x09C0], .qstg 1 6), ([0xFCC0, 0x1AC0], .qfin 2 6 0), ([0xFCC0, 0x2758], .qdec 7 2 6),
    ([0xFCC0, 0x3394], .qset ⟨3, 4, 5⟩), ([0xFCC0, 0xF8A0, 0x1422], .qtm 12 9 2), ([0xFD00, 0x0000], .bar),
    ([0xFD00, 0x0041], .barRed 2 0), ([0xFD03, 0x0023], .barEndr 1 3), ([0xFD00, 0x1070], .bwait 3 4),
    ([0xFD00, 0x1829], .fence 9 1), ([0xFD01, 0x2400], .csrr 4 8), ([0xFD01, 0x20A5], .csrw 0 5 9),
    ([0xFD00, 0x3005], .ebrk 5), ([0xFC4A, 0xF882, 0xFE80, 0x0CB8], .vfma ⟨12, 5, 6, 2, 10⟩ ⟨false, true, false, false, 0⟩),
    ([0xF8C0, 0xFBFD, 0x8986], .ldD ⟨9, 20, -3, 3, false⟩)] = true := by decide +kernel

/-! ### Small states -/

/-- One strand of a corridor with one tile and one stage, its grant from 0, its code window of 64 KiB at 0. -/
def base : State := { State.reset.launchedOne with cur := ⟨1, 0, 0⟩ }

/-- A strand of the depot. -/
def dep : State :=
  { (State.reset.setStrand ⟨depotCor, 0, 0⟩ { Strand.reset with status := .running }) with cur := ⟨depotCor, 0, 0⟩ }

/-- `base` with scalar registers set. -/
def regs (l : List (Reg × Word)) : State := l.foldl (fun s p => s.writeS p.1 p.2) base

/-- A scalar register whose residue does not match it. -/
def spoilt (s : State) (r : Reg) : State := s.onMe fun x => x.putS r (x.getS r) (residue (x.getS r) + 1)

/-- The state after an instruction. -/
def after (i : Instr) (s : State) : State := match exec i s with | .next t => t | _ => s

/-- One staged unit at offset 0x10000 in the given state. -/
def unit (st : UnitState) : FetchUnit := ⟨0, 0, 0x4000, 0x10000, true, true, false, 0x4000, st, [], false, 0, false⟩

/-- `base` with that unit staged. -/
def staged (st : UnitState) : State := base.setMine { base.mine with staged := [unit st] }

/-- A translation of the page at 0x4000 of PASID 0 to frame 5, of the given class. -/
def page (cls : BitVec 2) : TlbEntry := ⟨0, none, 0x4000, 4096, 0x5000, true, true, true, cls, 0, true, true, true⟩

/-- A state with that translation in the tile's TLB. -/
def paged (s : State) (cls : BitVec 2) : State := s.setTile s.myTile { s.tile s.myTile with tlb := [page cls] }

/-- A SEND of n bytes that waits in the FIFO, its lines reserved (R83). -/
def sending (n : Word) : CopyCmd := ⟨3, 0, 0, n, [], false, 0, [], false, false, 0, 0, [], [], 0⟩

/-- A state whose verge buffer is full with such a reservation. -/
def full (s : State) : State := s.onMe fun x => { x with fifo := [sending 0x80000] }

/-- `base` with a second vtile on tile 1, in the same plane or, on another package, in the next. -/
def duo (away : Bool) : State :=
  let k := base.cor 1
  let im : Image := { k.image with x := if away then 1 else 2, z := if away then 2 else 1 }
  (base.setCor 1 { k with image := im }).setVtile 1 1 { VTile.reset with phys := 1 }

/-- A state with an aperture of PASID 0 over the page 0x4000, whose probe package 9 has answered for the given kind of
access, or has not. -/
def apertured (s : State) (answer : Option (XKind × BitVec 2)) : State :=
  let ps := match answer with | some (k, cls) => [((0, 4 * 8 + k.code), (0x7000, cls, 0))] | none => []
  { s with host := { s.host with apertures := [((0, 0), ⟨0x4000, 4096, 9, 3, 0⟩)] }, fabric := { s.fabric with probes := ps } }

/-- A matrix command of the strand of `base` on slot 0. -/
def cmd (op : Nat) : MCmd :=
  ⟨op, ⟨1, 0, 0⟩, 0, 0, 0, 0, 0, none, none, 16, [], tileTrap 0 0 0 false false, false, Ctl.reset, [], 0, [], []⟩

/-- `base` with the lease, s5 holding NONE, and its tile's record changed. -/
def leased (f : Tile → Tile) : State :=
  let s := regs [(5, BitVec.allOnes 64)]
  s.setTile 0 (f { s.tile 0 with lease := some (s.cur, 3) })

/-- `leased` with the handle 7 of slot 0 in s6. -/
def handled (f : Tile → Tile) : State :=
  ((leased fun t => f { t with acc := [(0, ⟨⟨1, 0, 0⟩, []⟩)] }).onMe fun x => { x with handles := [(7, 0)] }).writeS 6 7

/-- A configuration block: two stages, two samples of one FP32 element, order 1, error mode 1, absolute tolerance 1, least
step 2^-11. -/
def block : List Byte :=
  let at_ (n : Nat) : Nat := ((([(0, 0x0A010102), (1, 2), (2, 1), (4, 1), (6, 0x10000), (7, 0x100), (8, 0x11000), (9, 0x100),
    (10, 0x12000), (11, 0x100), (12, 0x1000), (13, 0x14000), (14, 0x100), (16, 0x3F800000), (23, 0x3A000000), (33, 0x3F800000),
    (40, 0x3F800000), (72, 0x3F800000)] : List (Nat × Nat)).find? fun p => p.1 == n).map Prod.snd).getD 0
  (List.range 128).flatMap fun n => leBytes 4 (at_ n)

/-- `base` with the block at 0x20000, s2 pointing to it, and the context configured or not. -/
def solver (ready : Bool) (x : SeqSlot) : State :=
  let s := (base.setTile 0 { base.tile 0 with mem := Mem.write [] 0x20000 block }).writeS 2 0x20000
  if ready then s.setSeq ⟨some 0, true, block, (Vector.replicate 32 SeqSlot.reset).set 1 x⟩ else s

/-- `base` with its strand, its stage, or what its tile holds for the stage, changed. -/
def me (f : Strand → Strand) : State := base.onMe f
def stg (f : Stage → Stage) : State := base.setStage 1 0 (f (base.stage 1 0))
def held (f : StageTile → StageTile) : State := base.setMine (f base.mine)

/-- A cause that the strand of `base` might have recorded. -/
def cause (c : BitVec 8) : TrapInfo := base.trapInfo ⟨1, 0, 0⟩ c 0 false false

/-- The status of the strand of `base` after an instruction. -/
def ends (i : Instr) (s : State) : Status := (after i s).me.status

/-- `base` with the first GiB of PASID 0 mapped onto that of physical memory, in immediate pages that all may write, with
tables at 1 MiB (R37). -/
def mapped : State :=
  { base with
    depot := { base.depot with roots := [(0, 0x100000)] }
    far := { base.far with mem := Mem.store (Mem.store [] 0x101000 8 0x17B) 0x100000 8 0x101039 } }

/-- A launch record of corridor 2 with its image at 2 MiB (R308), and the image of one strand (R311). -/
def record : List Word :=
  [0x0000000200000101, 0, 0x1000001F00, 0x200000, 0x300000, 0, 0x301000, 0, 0, 0, 0, 0, 0, 0x4000] ++ List.replicate 18 0
def imageBytes : List Byte :=
  leBytes 4 0x5A440001 ++ [1, 1, 1, 0, 0, 1, 1, 1] ++ leBytes 4 0x80000000 ++ List.replicate 12 0 ++ leBytes 4 4 ++ List.replicate 36 0

/-- `mapped` with a record taken from queue 7. -/
def taken (ws : List Word) : State :=
  { mapped with
    host := { mapped.host with taken := [⟨7, ws, 0, none, 3, 0, 0⟩] }
    far := { mapped.far with mem := Mem.write mapped.far.mem 0x200000 imageBytes } }

/-- `base` with its corridor changed. -/
def cor (f : Corridor → Corridor) : State := base.setCor 1 (f (base.cor 1))

/-! ### Worked examples of the spec -/

/-- R187: 2^32 times 2^32 with and without sat. -/
theorem test_mul_sat :
    let s := regs [(5, 0x100000000), (6, 0x100000000)]
    (after (.mul ⟨4, 5, 6⟩ { x0 with sat := true }) s).getS 4 = 0x7FFFFFFFFFFFFFFF ∧
    (after (.mul ⟨4, 5, 6⟩ { x0 with sat := true }) s).me.ctl.flg = 32 ∧
    (after (.mul ⟨4, 5, 6⟩ x0) s).getS 4 = 0 ∧ (after (.mul ⟨4, 5, 6⟩ x0) s).me.ctl.flg = 0 := by decide +kernel

/-- R215: the pairwise tree and the sequential sum differ, and the direction of rounding shows. -/
theorem test_vred_order :
    let l : Line := (List.range 15).foldl (fun a i => a ||| ((0x3F800000 : Line) <<< (32 * (i + 1)))) 0x4B800000
    let s := base.writeV 2 l
    let up := s.onMe fun x => { x with ctl := { x.ctl with vfc := 3 } }
    (after (.vredAdd ⟨4, 2, 0, 10⟩ x0) s).getV 4 = 0x4B800007 ∧ (after (.vredAdd ⟨4, 2, 0, 10⟩ x0) s).me.ctl.flg = 16 ∧
    (after (.vredAddo ⟨3, 2, 0, 10⟩ x0) s).getV 3 = 0x4B800000 ∧
    (after (.vredAdd ⟨4, 2, 0, 10⟩ x0) up).getV 4 = 0x4B800008 := by decide +kernel

/-- The worked conversions of chapter 6, from FP32 and to FP32. -/
theorem test_conversions :
    let c (v : Word) (src dst : BitVec 5) (sat : Bool) (w : Line) : Nat × Word :=
      let t := after (.vcvt ⟨1, 2, 0, src, dst⟩ { x0 with sat }) ((base.writeV 2 w).onMe fun x => { x with ctl := { x.ctl with vfc := v } })
      (lane (t.getV 1) (laneWidth dst) 0, t.me.ctl.flg)
    (c 0 10 19 false 0x3E99999A).1 = 0x32 ∧ (c 0 10 8 false 0x3F800001).1 = 0x3F80 ∧ (c 3 10 8 false 0x3F800001).1 = 0x3F81 ∧
    (c 0 19 10 false 1).1 = 0x3A800000 ∧ (c 8 19 10 false 1).1 = 0 := by decide +kernel

/-- R225: table 3 at the coordinates (13, 57). -/
theorem test_gaddr_gowner :
    let s := (cor fun k => { k with image := { k.image with
      dtabs := [(3, [0x0000020000220008, 0x0020000200040040, 0x00280003000A0064])] } }).writeS 5 0x39000D
    (after (.gaddr ⟨6, 5⟩ 3) s).getS 6 = 0x4000000001A20364 ∧ (after (.gowner ⟨7, 5⟩ 3) s).getS 7 = 13 := by decide +kernel

/-- Chapter 7: branch A at 0x100 to 0x200, branch B in its first slot to 0x300. -/
theorem test_branch_in_slot :
    let at_ (s : State) : Word × Word × Word := (s.me.pc0, s.me.pc1, s.me.pc2)
    let s := (regs [(7, 1)]).onMe fun x => { x with pc0 := 0x100, pc1 := 0x102, pc2 := 0x104 }
    let a := after (.b ⟨7, 1, false, 128⟩) s
    at_ a = (0x102, 0x104, 0x200) ∧ at_ (after (.b ⟨7, 1, false, 255⟩) a) = (0x104, 0x200, 0x300) := by decide +kernel

/-- R133 and R134: conversions into an accumulation cell and into a barrier lane. -/
theorem test_fixed_point :
    toQ6464 (f32 0xBFC00000) = (0xFFFFFFFFFFFFFFFE8000000000000000, 0) ∧ (toQ6464 (f64 0x3BE0000000000000)).1 = 0 ∧
    (toQ6464 (f64 0x3BE8000000000000)).1 = 1 ∧ toQ6464 (f32 0x62800000) = (0x7FFFFFFFFFFFFFFFFFFFFFFFFFFFFFFF, 48) ∧
    toQ3232 (f64 0x3FF8000000000000) = (0x180000000, 0) := by decide +kernel

/-- R287: lane 0 leaves the signed range, lane 1 does not. -/
theorem test_reduction :
    let l : List Partial := [2, 1, 3].map fun n => ⟨0, 0, 0, [2 ^ 62, n], tileTrap 0 0 0 false false⟩
    (reduceAll l).map Partial.words = some [0xC000000000000000, 6] := by decide +kernel

/-- Chapter 11: the handles of four allocations by strand 2. -/
theorem test_handles :
    let s := { (base.setStrand ⟨1, 0, 2⟩ base.me) with cur := ⟨1, 0, 2⟩ }
    let s := s.setTile 0 { s.tile 0 with lease := some (s.cur, 5) }
    let s := [3, 4, 5, 6].foldl (fun t (r : Reg) => after (.azero r) (t.writeS r (BitVec.allOnes 64))) s
    (s.getS 3, s.getS 4, s.getS 5, s.getS 6) = (0x200, 0x201, 0x202, 0x203) := by decide +kernel

/-- Chapter 12: element 0 of d1 + d2, and the merges of R252. -/
theorem test_dadd :
    let e (a b c d : BitVec 32) (w : List (BitVec 16)) : DElem :=
      DElem.ofList [⟨a, w.getD 0 0⟩, ⟨b, w.getD 1 0⟩, ⟨c, w.getD 2 0⟩, ⟨d, w.getD 3 0⟩]
    let x : DElem := e 0 0x3F800000 0x40A00000 0x40E00000 [1, 1]
    let y : DElem := e 0 0x40000000 0x40800000 0x41000000 [1, 1, 1, 1]
    let r (e : DElem) : Dist := ⟨(Vector.replicate 8 DElem.void).set 0 e, 0, false, false⟩
    let s := after (.dadd ⟨3, 1, 2, 0⟩) ((base.writeD 1 (r x)).writeD 2 (r y))
    (s.getD 3).elem 0 = e 0x3F000000 0x40200000 0x40900000 0x41080000 [65535, 65535, 65535, 65535] ∧
    (s.getD 3).mask = 0 ∧ (s.getD 3).approx = false ∧
    lane ((after (.dmom 5 3 0 0) s).getV 5) 32 0 = 0x40800000 ∧ lane ((after (.dmom 5 3 0 0) s).getV 5) 32 1 = 0x410C0000 ∧
    lane ((after (.dqnt 5 3 6 0) (s.writeV 6 0x3DCCCCCD)).getV 5) 32 0 = 0x3F000000 ∧
    lane ((after (.dcdf 5 3 6 0) (s.writeV 6 0x40400000)).getV 5) 32 0 = 0x3F000000 := by decide +kernel

/-- Chapter 12: lineage at work, d4, d5, d6, d8 and d9 of the example. -/
theorem test_lineage :
    let s := (((base.writeV 8 0x3F800000BF800000).writeV 10 0x00010001).writeV 12 0x3F000000).writeS 5 0x41200000
    let s := [.dpte 1 2 0 2, .dmul ⟨4, 1, 1, 0⟩, .dtgw 2 1 0 16, .dmul ⟨5, 1, 2, 0⟩, .dsht 3 1 5 0, .dadd ⟨6, 1, 3, 0⟩,
      .dpt 7 12 0 3, .dadd ⟨8, 1, 7, 0⟩, .dmul ⟨9, 8, 1, 0⟩].foldl (fun t i => after i t) s
    let h (d : BitVec 4) : Nat × Bool × Bool := (((s.getD d).mask).toNat, (s.getD d).align, (s.getD d).approx)
    let vs (d : BitVec 4) : List (BitVec 32) := (((s.getD d).elem 0).toList.map DPoint.val)
    let ws (d : BitVec 4) : List (BitVec 16) := (((s.getD d).elem 0).toList.map DPoint.w)
    h 4 = (4, true, false) ∧ vs 4 = [0x3F800000, 0x3F800000, 0, 0] ∧ ws 4 = [1, 1, 0, 0] ∧
    h 5 = (4, false, false) ∧ vs 5 = [0xBF800000, 0xBF800000, 0x3F800000, 0x3F800000] ∧ ws 5 = [65535, 65535, 65535, 65535] ∧
    h 6 = (4, true, false) ∧ vs 6 = [0x41000000, 0x41400000, 0x41200000, 0x41200000] ∧
    h 8 = (12, false, false) ∧ vs 8 = [0xBF000000, 0x3FC00000, 0x3FC00000, 0x3FC00000] ∧ ws 8 = [65535, 65535, 0, 0] ∧
    h 9 = (12, false, true) ∧ vs 9 = [0xBFC00000, 0xBF000000, 0x3F000000, 0x3FC00000] ∧ s.me.ctl.flg = 64 := by decide +kernel

/-! ### For every statement with hypotheses, states that meet them -/

/-- ScalarLogicAndMoves, at both ends of a shift amount, with the results that R188 gives. -/
theorem wit_ScalarLogicAndMoves :
    let s := regs [(2, 0x8000000000000001)]
    (after (.shli ⟨1, 2, 63⟩) s).getS 1 = 0x8000000000000000 ∧ (after (.shri ⟨1, 2, 63⟩) s).getS 1 = 1 ∧
    (after (.srai ⟨1, 2, 63⟩) s).getS 1 = BitVec.allOnes 64 ∧ (after (.srai ⟨1, 2, 0⟩) s).getS 1 = s.getS 2 := by
  decide +kernel

/-- Division by 0 and not by 0; -2^63 / -1 as R191 has it. -/
theorem wit_Division :
    let s := regs [(2, 0x8000000000000000), (3, BitVec.allOnes 64)]
    base.getS 3 = 0 ∧ s.getS 3 ≠ 0 ∧ (after (.div o3) s).getS 1 = s.getS 2 ∧ (after (.rem o3) s).getS 1 = 0 := by
  decide +kernel

theorem wit_ResiduesStayRight :
    let s := regs [(2, 17), (3, BitVec.allOnes 64)]
    s.me.resOk 2 = true ∧ s.me.resOk 3 = true ∧ (after (.add o3 x0) s).getS 1 = 16 ∧
    exec (.add o3 x0) s = .next (after (.add o3 x0) s) := ⟨by decide +kernel, by decide +kernel, by decide +kernel, rfl⟩

/-- ScalarFloat: the compares of numbers and of a NaN. -/
theorem wit_ScalarFloat :
    let s := regs [(2, 0x3F800000), (3, 0x7FC00000)]
    (fmtF32.input s.me.fctl (s.getS 2).toNat).isNan = false ∧ (fmtF32.input s.me.fctl (s.getS 3).toNat).isNan = true ∧
    (after (.funoF32 o3) s).getS 1 = 1 ∧ (after (.feqF32 ⟨1, 2, 2⟩) s).getS 1 = 1 := by decide +kernel

/-- ScalarConversion: each pair of codes that R199 allows, with 2.5 rounded to even and toward zero. -/
theorem wit_ScalarConversion :
    let s := regs [(2, 0x4004000000000000)]
    (after (.fcvt ⟨1, 2, 0, 1, 2⟩ x0) s).getS 1 = 2 ∧ (after (.fcvt ⟨1, 2, 1, 1, 3⟩ x0) s).getS 1 = 2 ∧
    (after (.fcvt ⟨1, 2, 0, 1, 0⟩ x0) s).getS 1 = 0x40200000 ∧
    (after (.fcvt ⟨1, 2, 0, 2, 1⟩ x0) (regs [(2, 3)])).getS 1 = 0x4008000000000000 ∧
    (after (.fcvt ⟨1, 2, 0, 3, 0⟩ x0) (regs [(2, 3)])).getS 1 = 0x40400000 ∧
    (after (.fcvt ⟨1, 2, 0, 0, 2⟩ x0) (regs [(2, 0x40400000)])).getS 1 = 3 := by decide +kernel

/-- AddressChecks: each check of R30 fails alone, at the edge of its range, and the last passing address passes. -/
theorem wit_AddressChecks :
    let r (ea : Word) (size : Nat) (wr : Bool) : Addr := base.checkAddr ea true onlyLocal size size wr
    base.checkAddr 0 false onlyLocal 8 8 false = .bad cRESIDUE ∧ r 0xC000000000000000 8 false = .bad cPRIV ∧
    dep.checkAddr 0xFFFFFFFFFFFFFFFF true onlyLocal 1 1 false = .bad cPROT ∧ r 0x4000000000000000 8 false = .bad cPROT ∧
    r 0xBFFFFFFFFFFFFFFF 1 false = .bad cPROT ∧ r 0x200000 8 false = .bad cPROT ∧ r 0x10001 2 false = .bad cALIGN ∧
    r 0x1F0000 64 false = .bad cPROT ∧ r 0x1EFFC0 64 true = .ok (.loc 0x1EFFC0) ∧ r 0xFFF8 8 true = .bad cPROT ∧
    r 0xFFF8 8 false = .ok (.loc 0xFFF8) ∧ r 0x10000 8 true = .ok (.loc 0x10000) := by decide +kernel

/-- LocalAccesses: a load with and without a window and a post-increment, a store into the last doubleword. -/
theorem wit_LocalAccesses :
    let s := regs [(2, 0x1EFFF8), (1, 0x0123456789ABCDEF)]
    s.checkAddr (s.ea 2 0 8) (s.me.resOk 2) onlyLocal 8 8 true = .ok (.loc 0x1EFFF8) ∧
    s.stagedAt s.cur.cor s.cur.vt s.me.stage 0x1EFFF8 8 = .ready ∧ s.me.resOk 1 = true ∧ s.localRoom 0x1EFFF8 8 = true ∧
    (let t := after (.stD ⟨1, 2, 0⟩) s
     (after (.ldD ⟨4, 2, 0, 0, false⟩) t).getS 4 = 0x0123456789ABCDEF ∧
     (after (.ldHs ⟨4, 2, 0, 0, true⟩) t).getS 4 = 0xFFFFFFFFFFFFCDEF ∧ (after (.ldHs ⟨4, 2, 0, 0, true⟩) t).getS 2 = 0x1EFFFA ∧
     (after (.ldB ⟨4, 2, 7, 1, false⟩) t).getS 4 = 0) := by decide +kernel

theorem tidy_base : Tidy base := by unfold Tidy; decide +kernel

/-- LocalTraps: a bad address, a bad residue, marked and owed staged bytes, a full verge buffer. -/
theorem wit_LocalTraps :
    let at_ (s : State) : State := s.writeS 2 0x10FFF
    let f := full (regs [(2, 0x1EFFF8)])
    (regs [(2, 0x1F0000)]).checkAddr ((regs [(2, 0x1F0000)]).ea 2 0 1) true onlyLocal 1 1 false = .bad cPROT ∧
    (spoilt base 1).me.resOk 1 = false ∧ (spoilt base 1).me.resOk 2 = true ∧
    (at_ (staged (.marked 5))).stagedAt 1 0 0 0x10FFF 1 = .marked 0x4000 ∧ (at_ (staged .queued)).stagedAt 1 0 0 0x10FFF 1 = .notLanded ∧
    (at_ (staged .queued)).stagedAt 1 0 0 0x11000 1 = .ready ∧ f.stagedAt 1 0 0 0x1EFFF8 8 = .ready ∧
    f.localRoom 0x1EFFF8 8 = false := by decide +kernel

/-- LocalAtomics: an `add` of each size and a `cas` that matches and one that does not. -/
theorem wit_LocalAtomics :
    let s := after (.stD ⟨1, 2, 0⟩) (regs [(2, 0x10000), (1, 0xFFFFFFFF), (3, 1)])
    s.checkAddr (s.getS 2) (s.me.resOk 2) onlyLocal 8 8 true = .ok (.loc 0x10000) ∧
    s.stagedAt s.cur.cor s.cur.vt s.me.stage 0x10000 8 = .ready ∧ s.localRoom 0x10000 8 = true ∧ s.unsound 0x10000 8 = false ∧
    ofLE ((after (.ldaW o3 0) s).readView 0x10000 8) = 0 ∧ ofLE ((after (.ldaD o3 0) s).readView 0x10000 8) = 0x100000000 ∧
    ofLE ((after (.ldaD o3 9) s).readView 0x10000 8) = 1 ∧
    ofLE ((after (.ldaD o3 9) (s.writeS 1 7)).readView 0x10000 8) = 0xFFFFFFFF ∧
    (after (.ldaD o3 8) s).getS 1 = 0xFFFFFFFF := by decide +kernel

/-- BranchesAndJumps: each condition taken and not taken, targets of both parities, a strand in a body. -/
theorem wit_BranchesAndJumps :
    let t (cc : BitVec 3) (w : Word) : Bool := (after (.b ⟨2, cc, true, -8⟩) (regs [(2, w)])).me.pc2 == BitVec.ofInt 64 (-16)
    base.me.rep = none ∧ t 0 0 = true ∧ t 0 1 = false ∧ t 1 1 = true ∧ t 1 0 = false ∧ t 2 (BitVec.allOnes 64) = true ∧
    t 2 0 = false ∧ t 3 0 = true ∧ t 3 (BitVec.allOnes 64) = false ∧ t 4 1 = true ∧ t 4 0 = false ∧ t 5 0 = true ∧ t 5 1 = false ∧
    t 6 0 = true ∧ t 7 3 = true ∧ t 7 2 = false ∧ (after (.b ⟨2, 1, true, 4⟩) base).me.annul = 3 ∧
    ((regs [(2, 6)]).getS 2).getLsbD 0 = false ∧ ((regs [(31, 7)]).getS 31).getLsbD 0 = true ∧
    (after (.call 8) base).getS 31 = 6 ∧ (after (.jr 2) (regs [(2, 7)])).me.status = .trapped := by decide +kernel

/-- Repetition: a count of 0 and of 2, a place in a slot, and a body's middle and end. -/
theorem wit_Repetition :
    let s := regs [(3, 2)]
    let t := after (.rep ⟨0, 3, 0, 0⟩) s
    let r : RepRun := ⟨[2, 4], 6, 2, 1, 1, 0, 0⟩
    s.me.slots = 0 ∧ s.me.rep = none ∧ (match s.bodyFrom s.cur 1 s.me.pc1 with | .ok (b, a) => b == [2] && a == 4 | _ => false) = true ∧
    base.getS 3 = 0 ∧ (after (.rep ⟨0, 3, 0, 0⟩) base).me.pc0 = 4 ∧ t.me.pc0 = 2 ∧ t.me.rep.isSome = true ∧
    (t.me.rep.map RepRun.passes) = some 2 ∧ r.pass.toNat < r.passes.toNat ∧ r.idx < r.body.length ∧
    (retire (s.onMe fun x => { x with rep := some r })).me.rep = none ∧
    (retire (s.onMe fun x => { x with rep := some { r with pass := 0 } })).me.pc0 = 2 ∧
    (retire (s.onMe fun x => { x with rep := some { r with idx := 0 } })).me.pc0 = 4 := by decide +kernel

/-- VectorArithmetic: integer and floating types, and the dot products' own. -/
theorem wit_VectorArithmetic :
    elemOf 0 = .int ⟨8, true⟩ ∧ elemOf 7 = .int ⟨64, false⟩ ∧ elemOf 8 = .flt fmtBf16 ∧ elemOf 11 = .flt fmtF64 ∧
    (let s := (base.writeV 2 0x7F).writeV 3 0x01
     lane ((after (.vadd ⟨1, 2, 3, 0, 0⟩ x0) s).getV 1) 8 0 = 0x80 ∧
     lane ((after (.vadd ⟨1, 2, 3, 0, 0⟩ { x0 with sat := true }) s).getV 1) 8 0 = 0x7F ∧
     lane ((after (.vdot4 ⟨1, 2, 3, 0, 1⟩ x0) s).getV 1) 32 0 = 0x7F) := by decide +kernel

/-- VectorBits: the types of `vext`, with and without a sign. -/
theorem wit_VectorBits :
    let s := base.writeV 2 0xFF
    (after (.vext ⟨1, 2, 0⟩ 0) s).getS 1 = BitVec.allOnes 64 ∧ (after (.vext ⟨1, 2, 0⟩ 1) s).getS 1 = 0xFF ∧
    elemOf 9 = .flt fmtF16 ∧ lane ((after (.vsel ⟨1, 2, 3, 1, 0⟩) s).getV 1) 8 0 = 0 := by decide +kernel

/-- VectorComparesAndConversion: a compare into p0 and p1, a NaN lane, and the four kinds of conversion. -/
theorem wit_VectorComparesAndConversion :
    let s := (base.writeV 2 0x7FC00000).writeV 3 0x3F800000
    let t := after (.vcmpLt ⟨1, 2, 3, 0, 10⟩) s
    let c (src dst : BitVec 5) (w : Line) : Nat := lane ((after (.vcvt ⟨1, 2, 0, src, dst⟩ x0) (base.writeV 2 w)).getV 1) (laneWidth dst) 0
    (after (.vcmpEq ⟨0, 2, 3, 0, 10⟩) s).getP 0 = BitVec.allOnes 64 ∧ (t.getP 1).getLsbD 0 = false ∧ t.me.ctl.flg = 1 ∧
    XR.cmp (fmtF32.input s.me.fctl (lane (s.getV 2) 32 0)) (fmtF32.input s.me.fctl (lane (s.getV 3) 32 0)) = none ∧
    c 0 3 0xFF = 0xFFFF ∧ c 10 4 0x40200000 = 2 ∧ c 4 10 3 = 0x40400000 ∧ c 10 9 0x3F800000 = 0x3C00 := by decide +kernel

/-- VectorReductions: no lane enabled, and all, of an integer and of a floating type; zeros of both signs, and a NaN. -/
theorem wit_VectorReductions :
    let s := (base.writeV 2 0x3F8000003F800000).writeV 1 0x40000000
    let r (i : Instr) : Nat := lane ((after i s).getV 1) 32 0
    s.enabled 1 0 = false ∧ s.enabled 0 0 = true ∧ elemOf 4 = .int ⟨32, true⟩ ∧ elemOf 10 = .flt fmtF32 ∧
    r (.vredAdd ⟨1, 2, 1, 4⟩ x0) = 0 ∧ r (.vredMin ⟨1, 2, 1, 4⟩ x0) = 0x7FFFFFFF ∧ r (.vredMax ⟨1, 2, 1, 4⟩ x0) = 0x80000000 ∧
    r (.vredAdd ⟨1, 2, 0, 4⟩ x0) = 0x7F000000 ∧ r (.vredMin ⟨1, 2, 1, 10⟩ x0) = 0x7F800000 ∧
    r (.vredAdd ⟨1, 2, 0, 10⟩ x0) = 0x40000000 ∧ (2 : Nat) ^ 4 = 512 / laneWidth 10 ∧
    lane ((after (.vredMin ⟨1, 2, 0, 10⟩ x0) (s.writeV 2 0x800000007FC00000)).getV 1) 32 0 = 0x80000000 ∧
    lane ((after (.vredMax ⟨1, 2, 0, 10⟩ x0) (s.writeV 2 0x800000007FC00000)).getV 1) 32 0 = 0 ∧
    r (.vredAddo ⟨1, 2, 0, 10⟩ x0) = 0x40800000 ∧ r (.vredAddo ⟨1, 2, 1, 10⟩ x0) = 0x40000000 := by decide +kernel

/-- VectorFunctions: each special operand of R222 as an FP32 value. -/
theorem wit_VectorFunctions :
    let y (raw : Nat) : XR := fmtF32.input ⟨0, false, false⟩ raw
    y 0x7FC00000 = .nan ∧ y 0x7F800000 = .inf false ∧ y 0xFF800000 = .inf true ∧ y 0 = XR.zero false ∧
    y 0x80000000 = XR.zero true ∧ (match y 0xBF800000 with | .fin n m _ => n && m != 0 | _ => false) = true ∧
    elemOf 8 = .flt fmtBf16 ∧ elemOf 10 = .flt fmtF32 := by decide +kernel

/-- TablePlaces: one dimension of 100 coordinates in blocks of 8 over 4 owners; the coordinate 57 and the extent itself;
an unused table. -/
theorem wit_TablePlaces :
    let k := base.cor 1
    let s (c : Word) : State := (base.setCor 1 { k with image := { k.image with
      dtabs := [(3, [0x0000000003210005, 0x0020000400080064])] } }).writeS 2 c
    (after (.gowner ⟨1, 2⟩ 3) (s 57)).getS 1 = 8 ∧ (after (.gaddr ⟨1, 2⟩ 3) (s 57)).getS 1 = 0x4000000001000027 ∧
    (after (.gaddr ⟨1, 2⟩ 3) (s 99)).me.status = .running ∧ (after (.gaddr ⟨1, 2⟩ 3) (s 100)).me.status = .trapped ∧
    (after (.gowner ⟨1, 2⟩ 4) (s 0)).me.status = .trapped := by decide +kernel

/-- VectorLines: the last line of the grant, with and without enabled bytes, and an address that fails. -/
theorem wit_VectorLines :
    let s := (regs [(2, 0x1EFFC0)]).writeV 1 0x5566
    s.checkAddr (s.ea 2 0 64) (s.me.resOk 2) onlyLocal 64 64 true = .ok (.loc 0x1EFFC0) ∧
    (List.range 64).all (fun n => s.stagedAt 1 0 0 (0x1EFFC0 + n) 1 == .ready) = true ∧ s.localRoom 0x1EFFC0 64 = true ∧
    (List.range 64).all (fun n => !s.enabled 1 n) = true ∧ s.unsound 0x1EFFC0 64 = false ∧
    (after (.vld ⟨3, 2, 0, 0, true⟩ 0) (after (.vst ⟨1, 2, 0⟩ 0) s)).getV 3 = 0x5566 ∧
    (after (.vld ⟨3, 2, 0, 2, false⟩ 0) s).me.windows.length = 1 ∧
    base.checkAddr ((regs [(2, 32)]).ea 2 0 64) true onlyLocal 64 64 false = .bad cALIGN ∧ Tidy s := by
  unfold Tidy
  decide +kernel

/-- GatherScatter: a base that fails each check, a lane past the grant, lanes that meet, an empty mask. -/
theorem wit_GatherScatter :
    let s (w : Word) : State := ((regs [(2, w)]).writeV 3 0x0000000200000002).writeV 1 0x0000000700000005
    let o : V3 := ⟨1, 2, 3, 0, 4⟩
    (spoilt (s 0x10000) 2).me.resOk 2 = false ∧ (s 0x10000).me.resOk 2 = true ∧
    (after (.vgat o) (s 0xC000000000000000)).me.status = .trapped ∧ (after (.vsct o) (s 0x200000)).me.status = .trapped ∧
    (after (.vgat o) (s 0x10002)).me.status = .trapped ∧ (s 0x1EFFFC).inGrant 1 (0x1EFFFC + 8) 4 = false ∧
    (s 0x10000).inGrant 1 0x10008 4 = true ∧ (s 0x10000).stagedAt 1 0 0 0x10008 4 = .ready ∧
    (s 0x10000).inCode 1 0x10008 4 = false ∧ (s 0x10000).unsound 0 0x200000 = false ∧
    ofLE ((after (.vsct o) (s 0x10000)).readView 0x10008 4) = 7 ∧
    lane ((after (.vgat o) (after (.vsct o) (s 0x10000))).getV 1) 32 0 = 7 ∧
    (let u := (s 0).writeV 3 0x0000000200004000
     u.enabled 0 1 = true ∧ u.inGrant 1 0x10000 4 = true ∧ u.inCode 1 0x10000 4 = false ∧
       u.stagedAt 1 0 0 0x10000 4 = .ready ∧ u.room 1 0 0 (newLines u.mine.loc (distinct [0x10000 / 64])) = true ∧
       u.inCode 1 8 4 = true ∧ ((after (.vsct o) u).me.cause.map TrapInfo.addr) = some 8) ∧
    Tidy (s 0x10000) := by
  unfold Tidy
  decide +kernel

/-- FarLoads: each of the places that a far load reaches, for a corridor's strand and the depot's. -/
theorem wit_FarLoads :
    let rd : XKind := ⟨true, false, true⟩
    let go (s : State) (w : Word) (la : BitVec 4) : State := after (.ldfD ⟨4, 2, 0, la, false⟩) (s.writeS 2 w)
    base.checkAddr 0x8001000000004000 true anySpace 8 8 false = .bad cPROT ∧
    (go base 0x10000 0).me.pc0 = 2 ∧ (duo false).checkAddr 0x4000000000210000 true anySpace 8 8 false = .ok (.tsp 1 0x10000) ∧
    (duo false).onPackage 1 1 = true ∧ (duo false).joined 0 0 = true ∧ (duo false).owedAt 1 1 0x10000 8 = false ∧
    (go (duo false) 0x4000000000210000 3).me.windows.length = 1 ∧
    (duo true).onPackage 1 1 = false ∧ ((duo true).freeTag 0).isSome = true ∧
    (go (duo true) 0x4000000000210000 3).fabric.open_.length = 1 ∧
    (match base.farAt 1 0 0x4000 rd with | .bad f => f.cause == cTXF | _ => false) = true ∧ (paged base 3).farAt 1 0 0x4000 rd = .at_ 0x5000 3 ∧
    (paged base 2).farAt 1 0 0x4FF8 rd = .at_ 0x5FF8 2 ∧ peerOf 0x5FF8 = none ∧
    (go (paged base 0) 0x8000000000004000 2).me.windows.length = 1 ∧
    (apertured base none).farAt 1 0 0x4000 rd = .probe ⟨0x4000, 4096, 9, 3, 0⟩ ∧
    (apertured base (some (rd, 0))).farAt 1 0 0x4008 rd = .at_ (peerPa 9 0x7008) 0 ∧ peerOf (peerPa 9 0x7008) = some 9 ∧
    (go (apertured base (some (rd, 0))) 0x8000000000004008 0).me.windows.length = 1 ∧
    (paged dep 0).farAt depotCor 0 0x4000 ⟨true, false, false⟩ = .at_ 0x5000 0 ∧
    (go (paged dep 0) 0x8000000000004000 0).me.pc0 = 2 := by
  decide +kernel

/-- FarStores: a vtile of the stage and of none, each class of page, a full buffer, a depot strand. -/
theorem wit_FarStores :
    let wr : XKind := ⟨false, true, true⟩
    let go (s : State) (w : Word) : State := after (.stfD ⟨1, 2, 0⟩) (s.writeS 2 w)
    (duo false).image.holds 1 0 = true ∧ ((go (duo false) 0x4000000000210000).stageTile 1 0 0).outbound.length = 1 ∧
    (go ((duo false).onMe fun x => { x with fifo := [sending 0x80040] }) 0x4000000000210000).me.status = .trapped ∧
    (full (duo false)).localRoom 0x10000 8 = false ∧ (go (full base) 0x10000).me.status = .trapped ∧
    (paged base 0).farAt 1 0 0x4000 wr = .at_ 0x5000 0 ∧ ((go (paged base 0) 0x8000000000004000).stageTile 1 0 0).farlog.length = 1 ∧
    (go (paged base 1) 0x8000000000004000).me.held.length = 1 ∧ (go (paged base 2) 0x8000000000004000).me.status = .trapped ∧
    (go base 0x8000000000004000).me.status = .trapped ∧
    Mem.load (after (.stfD ⟨1, 2, 0⟩) ((paged dep 0).writeS 2 0x8000000000004000 |>.writeS 1 0x77)).far.mem 0x5000 8 = 0x77 ∧
    dep.checkAddr 0x4000000000210000 true anySpace 8 8 true = .ok (.tsp 1 0x10000) ∧ (spoilt base 1).me.resOk 1 = false := by
  decide +kernel

/-- Accumulates: a page of each class, by a corridor's strand and the depot's, residues that fail. -/
theorem wit_Accumulates :
    let s := (paged base 2).writeS 2 0x8000000000004000
    let d := (paged dep 2).writeS 2 0x8000000000004000
    s.checkAddr (s.getS 2) true onlyFar 256 256 true = .ok (.far 0x4000) ∧
    s.farAt 1 0 0x4000 ⟨false, true, true⟩ = .at_ 0x5000 2 ∧ (paged base 0).farAt 1 0 0x4000 ⟨false, true, true⟩ = .at_ 0x5000 0 ∧
    ((after (.accI64 2 3) (s.writeS 3 1)).stageTile 1 0 0).farlog = [⟨0, 0, 0, 0, [], [(0x5000, 0x10000000000000000)], []⟩] ∧
    Mem.load (after (.accF32 2 3) (d.writeS 3 0x3F000000)).far.mem 0x5000 16 = 0x8000000000000000 ∧
    base.checkAddr 0x8000000000004008 true onlyFar 16 16 true = .bad cALIGN ∧ (spoilt s 2).me.resOk 2 = false ∧
    (spoilt s 3).me.resOk 3 = false := by decide +kernel

/-- FarLoads, FarStores, Accumulates, ImmediateAtomics: a die whose walk queue is full, and a depot strand with an access
under way. -/
theorem wit_FarWaits :
    let crowd := (base.setDie 0 { base.die 0 with walks := (List.range 272).map fun n => ⟨0, 1, none, 4096 * n⟩ }).writeS 2 0x8000000000004000
    let d := ((paged dep 0).onMe fun x => { x with inflight := 1 }).writeS 2 0x8000000000004000
    let waits (s : State) (w : WaitCond) : Bool :=
      ([.ldfD ⟨4, 2, 0, 0, false⟩, .stfD ⟨1, 2, 0⟩, .accI64 2 3, .amoiD o3 0] : List Instr).all fun i => (after i s).me.wait == .again w
    crowd.walkFull 1 0 0x4000 = true ∧ base.walkFull 1 0 0x4000 = false ∧ waits crowd .walks = true ∧
    d.accessesDone d.cur = false ∧ dep.accessesDone dep.cur = true ∧ waits d .stored = true := by decide +kernel

/-- ImmediateAtomics: the last free place and none, a page of another class, a compare pair, a depot strand. -/
theorem wit_ImmediateAtomics :
    let s := (paged base 1).writeS 2 0x8000000000004000
    let many (n : Nat) : State := s.onMe fun x => { x with held := (List.range n).map fun k => (k, .amo 0 4 0 0 0 0) }
    s.checkAddr (s.getS 2) true onlyFar 8 8 true = .ok (.far 0x4000) ∧
    s.farAt 1 0 0x4000 ⟨false, true, true⟩ = .at_ 0x5000 1 ∧ (many 15).amoOutstanding (many 15).cur = 15 ∧
    (many 16).amoOutstanding (many 16).cur = 16 ∧ (after (.amoiD o3 0) (many 15)).me.held.length = 16 ∧
    (after (.amoiD o3 0) (many 16)).me.status = .trapped ∧ (after (.amoiW ⟨1, 2, 4⟩ 9) s).me.held.length = 1 ∧
    (after (.amoiW o3 0) (paged s 0)).me.status = .trapped ∧ (spoilt s 3).me.resOk 3 = false ∧
    (after (.amoiD o3 0) ((paged dep 1).writeS 2 0x8000000000004000)).atomics.length = 1 := by decide +kernel

/-- CopyPush: a FILL of 8 bytes of local memory, one that breaks the format, one that breaks its addresses, a descriptor,
a full FIFO, an exchange. -/
theorem wit_CopyPush :
    let s (w0 w2 w3 : Word) : State := regs [(4, w0), (5, 0x77), (6, w2), (7, w3)]
    let busy (t : State) : State := t.onMe fun x => { x with fifo := List.replicate 8 (sending 1) }
    let dims : State :=
      let t := s 0x100000004 0x10000 0x20000
      t.setTile 0 { t.tile 0 with mem := Mem.write [] 0x20000 ([2, 0, 0, 0, 1, 0, 0, 0, 0, 0, 0, 0, 8, 0, 0, 0, 1, 0, 0, 0] ++ List.replicate 12 0) }
    (spoilt base 5).me.resOk 5 = false ∧ formatOk 4 0x10000 8 = true ∧ formatOk 6 0x10000 8 = false ∧ (8 : Word).toNat % 1 = 0 ∧
    (s 4 0x10000 8).commandFault ⟨1, 0, 0⟩ ((s 4 0x10000 8).command 4 0x77 0x10000 8 []) = none ∧
    (after (.cpush 4) (s 4 0x10000 8)).me.fifo.length = 1 ∧ (after (.cpush 4) (s 6 0x10000 8)).me.status = .trapped ∧
    (after (.cpush 4) (s 4 0xC000000000000000 8)).me.status = .trapped ∧
    (after (.cpush 4) (s 4 0x10000 0x10000000001)).me.status = .trapped ∧
    (after (.cpush 4) (busy (s 4 0x10000 8))).me.wait = .again .fifo ∧
    (after (.cpush 4) (busy (s 4 0x10000 8))).me.pushing.isSome = true ∧
    (after (.cpush 4) ((after (.cpush 4) (busy (s 4 0x10000 8))).onMe fun x => { x with fifo := [] })).me.fifo.length = 1 ∧ (after (.cpushTry 1 4) (busy (s 4 0x10000 8))).getS 1 = 1 ∧
    dims.inGrant 1 0x20000 32 = true ∧ dims.stagedAt 1 0 0 0x20000 32 = .ready ∧ dims.unsound 0x20000 32 = false ∧
    (after (.cpush 4) dims).me.fifo.length = 1 ∧ Tidy dims ∧
    (after (.xall ⟨1, 2, 3⟩) (regs [(1, 64), (2, 0x10000), (3, 0x10040)])).me.fifo.length = 1 ∧
    (after (.xall ⟨1, 2, 3⟩) (regs [(1, 65), (2, 0x10000), (3, 0x10040)])).me.status = .trapped ∧
    (after (.xall ⟨1, 2, 3⟩) (regs [(1, 65536), (2, 0x200000), (3, 0x10040)])).me.status = .trapped ∧
    (after (.xall ⟨1, 2, 3⟩) (regs [(1, 64), (2, 0x1EFFC0), (3, 0x200000)])).me.status = .trapped := by
  unfold Tidy
  decide +kernel

/-- MailboxAndFetchLists: an empty mailbox and one with an entry, a time of 0 and of 1, a list with room, without, and a
fault of the address. -/
theorem wit_MailboxAndFetchLists :
    let m : MailEntry := ⟨9, 0, 1, 0x55, 0⟩
    let s := base.onMe fun x => { x with mailbox := [m] }
    let f := regs [(2, 0x8000000000004000), (3, 0x10000)]
    let listed (n : Nat) : State := f.setMine { f.mine with fetch := (List.range n).map fun k => { unit .queued with index := k } }
    base.me.mailbox = [] ∧ s.me.mailbox = [m] ∧ (after (.mbp 4) s).getS 5 = 0x55 ∧ (after (.mbp 4) s).getS 4 = 0x1000009 ∧
    (after (.mbpTry 4) base).getS 4 = 0xFF0000 ∧ (after (.mbwTo 4 2) base).getS 4 = 0 ∧ base.getS 2 = 0 ∧
    (after (.mbwTo 4 2) (regs [(2, 1)])).me.wait = .mailTimed 4 1 ∧ (after (.mbw 4) s).getS 4 = 1 ∧
    f.fetchFault (f.getS 2) (f.getS 3) 1 = none ∧ base.fetchFault 0 0 1 = some (cPROT, 0) ∧
    (after (.pfl ⟨1, 2, 3⟩ 0) (listed 63)).getS 1 = 63 ∧ (after (.pflN ⟨1, 2, 3⟩ 31) (listed 64)).me.status = .trapped ∧
    (after .pflClr (listed 64)).mine.fetch = [] ∧ (spoilt f 2).me.resOk 2 = false := by decide +kernel

/-- DistArithmetic: operands without a common source, aligned ones with equal weights, others, and those under depx_trap;
the sum 1 + 2 of two points, from R252. -/
theorem wit_DistArithmetic :
    let one (v : BitVec 32) : DElem := (DElem.ofList [⟨v, 65535⟩]).canonical
    let d (v : BitVec 32) (mask : BitVec 16) (align : Bool) : Dist := ⟨Vector.replicate 8 (one v), mask, align, false⟩
    let s (ma mb : BitVec 16) (align : Bool) : State := (base.writeD 1 (d 0x3F800000 ma align)).writeD 2 (d 0x40000000 mb align)
    let r (t : State) : Dist := (after (.dadd ⟨3, 1, 2, 0⟩) t).getD 3
    let trap (t : State) : State := t.onMe fun x => { x with ctl := { x.ctl with dsc := 2 } }
    (s 1 2 true).enabled 0 7 = true ∧ ((r (s 1 2 true)).elem 7).get 0 = ⟨0x40400000, 65535⟩ ∧ (r (s 1 2 true)).mask = 3 ∧
    (r (s 1 2 true)).align = false ∧ ((s 1 1 true).getD 1).align = true ∧ (r (s 1 1 true)).align = true ∧
    (r (s 1 1 false)).approx = true ∧ (trap (s 1 1 false)).me.ctl.dsc.getLsbD 1 = true ∧
    (after (.dadd ⟨3, 1, 2, 0⟩) (trap (s 1 1 false))).me.status = .trapped := by decide +kernel

/-- Condensation: nothing kept, a NaN, four candidates kept out of five; the two worked cases of R253, and a quarter that holds
infinities of both signs. -/
theorem wit_Condensation :
    let l : List Cand := [(0x40000000, 3), (0x3F800000, 1), (0x40400000, 0), (0x40400000, 2), (0xBF800000, 4)]
    let many : List Cand := [0, 0x40000000, 0x40800000, 0x41000000, 0x3F800000, 0x40400000, 0x40A00000, 0x41100000].map (·, 1)
    (condense false many).toList.map DPoint.val = [0x3F000000, 0x40200000, 0x40900000, 0x41080000] ∧
    (condense true [(0, 131070), (0x41200000, 196605)]).toList.map DPoint.val = [0, 0x40800000, 0x41200000, 0x41200000] ∧
    condense true [(0xFF800000, 1), (0x7F800000, 2)] = DElem.nan ∧
    (condense true [(0xFF800000, 1), (0x7F800000, 1)]).toList.map DPoint.val = [0xFF800000, 0xFF800000, 0x7F800000, 0x7F800000] ∧
    (l.filter fun p => p.2 != 0).length = 4 ∧ condense false [(0, 0)] = DElem.void ∧ condense false [(0x7FC00000, 1)] = DElem.nan ∧
    ((condense false l).get 0).val = 0xBF800000 ∧ ((condense false l).get 0).w = 65535 ∧ ((condense true l).get 3).w = 65535 := by
  decide +kernel

/-- DistExtraction: void and NaN elements, arguments in and out of range and NaN, a mixture of two points. -/
theorem wit_DistExtraction :
    let e : DElem := DElem.ofList [⟨0x3F800000, 49151⟩, ⟨0x40400000, 16384⟩]
    DElem.void.points = [] ∧ DElem.nan.isNan = true ∧ e.points.length = 2 ∧ e.isNan = false ∧ (f32 0x3F000000).isNan = false ∧
    XR.lt (f32 0x3F800001) (XR.zero false) = false ∧ XR.lt .one (f32 0x3F800001) = true ∧ (f32 0x7FC00000).isNan = true ∧
    (quantile e 0x3F800000).1 = 0x40400000 ∧ (quantile e 0).1 = 0x3F800000 ∧ (cumulative e 0x40000000).1 = (fl32 (XR.div (.fin false 49151 0) (.fin false 65535 0)).1).1 := by
  decide +kernel

/-- DistMemory: the last image of the grant, in bytes that have landed, with room, loaded with a window, a lineage and from
a bad address. -/
theorem wit_DistMemory :
    let s := regs [(2, 0x1EFF00)]
    s.checkAddr (s.ea 2 0 256) (s.me.resOk 2) onlyLocal 256 256 true = .ok (.loc 0x1EFF00) ∧
    s.stagedAt 1 0 0 0x1EFF00 1 = .ready ∧ s.stagedAt 1 0 0 0x1EFFFF 1 = .ready ∧ s.room 1 0 0 4 = true ∧
    ((after (.dld ⟨3, 2, 0, 0, true, 0, 16⟩) s).getD 3).align = false ∧ ((after (.dld ⟨3, 2, 0, 0, false, 0, 9⟩) s).getD 3).mask = 512 ∧
    (after (.dld ⟨3, 2, 0, 15, false, 0, 16⟩) s).me.windows.length = 1 ∧ s.unsound 0x1EFF00 256 = false ∧
    (after (.dst ⟨1, 3, 0, 0⟩) (s.writeS 3 0x1EFF80)).me.status = .trapped ∧ Tidy s := by
  unfold Tidy
  decide +kernel

/-- LeaseAndSlots: the lease free, mine, and another's; handles that are NONE, dead, idle and busy. -/
theorem wit_LeaseAndSlots :
    let his := base.setTile 0 { base.tile 0 with lease := some (⟨1, 0, 1⟩, 2) }
    let slotted := base.onMe fun x => { x with slots := 1 }
    slotted.me.slots ≠ 0 ∧ (base.tile 0).lease = none ∧ (base.tile 0).leaseQueue = [] ∧ ((leased id).tile 0).lease = some (base.cur, 3) ∧
    ((after (.mlease 64) base).tile 0).lease = some (base.cur, 64) ∧ (after (.mlease 1) his).me.wait = .lease 1 ∧
    (leased id).me.slots = 0 ∧ ((after (.mlease 7) (leased id)).tile 0).lease = some (base.cur, 7) ∧ (after (.mtry 1 5) base).getS 1 = 0 ∧
    (after (.arel 5) (leased id)).me.pc0 = 2 ∧ (after (.mwait 5) (leased id)).me.pc0 = 2 ∧ (after (.mwait 6) (handled id)).me.pc0 = 2 ∧
    (after (.mwait 0) (handled id)).me.pc0 = 2 ∧
    (after (.mtry 1 5) his).getS 1 = 1 ∧ ((after .mrel (leased id)).tile 0).lease = none ∧ (spoilt base 5).me.resOk 5 = false ∧
    (leased id).getS 5 = handleNone ∧ (leased id).me.slotOf 0 = none ∧ (handled id).me.slotOf 7 = some 0 ∧
    (handled id).holds ⟨1, 0, 0⟩ (.slotIdle 7) = true ∧ (after (.arel 6) (handled id)).getS 6 = handleNone ∧
    (handled fun t => { t with queue := [cmd 4] }).holds ⟨1, 0, 0⟩ (.slotIdle 7) = false ∧ (handled id).holds ⟨1, 0, 0⟩ .matrixIdle = true ∧
    (handled fun t => { t with queue := [cmd 4] }).holds ⟨1, 0, 0⟩ .matrixIdle = false := by decide +kernel

/-- MatrixIssue: each check of R232 fails alone, a full queue, a live handle, an allocation, eight handles, no free slot. -/
theorem wit_MatrixIssue :
    let all (f : Tile → Tile) : State := leased fun t => f { t with acc := (List.range 8).map fun n => (n, ⟨⟨1, 0, 1⟩, []⟩) }
    let many := (leased id).onMe fun x => { x with handles := (List.range 8).map fun n => (BitVec.ofNat 64 n, n) }
    (spoilt (leased id) 5).me.resOk 5 = false ∧ (leased id).holdsLease ⟨1, 0, 0⟩ = true ∧ base.holdsLease ⟨1, 0, 0⟩ = false ∧
    (leased id).getS 5 = handleNone ∧ (after (.ast 5 8) (leased id)).me.status = .trapped ∧ (leased id).me.slotOf 0 = none ∧
    (match (leased id).moveRanges 3 8 with | .error e => e == (cMM_CONFIG, 0) | .ok _ => false) = true ∧
    (match ((leased id).writeS 8 0x0000000008010000).moveRanges 3 8 with | .ok l => l == [(0x10000, 4)] | .error _ => false) = true ∧
    (leased fun t => { t with queue := List.replicate 16 (cmd 4) }).holdsLease ⟨1, 0, 0⟩ = true ∧
    (after (.azero 5) (leased fun t => { t with queue := List.replicate 16 (cmd 4) })).me.wait = .again .matrixQueue ∧
    ((after (.azero 6) (handled id)).tile 0).queue.length = 1 ∧ (after (.azero 5) (leased id)).getS 5 = 0 ∧
    ((leased id).tile 0).freeSlot = some 0 ∧ many.me.handles.length = 8 ∧ (after (.azero 5) many).me.status = .trapped ∧
    ((all id).tile 0).freeSlot = none ∧ ((all id).onMe fun y => { y with wait := .slot }).accDeadlock 0 = false ∧
    (after (.azero 5) (all id)).me.wait = .slot := by decide +kernel

/-- MatrixEvents: a free lease with a waiter, a strand waiting for a slot, a command at the head of the queue, one that
runs, of each kind. -/
theorem wit_MatrixEvents :
    let waits := (base.setTile 0 { base.tile 0 with leaseQueue := [(base.cur, 5)] }).onMe fun x => { x with wait := .lease 5 }
    let queued := handled fun t => { t with queue := [cmd 4] }
    let running (op : Nat) : State := handled fun t => { t with cmdRunning := some { cmd op with result := [(3, 9)] } }
    let wants := ((leased id).onMe fun x => { x with wait := .slot })
    let wants := wants.setTile 0 { wants.tile 0 with mem := Mem.writeHalves [] 0 [0xFC80, 0xF880, 0x3100] }
    (waits.tile 0).lease = none ∧ (waits.strand ⟨1, 0, 0⟩).wait = .lease 5 ∧ ((after (.leaseGrant 0) waits).tile 0).lease = some (base.cur, 5) ∧
    (wants.strand ⟨1, 0, 0⟩).status = .running ∧ (wants.tile 0).freeSlot.isSome = true ∧ (after (.slotAllocate ⟨1, 0, 0⟩) wants).me.handles.length = 0 ∧
    (queued.tile 0).cmdRunning = none ∧ ((after (.matrixCommandRun 0) queued).tile 0).cmdRunning.isSome = true ∧
    KMap.get? ((running 0).tile 0).acc 0 = some ⟨⟨1, 0, 0⟩, []⟩ ∧
    (KMap.get? ((after (.matrixCommandDone 0) (running 0)).tile 0).acc 0).map AccSlot.vals = some [(3, 9)] ∧
    (((running 1).setTile 0 { (running 1).tile 0 with cmdRunning := none }).commandWrites ⟨1, 0, 0⟩ [(0x10000, 9)]).isSome = true := by
  decide +kernel

/-- MatrixIntegers: two byte matrices of one row each, sixteen products. -/
theorem wit_MatrixIntegers :
    mmPair Ctl.reset = some (.int ⟨8, true⟩, .int ⟨8, true⟩) ∧
    (operandAt Ctl.reset [] (some (List.replicate 256 2)) 0 0 2).1 = 4 ∧
    (mmmaResult Ctl.reset [] { cmd 0 with regA := some (List.replicate 256 2), regB := some (List.replicate 256 255), k := 64 }
      ⟨⟨1, 0, 0⟩, []⟩).1.head? = some (0, BitVec.ofInt 32 (-128)) := by decide +kernel

/-- SequencerSetup: a legal block, one outside, one illegal; a context bound elsewhere; samples that start, are done, fail
and are clipped. -/
theorem wit_SequencerSetup :
    let s := solver true SeqSlot.reset
    let q (t te h : Word) : SeqSlot := ((after (.qset ⟨1, 3, 4⟩) ((s.writeS 3 (t + te * 0x100000000)).writeS 4 h |>.writeS 1 1)).seqCtx).slot 1
    s.seqBound = true ∧ s.seqCtx.configured = true ∧ base.seqBound = true ∧ base.seqCtx.configured = false ∧
    (base.setSeq { SeqCtx.reset with bound := some 3 }).seqBound = false ∧ cfgLegal block = true ∧ cfgLegal (List.replicate 512 0) = false ∧
    (solver false SeqSlot.reset).regionFault block = none ∧ (solver false SeqSlot.reset).regionFault (block.set 0x1A 0x1F) = some 0x1F0000 ∧
    (after (.qcfg 2) (solver false SeqSlot.reset)).seqCtx.block = block ∧ (after (.qres 2) s).seqCtx.configured = true ∧
    (q 0 0x3F800000 0x3E800000).status = 1 ∧ (q 0 0x3F800000 0x3F800000).status = 9 ∧ (q 0x3F800000 0x3F800000 0x3E800000).status = 2 ∧
    (q 0 0x3F800000 0x39800000).status = 3 ∧ (after (.qset ⟨1, 3, 4⟩) (s.writeS 1 1)).me.status = .trapped := by decide +kernel

/-- SequencerWork: an active sample of a configured context, with room and its bytes in place; a stage out of range and a
sample out of range. -/
theorem wit_SequencerWork :
    let s := (solver true ⟨0, 0x3E800000, 0x3F800000, 0, 0, 0, 0, 1⟩).writeS 3 2
    s.activeSamples block 2 = [1] ∧ s.stagedAt 1 0 0 0x10100 4 = .ready ∧ s.localRoom 0x11100 4 = true ∧
    (after (.qstg 1 3) s).me.pc0 = 2 ∧ (after (.qstg 2 3) s).me.status = .trapped ∧ (after (.qfin 0 3 0) s).me.pc0 = 2 ∧
    (after (.qdec 4 0 3) s).getS 4 = 2 ∧ ((after (.qdec 4 0 3) s).seqCtx.slot 1).t = 0x3E800000 ∧ (after (.qtm 1 3 1) s).me.status = .trapped ∧
    (after (.qtm 1 5 2) (s.writeS 5 33)).me.pc0 = 2 ∧ s.checkAddr 0x30000 true onlyLocal 32 0 false = .ok (.loc 0x30000) ∧
    s.inGrant 1 (0x30000 + 32) 32 = true ∧ s.inCode 1 (0x30000 + 32) 32 = false ∧ (after (.qst 6 3) (s.writeS 6 0x30000)).me.pc0 = 2 := by
  decide +kernel

/-- SequencerDecision: accepted and rejected, PI mode off, at the end, below the least step, and clipped. -/
theorem wit_SequencerDecision :
    let d (t h te : BitVec 32) (n : Word) : Bool × SeqSlot := decideSample block ⟨t, h, te, 0, 0, 0, 0, 1⟩ n
    cfgU block 2 1 ≠ 0 ∧ (d 0 0x3E800000 0x3F800000 0x100000000).1 = true ∧ (d 0 0x3E800000 0x3F800000 0x200000000).1 = false ∧
    (d 0 0x3E800000 0x3F800000 0x200000000).2.h = 0x3E000000 ∧ (d 0x3F400000 0x3E800000 0x3F800000 0).2.phase = 2 ∧
    (d 0 0x3A000000 0x3F800000 0x200000000).2.phase = 3 ∧ (d 0 0x3F000000 0x3F800000 0).2.status.getLsbD 3 = true ∧
    (d 0 0x3E800000 0x3F800000 0).2.h = 0x3F000000 := by decide +kernel

/-- BarrierArrivals: allowed and in each forbidden place, data that has not landed, a spoilt live register, a held slot. -/
theorem wit_BarrierArrivals :
    let late : State := me fun x => { x with windows := [⟨0, 2, [(.s 3, .s 7)], none, false⟩] }
    let live := spoilt ((base.setCor 1 { base.cor 1 with image := { (base.cor 1).image with live := List.replicate 100 255 } }).writeS 3 5) 3
    ends .bar base = .arriving ∧ ends .bar dep ≠ .arriving ∧ ends .bar (me fun x => { x with slots := 1 }) = .trapped ∧
    ends (.barRed 1 4) (me fun x => { x with rep := some ⟨[], 0, 1, 0, 0, 0, 0⟩ }) = .trapped ∧
    (after .barEnd late).me.wait = .again .windows ∧ ends (.barEndr 7 0) (handled id) = .trapped ∧
    Live.s (live.image.liveAt live.me.pc0.toNat) 3 = true ∧ live.me.resOk 3 = false ∧ ends .bar live = .trapped := by
  decide +kernel

/-- StrandControl: `vote` twice, `bwait` on its own and on another stage, each kind of `fence`, `ebrk` with and without
debugging, `yld` alone and in company. -/
theorem wit_StrandControl :
    let k := base.cor 1
    let two := base.setCor 1 { k with image := { k.image with stages := 2, strands := 2, entries := [⟨0, 0, true⟩, ⟨0, 1, true⟩] } }
    let two := two.setStrand ⟨1, 0, 1⟩ { Strand.reset with status := .running, stage := 1 }
    let dbg := base.setCor 1 { k with record := k.record.set 0 0x0000000100010101 }
    let ends_ (n : Nat) : State := (two.writeS 2 1).setStage 1 1 { Stage.reset with ended := n == 1 }
    (after .vote base).me.voted.isSome = true ∧ (me fun x => { x with voted := some (cause cPREEMPT) }).me.voted.isSome = true ∧
    (spoilt base 2).me.resOk 2 = false ∧ ends (.bwait 2 3) (regs [(2, 16)]) = .trapped ∧ ends (.bwait 2 3) (regs [(2, 1)]) = .trapped ∧
    (after (.bwait 2 3) base).me.pc0 = 2 ∧ ends (.bwait 2 3) (regs [(3, 1)]) = .trapped ∧
    (after (.bwait 2 3) (ends_ 1)).me.pc0 = 2 ∧ (after (.bwait 2 3) ((ends_ 0).writeS 3 1)).me.wait = .stage 1 1 ∧
    ends (.fence 0 3) base = .trapped ∧ (after (.fence 31 2) base).me.pc0 = 2 ∧ dep.holds dep.cur .fenced = true ∧
    (after (.fence 4 0) (dep.onMe fun x => { x with inflight := 1 })).me.wait = .again .stored ∧
    dep.holds dep.cur .matrixIdle = true ∧ (after (.ebrk 5) base).me.pc0 = 2 ∧ ends (.ebrk 5) dbg = .halted ∧
    (after (.ebrk 5) (dbg.onMe fun x => { x with windows := [⟨0, 2, [], none, false⟩] })).me.wait = .again .windows ∧
    (after .yld base).me.wait = .yield [0, 1, 2, 3] ∧
    ((after .yld base).settleYields (some base.cur)).me.wait = .yield [0] ∧
    ((after .yld two).settleYields (some two.cur)).me.wait = .yield [0, 1] := by decide +kernel

/-- ControlRegisters: the bounds of each class of numbers, the conditions of FLG and of the format registers. -/
theorem wit_ControlRegisters :
    let q := handled fun t => { t with queue := [cmd 4] }
    let r (s : State) (n : BitVec 8) : State := after (.csrr 4 n) s
    let w (s : State) (n : BitVec 8) : State := after (.csrw 4 2 n) s
    (r base 0x30).me.cause.map TrapInfo.cause = some cPRIV ∧ (r base 0xFF).me.cause.map TrapInfo.cause = some cPRIV ∧
    (r base 5).me.cause.map TrapInfo.cause = some cILLEGAL ∧ (r base 0x2F).me.cause.map TrapInfo.cause = some cILLEGAL ∧
    (w base 4).me.status = .trapped ∧ (w base 0x4F).me.status = .trapped ∧ (w (spoilt base 2) 9).me.status = .trapped ∧
    (r base 1).getS 4 = 1 ∧ (r base 0x4F).getS 4 = 0 ∧ (w (regs [(2, 0xFFFF)]) 9).me.ctl.vfc = 0xF ∧
    (w (regs [(2, 0xFFFF)]) 0x10).me.ctl.dsc = 3 ∧ q.holds q.cur .matrixStarted = false ∧ base.holds base.cur .matrixStarted = true ∧
    (w q 0x0A).me.wait = .again .matrixStarted ∧ (r q 8).me.wait = .again .matrixIdle ∧
    (r (me fun x => { x with windows := [⟨0, 2, [], none, false⟩] }) 8).me.wait = .again .windows ∧ (w (regs [(2, 0xFF)]) 8).me.ctl.flg = 0x7F ∧
    (w (dep.writeS 2 0xFFF) 0x31).me.depot.est = 0x7FF ∧ (r dep 0).free = 1 ∧ (r dep 0x50).free = 1 := by decide +kernel

/-- Privileged: a corridor's strand and the depot's, no event and one, arguments at the ends of their ranges, a
translation that goes and one that stays. -/
theorem wit_Privileged :
    let d (l : List (Reg × Word)) : State := l.foldl (fun s p => s.writeS p.1 p.2) dep
    let cached := (paged dep 0).setDie 0 { (dep.die 0) with walks := [⟨0, 0, none, 0x5000⟩] }
    base.isDepot = false ∧ dep.isDepot = true ∧ ends .wfe base = .trapped ∧ ends .rfe (me fun x => { x with slots := 1 }) = .trapped ∧
    (after .wfe dep).me.wait = .again .event ∧
    (after .wfe (dep.onMe fun x => { x with depot := { x.depot with evt := 4 } })).me.depot.evt = 0 ∧
    (after .rfe (dep.onMe fun x => { x with depot := { x.depot with epq := 6, est := 0x400 } })).me.pc0 = 6 ∧
    (spoilt dep 2).me.resOk 2 = false ∧ (after (.ipost 2 3) (d [(2, 0x800000)])).me.depot.est = 0x401 ∧
    (after (.ipost 2 3) (d [(2, 0x410000)])).host.droppedPosts = 1 ∧ (after (.ipost 2 3) (d [(2, 2048)])).host.droppedPosts = 1 ∧
    ((after (.ipost 2 3) (d [(2, 2047), (3, 9)])).func 0).posted = [(2047, some 9)] ∧
    (after (.tlbi 2 3) (d [(2, 0x40000000)])).me.depot.est = 0x401 ∧ ((after (.tlbi 2 3) (cached.writeS 3 0x4FFF)).tile 0).tlb = [] ∧
    ((after (.tlbi 2 3) (cached.writeS 3 0x3FFF)).tile 0).tlb = [page 0] ∧ ((after (.tlbi 2 3) (cached.writeS 3 0x3FFF)).die 0).walks.length = 1 ∧
    ((after (.tlbi 2 3) (cached.writeS 2 0x30000000)).die 0).walks = [] := by decide +kernel

/-- CorridorTraps and DepotExceptions: a strand that has voted, a residue error, an exception and one within its handler. -/
theorem wit_Exceptions :
    let voted : State := me fun x => { x with voted := some (cause cPREEMPT) }
    let active := dep.onMe fun x => { x with depot := { x.depot with est := 0x400 } }
    base.isDepot = false ∧ (raise cPROT 5 false true voted).me.cause.map TrapInfo.cause = some cPREEMPT ∧
    ((raise cRESIDUE 0 false false base).tile 0).score = 64 ∧
    ((raise cRESIDUE 0 false false (stg fun g => { g with charged := [0] })).tile 0).score = 96 ∧
    dep.me.depot.est.getLsbD 10 = false ∧ active.me.depot.est.getLsbD 10 = true ∧ (raise cDIVZ 0 false false dep).me.depot.est = 0x412 ∧
    dep.me.pc2.toNat < 2 ^ 21 ∧ (raise cDIVZ 0 false false active).me.status = .stopped ∧
    (raise cDIVZ 0 false false { active with depot := { active.depot with booted := some 0 } }).depot.booted = some 0x0F := by
  decide +kernel

/-- BarrierEvents: each event of a superstep's end in a state where it does its work, and where it waits. -/
theorem wit_BarrierEvents :
    let arriving := me fun x => { x with status := .arriving }
    let more := arriving.setStrand ⟨1, 0, 1⟩ { Strand.reset with status := .running }
    let at_ (p : Phase) : State := stg fun g => { g with phase := p }
    let decided (d : Bool) : State := (at_ .decided).onStage 1 0 fun g => { g with decision := some d }
    let heard (d : Bool) : State := ((decided d).onStage 1 0 fun g => { g with phase := .apply }).setMine { base.mine with decided := some d }
    let failed := (me fun x => { x with status := .trapped, cause := some (cause cSTRIKE) }).setStage 1 0 { Stage.reset with agn := 2 }
    let service (c : BitVec 8) (b : Bool) : State := stg fun g => { g with phase := .service, serviced := b, refetched := b, firstCause := some (cause c) }
    base.parent 1 = none ∧ base.children 1 = [] ∧ ((after (.arrival ⟨1, 0, 0⟩) arriving).stage 1 0).phase = .quiesce ∧
    ((after (.arrival ⟨1, 0, 0⟩) more).stage 1 0).phase = .compute ∧ base.nothingUnderWay 1 0 = true ∧ base.pendingSum 1 0 = 0 ∧
    ((after (.quiesce 1 0) (at_ .quiesce)).stage 1 0).phase = .horizon ∧
    ((at_ .quiesce).setMine { base.mine with pending := 1 }).pendingSum 1 0 = 1 ∧
    ((after (.linkTimeout 1 0) (at_ .quiesce)).stageTile 1 0 0).tileCause.isSome = true ∧
    ((after (.strikeHorizon 1 0) (at_ .horizon)).stage 1 0).phase = .vote ∧
    ((after (.strikeHorizon 1 0) (stg fun g => { g with phase := .horizon, horizonAt := 1 })).stage 1 0).phase = .horizon ∧
    ((after (.junctionVote 1 0) (at_ .vote)).stage 1 0).decision = some true ∧
    ((after (.junctionDecision 1 0 0) (decided true)).stageTile 1 0 0).decided = some true ∧
    (after (.junctionDecision 1 0 0) (decided false)).me.status = .stopped ∧ (failed.stage 1 0).undecided = true ∧
    failed.earlyCause 1 0 = true ∧ ((after (.earlyAbort 1 0) failed).stage 1 0).decision = some false ∧
    ((after (.rollback 1 0 0) (heard false)).stage 1 0).phase = .service ∧ (base.cor 1).reruns cPREEMPT = true ∧
    (base.cor 1).reruns cILLEGAL = false ∧ (service cSTRIKE true).askOpen 1 0 = false ∧
    ((after (.causeService 1 0) (service cPREEMPT true)).stage 1 0).phase = .compute ∧
    ((after (.causeService 1 0) (service cILLEGAL false)).cor 1).state = .halted ∧ (base.cor 1).reruns cSTRIKE = true ∧
    ((after (.causeService 1 0) (service cSTRIKE false)).cor 1).state = .halted ∧
    ((after (.causeService 1 0) (service cPREEMPT false)).stage 1 0).serviced = true := by decide +kernel

/-- CommitEvents: each event of a commit and of what it releases, where it does its work. -/
theorem wit_CommitEvents :
    let ready := (stg fun g => { g with phase := .apply, decision := some true }).setMine
      { base.mine with decided := some true, loc := [(0x10000, 7)] }
    let left := (stg fun g => { g with farDone := false, farReady := true, farLeft := [⟨0, 0, 0, 0, [(0x5000, 9)], [(0x5010, 1)], []⟩] })
    let rel (h : HeldOp) : State := me fun x => { x with released := [h] }
    let amo (op : BitVec 5) : State := { base with atomics := [⟨⟨1, 0, 0⟩, 0x5000, 8, op, 5, 0, 9, false⟩] }
    let sent (e : Bool) : State := { (stg fun g => { g with ended := e }) with travelling := [⟨1, 1, 0, 0, 0, 0, 0, [(0x10000, 7)], []⟩] }
    let due (base_ : Word) (d : Bool) : State :=
      let s := (paged base 0).setCor 1 { base.cor 1 with record := (base.cor 1).record.set 5 base_ }
      s.setStage 1 0 { Stage.reset with resultDue := some [1, 2], farDone := d }
    ((after (.commitDrain 1 0 0) ready).stage 1 0).mm = 1 ∧ Mem.read ((after (.commitDrain 1 0 0) ready).tile 0).mem 0x10000 = 7 ∧
    rising (ready.mine.applied 0) = true ∧ (left.stage 1 0).farLeft.flatMap FarLog.lines = [320] ∧ left.reaches 0 (64 * 320) = true ∧
    Mem.read (after (.farDrainEntry 1 0) left).far.mem 0x5000 = 9 ∧ Mem.load (after (.farDrainEntry 1 0) left).far.mem 0x5010 16 = 1 ∧
    ((after (.commitFarComplete 1 0) (stg fun g => { g with farReady := true, farDone := false })).stage 1 0).farDone = true ∧
    Mem.read (after (.heldOpRelease ⟨1, 0, 0⟩) (rel (.store 0x5000 [8]))).far.mem 0x5000 = 8 ∧
    (after (.heldOpRelease ⟨1, 0, 0⟩) (rel (.amo 0x5000 8 0 5 0 9))).atomics.length = 1 ∧
    ((after (.heldOpRelease ⟨1, 0, 0⟩) (rel (.send 3 [1]))).host.sendQueues).length = 1 ∧
    Mem.load (after (.atomicExecute 0) (amo 0)).far.mem 0x5000 8 = 5 ∧ Mem.load (after (.atomicExecute 0) (amo 9)).far.mem 0x5000 8 = 5 ∧
    (after (.amoiResult ⟨1, 0, 0⟩) { base with amoResults := [⟨⟨1, 0, 0⟩, 9, 0, 5⟩] }).me.mailbox.length = 1 ∧
    Mem.read ((after (.crossStageDelivery 0) (sent true)).tile 0).mem 0x10000 = 7 ∧
    (after (.crossStageDelivery 0) (sent false)).travelling.length = 1 ∧ base.crossShare 1 0 = 0 ∧
    ((after (.resultAreaWrite 1 0) (due 0 true)).stage 1 0).resultDue = none ∧
    Mem.load (after (.resultAreaWrite 1 0) (due 0x4000 true)).far.mem 0 8 = 0 ∧
    ((base.setCor 1 { base.cor 1 with state := .halted, completion := some [1] }).ending 1).isSome = true ∧
    ((after (.corridorCompletion 1) (base.setCor 1 { base.cor 1 with state := .halted, completion := some [1] })).strands).length = 0 := by
  decide +kernel

/-- CopyEvents: each event of the windows, the lay-by, the engine, the mailbox and the stager, where it does its work. -/
theorem wit_CopyEvents :
    let win (r : Option FarRead) (l : Bool) : State := me fun x => { x with windows := [⟨4, 2, [(.s 3, .s 7)], r, l⟩] }
    let fill (done : Bool) : CopyCmd := { sending 8 with w0 := 0xA000904, w1 := 0x77, w2 := 0x10000, w3 := 2, done }
    let lay (w : Wait) (m : List MailEntry) : State := me fun x => { x with wait := w, mailbox := m }
    let m : MailEntry := ⟨9, 0, 1, 0x55, 0⟩
    let owed (st : UnitState) : State := (paged base 0).setMine { base.mine with staged := [unit st] }
    let rec_ := (base.setDie 0 { base.die 0 with directory := [⟨5, 1, 0, 0, (0, 0, 0, 0x10000), [320]⟩] })
    (after (.windowDataLands ⟨1, 0, 0⟩ 4) (win none false)).me.allLanded = true ∧ base.reaches 0 0x5000 = true ∧
    (after (.farReadServe ⟨1, 0, 0⟩ 4) (win (some ⟨0x4000, 0x5000, 8, .s 3, 0, 0⟩) false)).me.windows.all (fun y => y.read.isNone) = true ∧
    ((after (.remoteDeltaAccept 1 0 0) ((duo false).setMine { base.mine with outbound := [⟨1, 0, 0, 0, 0, [(0x10000, 7)], false, 1⟩] })).stageTile
      1 1 0).inbound.length = 1 ∧
    (after (.laybyWake ⟨1, 0, 0⟩) (lay (.mail 3) [m])).getS 3 = 1 ∧ (after (.laybyWake ⟨1, 0, 0⟩) (lay (.mailTimed 3 99) [m])).getS 3 = 1 ∧
    (after (.laybyWake ⟨1, 0, 0⟩) (lay (.stage 0 0) [])).me.pc0 = 2 ∧ (after (.mbwTimeout ⟨1, 0, 0⟩) (lay (.mailTimed 3 0) [])).me.pc0 = 2 ∧
    (me fun x => { x with fifo := [fill false] }).engineNext 0 = some ⟨1, 0, 0⟩ ∧
    (after (.fill ⟨1, 0, 0⟩ 0) (me fun x => { x with fifo := [fill false] })).readView 0x10000 2 = [0x77, 0x77] ∧
    (after (.commandComplete ⟨1, 0, 0⟩ 0) (me fun x => { x with running := [fill true] })).me.running = [] ∧
    (after (.mailboxPost ⟨1, 0, 0⟩) (me fun x => { x with mailWaiting := [m] })).me.mailbox = [m] ∧
    ((after (.stagerUnitFetch 1 0 0 0) (owed .queued)).mine.staged.map fun u => u.st matches .fetched _ _) = [true] ∧
    (paged base 1).farAt 1 0 0x4000 ⟨true, false, true⟩ = .at_ 0x5000 1 ∧ ((owed .queued).stagerNext 0).map Prod.fst = some (1, 0, 0, 0) ∧ base.stagerNext 0 = none ∧
    (owed .queued).walkFull 1 0 0x4000 = false ∧ base.mayLand 1 0 = true ∧ (owed (.fetched 5 [])).forwarded 1 0 0 (unit (.fetched 5 [])) = true ∧
    (rec_.records 1 0).length = 1 ∧ (((after (.stagedCopyForward 1 0 0) rec_).die 0).directory.map DirRec.due) = [[]] := by
  decide +kernel

/-- ReliabilityEvents: each threshold at its edge, each report with its effect. -/
theorem wit_ReliabilityEvents :
    let tile (f : Tile → Tile) : State := base.setTile 0 (f (base.tile 0))
    let clu (k : Cluster) : State := base.setCluster 0 0 k
    let errs (n : Nat) : State := { State.reset with far := { State.reset.far with faulty := if n = 1 then [(5, .rewritten)] else [(5, .again)] } }
    ((after (.strikeReport 0 0) base).stageTile 1 0 0).tileCause.isSome = true ∧ (base.die 0).uncovered = [] ∧
    ((after (.sensorSelfTest 0 0 3) base).die 0).uncovered = [] ∧ ((after (.sensorSelfTest 0 0 1) base).die 0).uncovered = [0] ∧
    ((after (.eccError (.sram 0 64 none) false) base).tile 0).score = 1 ∧ (base.stageVts 1 0).find? (fun v => base.phys 1 v == 0) = some 0 ∧
    (after (.lineRetire 320) (errs 1)).far.retired = [] ∧ (errs 2).allStopped 320 = true ∧ (after (.lineRetire 320) (errs 2)).far.retired = [0] ∧
    ((after .suspicionDecay (tile fun t => { t with score := 5 })).tile 0).score = 4 ∧
    ((after (.tileWithdraw 0) (tile fun t => { t with score := 1024 })).tile 0).closed = true ∧
    ((after (.targetedTest 0 true) (tile fun t => { t with testing := true, score := 9 })).tile 0).score = 4 ∧
    ((after (.targetedTest 0 false) (tile fun t => { t with testing := true })).tile 0).fenced = true ∧
    ((after (.ageingMonitorRead 0 0 100 96) base).cluster 0 0).age = 4 ∧ ((after (.ageingMonitorRead 0 0 100 95) base).cluster 0 0).fenced = true ∧
    base.quietCluster 0 1 = true ∧ ((after (.clockStepApply 0 1) base).cluster 0 1).step = 0 ∧
    (clu ⟨0, 3, 0, 1, false, false, false, some 97⟩).cluster 0 0 = ⟨0, 3, 0, 1, false, false, false, some 97⟩ ∧
    (after (.modulePowerEvent 1950) base).power.moduleStepped = false ∧ (after (.modulePowerEvent 1951) base).power.moduleStepped = true ∧
    (after (.coreCurrentEvent 3801 0) base).power.coreStepped = true ∧ (after (.thermalEvent 0 0 125) base).power.removed = true ∧
    ((after (.thermalEvent 0 0 105) base).cluster 0 0).hot = true := by decide +kernel

/-- DepotEvents: a running depot strand, a timer at 1, an offline asked for and in each phase, a notice answered and late. -/
theorem wit_DepotEvents :
    let off (a : Option (Nat × Bool)) (p : Nat) (l : List (Nat × Nat × Nat × Nat × Nat × Nat)) : State :=
      { State.reset with depot := { State.reset.depot with offline := ⟨a, [], p, 0, 0, 0, 0, 0, 0, 0, l, [], []⟩ } }
    let used : State := { base.setVtile 1 0 { base.vtile 1 0 with phys := 144 } with depot := (off (some (1, false)) 2 []).depot }
    let paged : State := { (off (some (1, false)) 2 []) with
      depot := { (off (some (1, false)) 2 []).depot with roots := [(0, 0x30000000000)] } }
    isDepotId dep.cur = true ∧ (after (.depotException dep.cur cDIVZ 0) dep).me.depot.est = 0x412 ∧
    (after (.dtmExpire dep.cur) (dep.onMe fun x => { x with depot := { x.depot with dtm := 1 } })).me.depot.evt = 4 ∧
    bit 7 3 = false ∧ bit 8 3 = true ∧ (after (.oflReq 9) (off none 0 [])).depot.offline.active.isSome = true ∧
    (after (.dieControllerFailure 2) (off none 0 [])).depot.offline.die = 2 ∧ (off (some (1, false)) 1 []).fitsWithout 1 = true ∧
    (after (.dieOffline 1) (off (some (1, false)) 1 [])).depot.offline.phase = 2 ∧ (off (some (1, false)) 2 []).cleared 1 = true ∧
    ((after (.dieOffline 3) (off (some (1, false)) 3 [])).die 1).fenced = true ∧
    used.cleared 1 = false ∧ ((after (.dieOffline 2) used).cor 1).state = .stopping ∧
    paged.pagesOn 1 = [(0x30000000000, 4096)] ∧ ((after (.dieOffline 11) paged).tile 7).score = 256 ∧
    (after (.rmpAck 4) (off (some (1, false)) 2 [(4, 0, 0, 0, 0, 0)])).depot.offline.notices = [] ∧
    (after (.rmpTimeout 4) (off (some (1, false)) 2 [(4, 0, 0, 0, 0, 0)])).depot.offline.result = 3 := by decide +kernel

/-- DepotEvents: boot with no die, with a table that does not pass, and with every die good. -/
theorem wit_Boot :
    let b (d : Bool) (t : List Byte) : BootInput := ⟨List.replicate 4 d, List.replicate 4 0, List.replicate 4 0, 0, [], t, [], []⟩
    let s (x : BootInput) : State := after (.boot x) State.reset
    (∀ d ∈ bootDies (b false []) [0, 0, 0, 0] 0, d.2 = false) ∧ (s (b false [])).depot.booted = some 0x05 ∧
    (∃ d ∈ bootDies (b true []) [0, 0, 0, 0] 0, d.2 = true) ∧ tableOk (b true []).table = false ∧ (s (b true [])).depot.booted = some 0x06 := by
  decide +kernel

/-- QueueEvents: a doorbell that is dropped and one that counts, a queue mapped, given up and refused, each kind of record
refused and accepted, a launch placed. -/
theorem wit_QueueEvents :
    let q (f : Queue → Queue) : State := base.setQueue 7 (f Queue.reset)
    let req (kind : Word) (st : CorState) : State :=
      let s := taken ([kind + 0x100000100, 0, 0, 0, 0, 0, 0x301000] ++ List.replicate 25 0)
      s.setCor 1 { s.cor 1 with state := st }
    let waiting := after (.launch 0) (taken record)
    let want : Taken := ⟨7, [0x100000102, 0, 0, 0, 0, 0, 0x301000], 0, none, 3, 0, 0⟩
    let fits (x : Except Verdict Unit) : Option Verdict := match x with | .ok _ => none | .error v => some v
    let ap : Aperture := ⟨0, 0x40000000, 9, 3, 0⟩
    let afar : State := (taken record).onHost fun h => { h with apertures := [((0, 0), ap)] }
    let asked : Ask := .probe ap 0 0x301000 ⟨false, true, false⟩
    (after (.doorbell 1 7) base).host.droppedDoorbells = 1 ∧ (after (.doorbell 0 1024) base).host.droppedDoorbells = 1 ∧
    ((after (.doorbell 0 7) base).queue 7).pending = false ∧ (q fun x => { x with mapped := true }).firstQueue Queue.mapped = some 7 ∧
    base.tableUsed = 0 ∧ (q fun x => { x with pending := true }).firstQueue Queue.pending = some 7 ∧
    ((after .queueMap (q fun x => { x with pending := true })).queue 7).pending = false ∧
    ((after (.queueSlotTimeout 7) (q fun x => { x with mapped := true })).queue 7).pending = true ∧
    (match (taken record).launchCheck ⟨7, record, 0, none, 3, 0, 0⟩ with | .ok im => im.strands == 1 | .error _ => false) = true ∧
    (waiting.cor 2).state = .waiting ∧ (match (taken []).launchCheck ⟨7, [], 0, none, 3, 0, 0⟩ with | .ok _ => false | .error e => e == .refuse 1) = true ∧
    fits ((req 2 .running).requestCheck want (fun x => x == .running)) = none ∧
    ((after (.preempt 0) (req 2 .running)).cor 1).requests.length = 1 ∧ ((after (.preempt 0) (req 2 .swapped)).cor 1).hostHeld = true ∧
    fits ((req 2 .ended).requestCheck want (fun x => x == .running)) = some (.refuse 0x0B) ∧
    fits ((afar.setCor 1 { afar.cor 1 with state := .running }).requestCheck want (fun x => x == .running)) = some (.ask asked) ∧
    (match afar.launchCheck ⟨7, record, 0, none, 3, 0, 0⟩ with | .error (.ask _) => true | _ => false) = true ∧
    ((after (.resume 0) (req 3 .swapped)).cor 1).resumeReqs.length = 1 ∧ waiting.overtaken 2 = false ∧
    (waiting.findPlace 2 (waiting.cor 2)).isSome = true ∧ ((after (.launchPlace 2) waiting).cor 2).state = .running := by
  decide +kernel

/-- CorridorControl: requests of each kind, a corridor that stops, is swapped out, exported, resumed and killed; the
debugger's acts. -/
theorem wit_CorridorControl :
    let asked (imm kill : Bool) : State := cor fun k => { k with requests := [⟨imm, kill, 2, none, 0, true⟩] }
    let timed := cor fun k => { k with requests := [⟨false, false, 2, none, 0, true⟩], record := k.record.set 1 0x100 }
    let stopping := (stg fun g => { g with phase := .stopped }).setCor 1 { base.cor 1 with state := .stopping }
    let swapped := cor fun k => { k with state := .swapped }
    let held : State := { swapped with depot := { swapped.depot with
      roots := [(0, 0x30000000000)], offline := { swapped.depot.offline with active := some (1, false), phase := 2 } } }
    let dbg := cor fun k => { k with record := k.record.set 0 0x0000000100010101 }
    let halted := me fun x => { x with status := .halted }
    bits ((base.cor 1).word 1) 15 8 = 0 ∧ bits ((timed.cor 1).word 1) 15 8 = 1 ∧
    ((after (.drainTimeout 1) timed).cor 1).requests = [⟨true, false, 2, none, 0, true⟩] ∧ ((asked true false).cor 1).live = true ∧
    ((asked true false).stage 1 0).undecided = true ∧ ((after (.immediatePreempt 1) (asked true false)).cor 1).guardClass = some 2 ∧
    ((after (.kill 1) (asked false true)).cor 1).state = .killed ∧ stopping.stoppedAll 1 = true ∧ stopping.ending 1 = none ∧
    stopping.settled 1 = true ∧ ((after (.swapOut 1) stopping).cor 1).state = .swapped ∧ swapped.wantsTiles 1 = false ∧
    swapped.awaitsOffline 1 = false ∧ held.awaitsOffline 1 = true ∧
    ((after (.corridorResume 1 []) held).cor 1).state = .swapped ∧ swapped.outrun 1 = false ∧ swapped.givesWay 1 = false ∧ ((after (.corridorResume 1 []) swapped).cor 1).state = .running ∧
    (swapped.setTile 0 { swapped.tile 0 with closed := true }).wantsTiles 1 = true ∧ swapped.placeOk 1 (swapped.cor 1) [20] = true ∧
    (cor fun k => { k with state := .exported }).overtaken 1 = false ∧
    ((cor fun k => { k with state := .exported }).findPlace 1 (base.cor 1)).isSome = true ∧ (dbg.cor 1).debug = true ∧ (dbg.cor 1).live = true ∧
    ((after (.hostHaltRequest 1) dbg).cor 1).haltedBy = true ∧ (base.cor 1).debug = false ∧ (base.cor 1).haltedBy = false ∧
    (after (.debugStateWrite ⟨1, 0, 0⟩ (.pcs 2 4 6)) halted).me.pc0 = 2 ∧ (after (.debugStateWrite ⟨1, 0, 0⟩ (.pcs 2 4 0x10000)) halted).me.pc0 = 0 ∧
    (after (.debugStateWrite ⟨1, 0, 0⟩ (.csr 16 7)) halted).me.ctl.dsc = 3 ∧ (after (.singleStep ⟨1, 0, 0⟩) halted).me.stepping = true ∧
    ((after (.debugResume 1) (cor fun k => { k with haltedBy := true })).cor 1).haltedBy = false ∧
    (after (.debugResume 1) halted).me.status = .running ∧
    (after (.debugResume 1) ((cor fun k => { k with haltedBy := true }).onMe fun x => { x with status := .arrived, stepping := true })).me.stepping = true := by decide +kernel

/-- AddressChecks: each check of the far and the tile spaces alone, at the edge of its range. -/
theorem wit_AddressSpaces :
    let a (ea : Word) (align : Nat) (wr : Bool) : Addr := base.checkAddr ea true anySpace align 8 wr
    let f (ea : Word) : Addr := base.checkAddr ea true onlyFar 8 8 false
    a 0x8001000000000000 8 false = .bad cPROT ∧ a 0x8000FFFFFFFFFFF8 8 false = .ok (.far 0xFFFFFFFFFFF8) ∧
    f 0x8000000000000004 = .bad cALIGN ∧ f 0x10000 = .bad cPROT ∧ f 0x4000000000010000 = .bad cPROT ∧
    f 0xC000000000000000 = .bad cPRIV ∧ base.checkAddr 0 false anySpace 8 8 false = .bad cRESIDUE ∧
    a 0x200000 8 false = .bad cPROT ∧ a 0x10004 8 false = .bad cALIGN ∧ a 0x1F0000 8 false = .bad cPROT ∧
    a 0x10000 8 true = .ok (.loc 0x10000) ∧ a 0x4000002000000000 8 false = .bad cPROT ∧
    a 0x4000000000010004 8 false = .bad cALIGN ∧ a 0x4000000000210000 8 false = .bad cPROT ∧
    a 0x4000000000010000 8 true = .ok (.loc 0x10000) ∧ a 0x400000000000FFF8 8 true = .bad cPROT ∧
    (duo false).checkAddr 0x4000000000210000 true anySpace 8 8 true = .ok (.tsp 1 0x10000) ∧
    dep.checkAddr 0x4000000047E10000 true anySpace 8 8 false = .ok (.tsp 575 0x10000) ∧
    dep.checkAddr 0x4000000048010000 true anySpace 8 8 false = .bad cPROT := by decide +kernel

/-- FarStores, Accumulates and ImmediateAtomics: a full verge buffer, and a page that is not mapped. -/
theorem wit_FarTraps :
    let go (i : Instr) (s : State) : Option (BitVec 8) := (after i (s.writeS 2 0x8000000000004000)).me.cause.map TrapInfo.cause
    go (.stfD ⟨1, 2, 0⟩) (full (paged base 0)) = some cDELTA_FULL ∧ go (.stfD ⟨1, 2, 0⟩) (full (paged base 1)) = some cDELTA_FULL ∧
    go (.accI64 2 3) (full (paged base 2)) = some cDELTA_FULL ∧ go (.amoiD o3 0) (full (paged base 1)) = some cDELTA_FULL ∧
    (match base.farAt 1 0 0x4000 ⟨false, true, true⟩ with | .bad f => go (.accI64 2 3) base == some f.cause | _ => false) = true ∧
    go (.amoiD o3 0) base = go (.accI64 2 3) base := by decide +kernel

/-- BarrierEvents: a tile whose own writes and another's meet, checked for conflicts and not; a run whose units are fetched again; a
tile that has a path for what it sent; a rerun that restores a strand. -/
theorem wit_ConflictsAndReruns :
    let meets (check : Word) : State :=
      let s := (cor fun k => { k with record := k.record.set 0 check }).setMine
        { base.mine with loc := [(0x10000, 7)], inbound := [⟨1, 3, 0, [(0x10000, 8)]⟩] }
      s.setStage 1 0 { Stage.reset with phase := .horizon }
    let service (b : Bool) : State :=
      (stg fun g => { g with phase := .service, serviced := true, refetched := b, firstCause := some (cause cSTRIKE) }).setMine
        { base.mine with staged := [unit (.marked 5)] }
    let tile (s : State) : Option (BitVec 8) := (s.stageTile 1 0 0).tileCause.map TrapInfo.cause
    tile (after (.strikeHorizon 1 0) (meets 0x20000)) = some cWRITE_CONFLICT ∧ tile (after (.strikeHorizon 1 0) (meets 0)) = none ∧
    ((meets 0).stage 1 0).resumed = false ∧ (service false).servicing 1 0 = false ∧ ((service false).stage 1 0).linkFailed = false ∧
    (after (.causeService 1 0) (service false)).mine.staged.map FetchUnit.st = [.queued] ∧ (service true).unfetched 1 0 = false ∧
    (service true).struck 1 0 = false ∧ base.stageIds 1 0 = [⟨1, 0, 0⟩] ∧ base.stageVts 1 0 = [0] ∧
    (base.strand ⟨1, 0, 0⟩).status = .running ∧
    ((after (.causeService 1 0) (service true)).stage 1 0).agn = 1 ∧ (duo false).cutTile 1 0 0 = false ∧
    (((me fun x => { x with pc0 := 8 }).rerun 1 0).strand ⟨1, 0, 0⟩).pc0 = 0 := by decide +kernel

/-- CommitEvents: writes of each kind to one byte, whose last one stands; a line that this package writes and one that a peer homes;
strands that resume, contribute and end. -/
theorem wit_CommitOrder :
    let w (vt seq : Nat) (b : Byte) : Delta := ⟨vt, 0, seq, [(5, b)]⟩
    let put (loc : Overlay) (inb bc : List Delta) (cr : List CrossIn) : Option Byte :=
      cellAt ({ base.mine with loc, inbound := inb, bcast := bc, crossIn := cr, crossVoted := 2 }.applied 2) 5
    let x (mm : Word) (b : Byte) : CrossIn := ⟨1, mm, 0, 0, 0, [(5, b)], []⟩
    let log (pa : Nat) : State := stg fun g =>
      { g with phase := .apply, decision := some true, farReady := true, farLeft := [⟨0, 0, 0, 0, [(pa, 9)], [], []⟩] }
    let arrived (k : BarKind) : State := me fun y => { y with status := .arrived, arrival := some ⟨k, 0, 0, 1, [5], 0⟩, pc1 := 4, pc2 := 6 }
    let ends := (arrived .fin).resumeStrand (base.stage 1 0) ⟨1, 0, 0⟩
    put [] [] [] [x 1 3, x 0 4] = some 3 ∧ put [(5, 1)] [] [] [x 1 3] = some 1 ∧ put [(5, 1)] [w 1 0 6] [] [] = some 1 ∧
    put [(5, 1)] [w 1 0 6, w 3 0 7] [] [] = some 7 ∧ put [(5, 1)] [w 3 1 8, w 3 0 7] [] [] = some 8 ∧
    put [(5, 1)] [w 3 0 7] [w 0 0 9] [] = some 9 ∧ put [] [] [] [] = none ∧
    (log 0x5000).farAccepted 1 0 = true ∧ (log 0x5000).anyCutOff 1 0 = false ∧ peerOf 0x800000000005000 ≠ none ∧
    (log 0x800000000005000).farAccepted 1 0 = false ∧ (log 0x800000000005000).anyCutOff 1 0 = false ∧
    (base.stageVts 1 0).all (fun v => (base.stageTile 1 v 0).tileCause.isNone) = true ∧
    (((arrived .bar).finishCommit 1 0).stage 1 0).mm = 1 ∧ (((arrived .bar).resumeStrand (base.stage 1 0) ⟨1, 0, 0⟩).strand ⟨1, 0, 0⟩).pc0 = 4 ∧
    (ends.strand ⟨1, 0, 0⟩).status = .ended ∧ Mem.wf (base.tile 0).mem = true := by decide +kernel

/-- QueueEvents, DepotEvents and HostLinkEvents: a queue whose record a peer holds, a ring without room, images that a layer has and
has not, a die without walks. -/
theorem wit_LayersAndRings :
    let away := apertured (base.onHost fun h => { h with notifyPages := [(0, 0x4000)] }) none
    let rung := base.setQueue 7 { Queue.reset with rung := true }
    let im : Survival := ⟨1, true, 3, 3, [], [], [], [], [], [], 0x9000, []⟩
    let kept : State := { base with depot := { base.depot with images := [im], flash := [{ im with serial := 4 }] } }
    away.queueAway 7 = true ∧ base.queueAway 7 = false ∧ ((after (.doorbell 0 7) away).queue 7).rung = true ∧
    (after (.doorbell 0 7) away).fabric.open_.length = 1 ∧ (rung.host.queues.filter fun p => p.2.rung).map Prod.fst = [7] ∧
    ((after .queueMap rung).queue 7).rung = false ∧ (kept.imagesOf 1).length = 1 ∧
    (after (.flashLayerWrite 1 3) kept).depot.flash.map Survival.serial = [3, 4] ∧
    (after (.flashLayerWrite 1 9) kept).depot.flash.map Survival.serial = [4] ∧
    (after (.registerWrite 0 (.keepImage 1) 4) kept).depot.store.map Survival.serial = [4] ∧ base.die 0 = Die.reset ∧
    ((cor fun k => { k with image := { k.image with x := 0 } }).takeImage 1).isSome = true ∧
    ((List.range 4).foldl (fun s d => s.setDie d { s.die d with draining := true }) base).takeImage 1 = none ∧
    base.lightway.failedPairs = [] ∧ mapped.fabric.writes = [] ∧ mapped.host.inbound = [] ∧
    KMap.get? base.far.faulty 320 = none ∧
    (let ring : State := { base with
      depot := { base.depot with ctxRoots := [(0, 0x100000)], offline := { base.depot.offline with
        active := some (1, false), phase := 2, rmpBase := 0x200000, rmpHead := 4, rmpTail := 3 } }
      far := { base.far with mem := Mem.store (Mem.store [] 0x101000 8 0x3000000017B) 0x100000 8 0x101039 } }
     ring.cleared 1 = true ∧ ring.ringFull 1 = true ∧ ring.imageOn 1 = none ∧ (after (.dieOffline 2) ring).depot.offline.left = 1 ∧
     (after (.rmpTimeout 4) ring).depot.offline.result = 3) := by decide +kernel

/-- FabricEvents: circuits at the edges of their ranges, a bad flit, lanes, requests and replies of each kind, a
message with and without a buffer. -/
theorem wit_FabricEvents :
    let quiet := State.reset
    let lit (n : Nat) : State := { quiet with lightway := { quiet.lightway with retuning := [(n, ⟨0, 1, true, 3⟩)] } }
    let rq (k : FabricKind) (age : Nat) : FabricReq := ⟨9, k, 0, 0, 0, age, 0, 0, 0x5000, 2, [1, 2], 0⟩
    let e : Trans := ⟨9, 0, 0, 0, .rd, 0, 0, 0, 0, 0x5000, 8, 0, [], .drain 1 0⟩
    let open_ (n : Nat) : State := { base with fabric := { base.fabric with open_ := [{ e with attempt := n }] } }
    let buffer := { mapped with host := { mapped.host with recvBuffers := [(3, [(0, 0x400000)])] } }
    let sends := mapped.onHost fun h => { h with sendQueues := [(3, { SendQueue.reset with inflight := [⟨⟨1, 0, 0⟩, 6, []⟩], ring := 0x600000 })] }
    quiet.standingBut depotCor 0 = true ∧ base.standingBut depotCor 0 = false ∧
    (after (.connectionTableWrite 15 0) base).lightway.pending.length = 1 ∧ (after (.connectionTableWrite 1023 0x14) quiet).lightway.retuning.length = 1 ∧
    (after (.connectionTableWrite 1024 0x14) quiet).lightway.retuning = [] ∧ (after (.connectionTableWrite 1023 0x10) quiet).lightway.retuning = [] ∧
    (KMap.get? (after (.retuningComplete 20) (lit 20)).lightway.circuits 20).map Circuit.state = some 1 ∧ (quiet.circuit 16).state ≠ 2 ∧
    (after (.circuitLockLoss 1023) quiet).lightway.circuits.length = 1 ∧ quiet.spare.isSome = true ∧
    ((after (.circuitLockLoss 11) quiet).lightway.standIn).length = 1 ∧ (quiet.port 17).down = false ∧
    ((after (.flitReceive 17 []) quiet).port 17).replays = 1 ∧ ((after (.laneFailure 17 7) quiet).port 17).retraining = true ∧
    (((after (.laneFailure 17 7) quiet).port 17).failed) = [7] ∧ widthOf [0, 2, 4, 6] = 0 ∧
    ((after (.retrainComplete 3) (quiet.setPort 3 { Port.reset with retraining := true, failed := [7] })).port 3).retraining = false ∧
    Mem.read (after (.fabricRequest (rq .wr 0)) quiet).far.mem 0x5001 = 2 ∧ (after (.fabricRequest (rq .wr 0)) quiet).fabric.dups.length = 1 ∧
    ((after (.fabricRequest (rq .wr 0)) (after (.fabricRequest (rq .wr 0)) quiet)).fabric.dups).length = 1 ∧
    ((after (.fabricRequest (rq .rd 289)) quiet).fabric.sentReplies.map FabricRep.status) = [.stale] ∧
    ((after (.fabricRequest (rq .rd 288)) quiet).fabric.sentReplies.map FabricRep.status) = [.ok] ∧
    ((after (.fabricRequest (rq .rd 0)) { quiet with far := { quiet.far with poison := [0x5000] } }).fabric.sentReplies.map
      FabricRep.status) = [.cause cECC] ∧ (after (.busyRetry 9 0) quiet).fabric.open_ = [] ∧
    ((after (.busyRetry 9 0) (open_ 1)).fabric.open_.map Trans.age) = [1] ∧
    (after (.fabricReply ⟨9, 1, 0, .ok, 0, [], 3⟩) (open_ 0)).fabric.open_.length = 1 ∧
    (after (.fabricReply ⟨9, 0, 0, .busy, 0, [], 3⟩) (open_ 0)).fabric.open_.length = 1 ∧
    (after (.fabricReply ⟨9, 0, 0, .ok, 0, [], 3⟩) (open_ 0)).fabric.open_.length = 0 ∧
    ((after (.fabricAttemptTimeout 9 0) (open_ 2)).fabric.open_.map Trans.attempt) = [3] ∧
    (after (.fabricAttemptTimeout 9 0) (open_ 3)).fabric.quarantine = [(9, 0)] ∧
    (after (.ueInboundMessage 3 [1]) base).host.droppedMessages = 1 ∧ Mem.read (after (.ueInboundMessage 3 [5]) buffer).far.mem 0x400000 = 5 ∧
    ((KMap.getD (after (.ueMessageDone 3 false) sends).host.sendQueues 3 SendQueue.reset).reports) = 1 ∧
    Mem.load (after (.ueMessageDone 3 false) sends).far.mem 0x600008 8 = 6 := by decide +kernel

/-- HostLinkEvents: a PASID in use and not, a walk that fails and one that succeeds, host accesses, a function's reset, each
answer to a page fault, registers at the ends of their ranges. -/
theorem wit_HostLinkEvents :
    let walks (va : Nat) : State := mapped.setDie 0 { (mapped.die 0) with walks := [⟨0, 0, none, va⟩] }
    let fault : State := mapped.onHost fun h => { h with faults := [⟨4, 0, 1, 0, 0, 0x5000, false, false, true⟩] }
    let ask : State := mapped.onHost fun h => { h with pageRequests := [⟨1, 0, 0x5000, 0, 0, false⟩] }
    base.pasidQuiet 0 = false ∧ base.pasidQuiet 1 = true ∧ (match walk mapped 0 none ⟨false, false, false⟩ 0x5000 with | .ok e => e.size == 0x40000000 | _ => false) = true ∧
    (match walk mapped 0 none ⟨false, false, false⟩ 0x40000000 with | .ok _ => false | .error _ => true) = true ∧
    ((after (.walkComplete 0) (walks 0x5000)).tile 0).tlb.length = 1 ∧ ((after (.walkComplete 0) (walks 0x40000000)).die 0).walks = [] ∧
    Mem.read (after (.bar2Access ⟨0, 0x5000, 1, some [9], none⟩) mapped).far.mem 0x5000 = 9 ∧
    (after (.bar2Access ⟨0, 0x40000000, 1, some [9], none⟩) mapped).host.failedAccesses = 1 ∧ (after (.bar2Access ⟨0, 0x5000, 1, none, none⟩) mapped).host.answers.length = 1 ∧
    Mem.load (after (.bar2Access ⟨0, 0x5000, 8, none, some ⟨0, 5, 0⟩⟩) mapped).far.mem 0x5000 8 = 5 ∧
    (after (.bar2Access ⟨0, 0x40000000, 8, none, some ⟨0, 5, 0⟩⟩) mapped).host.answers.length = 1 ∧
    (after (.bar2Access ⟨0, 0x4000, 1, none, none⟩) (apertured mapped none)).fabric.open_.length = 1 ∧
    (after (.functionLevelReset 0) base).corridors.length = 1 ∧ (after (.functionLevelReset 65) base).corridors.length = 1 ∧
    (after (.functionLevelReset 64) (taken [])).host.taken.length = 1 ∧ (ask.openRequest 1).isSome = true ∧
    ((after (.pageRequestResponse 1 true) ask).host.pageRequests.map PageReq.done) = [true] ∧
    (after (.pageRequestResponse 1 true) ask).host.atsCache.length = 1 ∧
    ((after (.frResp 0 4 false) fault).host.faults.map FaultRec.answered) = [true] ∧ (after (.frResp 0 4 true) fault).host.faults.length = 0 := by
  decide +kernel

/-- HostLinkEvents: registers at the ends of their ranges. -/
theorem wit_HostRegisters :
    (after (.registerWrite 1 .packageNumber 5) base).fabric.pkg = 0 ∧ (after (.registerWrite 0 .packageNumber 5) base).fabric.pkg = 5 ∧
    ((after (.registerWrite 0 (.queueOwner 1023) 64) base).queue 1023).owner = 64 ∧ (after (.registerWrite 65 .retryTimeout 8) base).fabric.timeoutUs = 8 ∧
    (after (.registerWrite 65 .retryTimeout 1025) base).fabric.timeoutUs = 64 ∧ (after (.registerWrite 0 .retryCount 2) base).fabric.retries = 3 ∧
    (base.owned 1)[0]? = none ∧ ((base.setQueue 9 { Queue.reset with owner := 1 }).owned 1)[0]? = some 9 ∧
    (after (.registerWrite 65 .retryCount 3) base).fabric.retries = 3 ∧
    (after (.replicaDigestRequest 1 0) base).depot.replies = [(1, 0, none)] := by decide +kernel

/-- StepRunsDecoded: an event, boot statuses at the ends of their range, each outcome of a fetch. -/
theorem wit_StepRunsDecoded :
    let next (s : State) : State := match step s with | .next t => t | _ => s
    let code (ws : List Half) : State := base.setTile 0 { base.tile 0 with mem := Mem.writeHalves [] 0 ws }
    let stops (f : Fault) (s : State) : Bool := match step s with | .fault g => decide (f = g) | _ => false
    let booted (b : BitVec 8) : State := { base with depot := { base.depot with booted := some b } }
    isEvent .suspicionDecay = true ∧ (next { base with agenda := [.registerWrite 0 .packageNumber 5] }).fabric.pkg = 5 ∧
    stops .powerRemoved { base with power := { base.power with removed := true } } = true ∧ (next State.reset).clock = 1 ∧
    stops (.bootHalted 2) (booted 2) = true ∧ stops (.bootHalted 6) (booted 6) = true ∧ (next (booted 1)).clock = 1 ∧
    base.nextStrand = some ⟨1, 0, 0⟩ ∧ (next (code [0x6105])).getS 1 = 5 ∧
    (next ((code [0x6105]).onMe fun x => { x with annul := 1 })).getS 1 = 0 ∧ (next (code [0xFFFF, 0xFFFF])).me.cause.map TrapInfo.cause = some cILLEGAL ∧
    (next (me fun x => { x with pc0 := 0xFFFE, pc1 := 0x10000, pc2 := 0x10002 })).me.pc0 = 0x10000 ∧
    (next (me fun x => { x with pc0 := 0x10000 })).me.cause.map TrapInfo.cause = some cPROT := by decide +kernel

/-- DecodeEncode and StepKeepsTidy: a well-formed instruction, and a step from a state whose memories are in order. -/
theorem wit_DecodeEncode : WellFormed.wf (.vfma ⟨31, 30, 29, 7, 11⟩ ⟨true, true, true, true, 31⟩) = true := by decide +kernel

theorem wit_StepKeepsTidy : Tidy base ∧ ∃ t, step base = .next t ∧ t.clock = 1 := ⟨tidy_base, _, rfl, by decide +kernel⟩

end Sys2Proof.Tests
end

section
/-! The scalar logic, move, division and bit instructions: bit-level facts about the model's word operations, and the
statements of R188 to R194 that rest on them. -/

namespace Sys2Proof.Machine

/-! ### Instructions that answer one scalar word -/

/-- As `Writes.value`, for a word that the claim spells in another way. -/
theorem Writes.value_of_eq {i : Instr} {s : State} {d : Reg} {w w' : Word} (e : w = w')
    (h : exec i s = (Eff.value s d w).out) : Writes i s d w' 0 :=
  e ▸ Writes.value h

/-- A word delivered under a predicted residue (R105) is written as it is. -/
theorem Writes.predicted_word {i : Instr} {s : State} {d : Reg} {w : Word} {bad : Bool} {dev : Int}
    (h : exec i s = (Eff.done (s.deliverPredicted d (w.toNat, 0) bad dev)).out) : Writes i s d w 0 := by
  simpa using Writes.predicted h

theorem Eff.divides_of_ne {s : State} {b : Reg} {k : Eff} (h : s.getS b ≠ 0) : Eff.divides s b k = k := by
  rw [Eff.divides, Eff.check, if_pos (bne_iff_ne.mpr h)]

theorem Eff.divides_of_eq {s : State} {b : Reg} {k : Eff} (h : s.getS b = 0) :
    Eff.divides s b k = .trap s cDIVZ 0 false false := by
  simp [Eff.divides, Eff.check, h]

/-- A division writes its result where the divisor is not 0. -/
theorem Writes.divides {i : Instr} {s : State} {d b : Reg} {w w' : Word} (hb : s.getS b ≠ 0) (e : w = w')
    (h : exec i s = (Eff.divides s b (Eff.value s d w)).out) : Writes i s d w' 0 :=
  Writes.value_of_eq e (by rw [h, Eff.divides_of_ne hb])

/-- A division traps where the divisor is 0. -/
theorem Traps.divides {i : Instr} {s : State} {b : Reg} {k : Eff} (hb : s.getS b = 0)
    (h : exec i s = (Eff.divides s b k).out) : Traps i s cDIVZ 0 false := by
  rw [Eff.divides_of_eq hb] at h
  exact h

/-! ### Comparisons (R189) -/

theorem flagWord_slt (a b : Word) : flagWord (a.slt b) = if a.toInt < b.toInt then 1 else 0 := by
  simp [flagWord, BitVec.slt_iff_toInt_lt]

theorem flagWord_ult (a b : Word) : flagWord (a.ult b) = if a.toNat < b.toNat then 1 else 0 := by
  simp [flagWord, BitVec.ult]

theorem flagWord_beq (a b : Word) : flagWord (a == b) = if a = b then 1 else 0 := by
  simp [flagWord]

theorem flagWord_bne (a b : Word) : flagWord (a != b) = if a = b then 0 else 1 := by
  simp [flagWord]

/-! ### Fields of a word (R190, R193) -/

/-- Writing a field changes the bits of the field and no other. -/
theorem getLsbD_setBits (w : Word) (hi lo v : Nat) {i : Nat} (h : i < 64) :
    (setBits w hi lo v).getLsbD i = if lo ≤ i ∧ i ≤ hi then v.testBit (i - lo) else w.getLsbD i := by
  simp only [setBits, BitVec.getLsbD_or, BitVec.getLsbD_and, BitVec.getLsbD_not, BitVec.getLsbD_ofNat, h,
    Nat.testBit_shiftLeft, Nat.testBit_two_pow_sub_one, Nat.testBit_mod_two_pow, decide_true, Bool.true_and]
  by_cases hlo : lo ≤ i
  · have : i - lo < hi + 1 - lo ↔ i ≤ hi := by omega
    by_cases hhi : i ≤ hi <;> simp [hlo, hhi, this]
  · simp [hlo]

/-- Replacing the high half of a word (`lih`). -/
theorem setBits_high (w m : Word) : setBits w 63 32 m.toNat = m.extractLsb' 0 32 ++ w.extractLsb' 0 32 := by
  apply BitVec.eq_of_getLsbD_eq
  intro i hi
  rw [getLsbD_setBits _ _ _ _ hi, BitVec.getLsbD_append, BitVec.getLsbD_extractLsb', BitVec.getLsbD_extractLsb']
  by_cases h : i < 32
  · simp [h, Nat.not_le.mpr h]
  · have h32 : 32 ≤ i := Nat.le_of_not_lt h
    have : i - 32 < 32 := by omega
    simp [h, h32, this, Nat.le_of_lt_succ hi, BitVec.testBit_toNat]

theorem amount_lt (w : Word) : amount w < 64 := Nat.mod_lt _ (by decide)

/-- A field of width w + 1 that is cut at bit 63 has min (w + 1) (64 - q) bits. -/
theorem fieldTop_width {q : Nat} (hq : q < 64) (w : Nat) : fieldTop q (w + 1) + 1 - q = min (w + 1) (64 - q) := by
  unfold fieldTop
  split <;> omega

theorem bits_eq_extractLsb' (a : Word) (hi lo : Nat) : bits a hi lo = (a.extractLsb' lo (hi + 1 - lo)).toNat := by
  rw [bits, BitVec.extractLsb'_toNat]

/-- A bit vector read as a signed integer of its width is its two's complement value. -/
theorem IFmt.read_signed_toNat {n : Nat} (hn : 0 < n) (x : BitVec n) : (IFmt.mk n true).read x.toNat = x.toInt := by
  have hpow := Nat.two_pow_pred_mul_two hn
  simp only [IFmt.read, Nat.mod_eq_of_lt x.isLt, Bool.true_and, decide_eq_true_eq, BitVec.toInt_eq_toNat_cond]
  split <;> split <;> omega

/-- `bfx`: the field with zeros above it. -/
theorem field_unsigned (a : Word) {q : Nat} (hq : q < 64) (w : Nat) :
    BitVec.ofNat 64 (bits a (fieldTop q (w + 1)) q) = (a.extractLsb' q (min (w + 1) (64 - q))).setWidth 64 := by
  rw [bits_eq_extractLsb', BitVec.ofNat_toNat, fieldTop_width hq]

/-- `bfxs`: the field with its sign above it. -/
theorem field_signed (a : Word) {q : Nat} (hq : q < 64) (w : Nat) :
    BitVec.ofInt 64 ((IFmt.mk (fieldTop q (w + 1) - q + 1) true).read (bits a (fieldTop q (w + 1)) q)) =
      (a.extractLsb' q (min (w + 1) (64 - q))).signExtend 64 := by
  have hwidth := fieldTop_width hq w
  have htop : fieldTop q (w + 1) - q + 1 = min (w + 1) (64 - q) := by omega
  rw [bits_eq_extractLsb', htop, hwidth, IFmt.read_signed_toNat (by omega), BitVec.signExtend]

/-- `bfi`: the bits of the field are the low bits of the source. -/
theorem getLsbD_insert_field (d a : Word) {q : Nat} (hq : q < 64) (w : Nat) {i : Nat} (hi : i < 64) :
    (setBits d (fieldTop q (w + 1)) q a.toNat).getLsbD i =
      if q ≤ i ∧ i < q + min (w + 1) (64 - q) then a.getLsbD (i - q) else d.getLsbD i := by
  have hwidth := fieldTop_width hq w
  have : i ≤ fieldTop q (w + 1) ↔ i < q + min (w + 1) (64 - q) := by omega
  simp only [getLsbD_setBits _ _ _ _ hi, this, BitVec.testBit_toNat]

/-! ### Quotients and remainders (R191) -/

theorem ofInt_tdiv (a b : Word) : BitVec.ofInt 64 (a.toInt.tdiv b.toInt) = a.sdiv b :=
  BitVec.eq_of_toInt_eq (by rw [BitVec.toInt_ofInt, BitVec.toInt_sdiv])

theorem ofInt_tmod (a b : Word) : BitVec.ofInt 64 (a.toInt.tmod b.toInt) = a.srem b := by
  rw [← BitVec.toInt_srem, BitVec.ofInt_toInt]

theorem ofNat_div (a b : Word) : BitVec.ofNat 64 (a.toNat / b.toNat) = a.udiv b :=
  BitVec.udiv_def.symm

theorem ofNat_mod (a b : Word) : BitVec.ofNat 64 (a.toNat % b.toNat) = a.umod b :=
  BitVec.umod_def.symm

/-! ### Bit counts and reversal (R192) -/

theorem firstSet_le (p : Nat → Bool) (n i : Nat) : firstSet p n i ≤ n := by
  induction n generalizing i with
  | zero => exact Nat.le_refl 0
  | succ n ih =>
    have := ih (i + 1)
    unfold firstSet
    split <;> omega

/-- No bit before the first one is set. -/
theorem firstSet_before (p : Nat → Bool) {n i j : Nat} (h : j < firstSet p n i) : p (i + j) = false := by
  induction n generalizing i j with
  | zero => exact absurd h (Nat.not_lt_zero j)
  | succ n ih =>
    unfold firstSet at h
    split at h
    case isTrue => exact absurd h (Nat.not_lt_zero j)
    case isFalse hp =>
      cases j with
      | zero => simpa using hp
      | succ j =>
        have := ih (i := i + 1) (j := j) (by omega)
        rwa [Nat.add_right_comm] at this

/-- Where there is a set bit, the first one is set. -/
theorem firstSet_at (p : Nat → Bool) {n i : Nat} (h : firstSet p n i < n) : p (i + firstSet p n i) = true := by
  induction n generalizing i with
  | zero => exact absurd h (Nat.not_lt_zero _)
  | succ n ih =>
    unfold firstSet at h ⊢
    split
    case isTrue hp => exact hp
    case isFalse hp =>
      have := ih (i := i + 1) (by rw [if_neg hp] at h; omega)
      rwa [← Nat.add_assoc]

/-- The first set position, counted from 0. -/
theorem firstSet_spec (p : Nat → Bool) (n : Nat) :
    firstSet p n 0 ≤ n ∧ (∀ i < firstSet p n 0, p i = false) ∧ (firstSet p n 0 < n → p (firstSet p n 0) = true) :=
  ⟨firstSet_le p n 0, fun i hi => by simpa using firstSet_before p hi, fun h => by simpa using firstSet_at p h⟩

/-- Counting by a sum of ones and zeros. -/
theorem sum_indicator (p : Nat → Bool) (l : List Nat) : (l.map fun i => if p i then 1 else 0).sum = l.countP p := by
  induction l with
  | nil => rfl
  | cons x r ih => rw [List.map_cons, List.sum_cons, ih, List.countP_cons, Nat.add_comm]

theorem ones_eq_countP (w : Word) : ones w = (List.range 64).countP fun i => w.getLsbD i :=
  sum_indicator _ _

/-- The number whose n binary digits, the highest first, are `p 0`, `p 1`, …. -/
def digitSum (p : Nat → Bool) (n : Nat) : Nat := ((List.range n).map fun i => if p i then 2 ^ (n - 1 - i) else 0).sum

theorem digitSum_succ (p : Nat → Bool) (n : Nat) :
    digitSum p (n + 1) = (if p 0 then 2 ^ n else 0) + digitSum (fun i => p (i + 1)) n := by
  simp [digitSum, List.range_succ_eq_map, Function.comp_def, Nat.sub_sub, Nat.add_comm]

theorem digitSum_lt (p : Nat → Bool) (n : Nat) : digitSum p n < 2 ^ n := by
  induction n generalizing p with
  | zero => simp [digitSum]
  | succ n ih =>
    have := ih fun i => p (i + 1)
    rw [digitSum_succ, Nat.pow_succ]
    split <;> omega

/-- Digit i of the number, counted from the lowest. -/
theorem testBit_digitSum (p : Nat → Bool) {n i : Nat} (h : i < n) : (digitSum p n).testBit i = p (n - 1 - i) := by
  induction n generalizing p with
  | zero => exact absurd h (Nat.not_lt_zero i)
  | succ n ih =>
    have hlt := digitSum_lt (fun i => p (i + 1)) n
    rw [digitSum_succ]
    by_cases hi : i = n
    · subst hi
      cases hp : p 0 <;> simp [hp, Nat.testBit_two_pow_add_eq, Nat.testBit_lt_two_pow hlt]
    · have hin : i < n := by omega
      have hrest := ih (fun i => p (i + 1)) hin
      have hpos : n - 1 - i + 1 = n - i := by omega
      cases p 0 <;> simp [hrest, hpos, Nat.testBit_two_pow_add_gt hin]

theorem reverseBits_eq_digitSum (w : Word) : reverseBits w = BitVec.ofNat 64 (digitSum w.getLsbD 64) := rfl

theorem getLsbD_reverseBits (w : Word) {i : Nat} (h : i < 64) : (reverseBits w).getLsbD i = w.getLsbD (63 - i) := by
  rw [reverseBits_eq_digitSum, BitVec.getLsbD_ofNat, testBit_digitSum _ h, decide_eq_true h, Bool.true_and]

/-! ### The statements -/

/-- Settles O2: each result is the word that the model's meaning writes; `shli` and `lih` predict its residue, and the
field that `lih` replaces is the high half. -/
theorem scalarLogicAndMoves : Obligations.ScalarLogicAndMoves := by
  unfold Obligations.ScalarLogicAndMoves
  refine ⟨fun s o k => ⟨.value rfl, .value rfl, .value rfl, .value rfl, .value rfl, .value rfl, .value rfl, .value rfl,
    .value rfl, .value rfl, .value rfl, fun _ _ => ⟨.predicted_word rfl, .value rfl, .value rfl⟩⟩, fun s o l c => ?_⟩
  refine ⟨.value_of_eq (flagWord_slt _ _) rfl, .value_of_eq (flagWord_ult _ _) rfl, .value_of_eq (flagWord_beq _ _) rfl,
    .value_of_eq (flagWord_bne _ _) rfl, .value rfl, ?lih, ?sel, ?selz⟩
  case lih =>
    rw [← setBits_high]
    exact .predicted_word rfl
  case sel => exact .value_of_eq (by simp) rfl
  case selz => exact .value_of_eq (by simp) rfl

/-- Settles O3: the check of the divisor comes before everything else, and the exact quotients and remainders wrap to
those of 64-bit words. -/
theorem division : Obligations.Division := by
  unfold Obligations.Division
  intro s o a b
  refine ⟨fun hb => ⟨?div, ?rem, ?divu, ?remu⟩,
    fun hb => ⟨.divides hb rfl, .divides hb rfl, .divides hb rfl, .divides hb rfl⟩⟩
  case div => exact .divides hb (ofInt_tdiv a b) rfl
  case rem => exact .divides hb (ofInt_tmod a b) rfl
  case divu => exact .divides hb (ofNat_div a b) rfl
  case remu => exact .divides hb (ofNat_mod a b) rfl

/-- Settles O4: the counts of zeros are the place of a first set bit, reversal is a number written by its digits, and a
field that is cut at bit 63 has min (w + 1) (64 - q) bits. -/
theorem bitOperations : Obligations.BitOperations := by
  unfold Obligations.BitOperations
  refine ⟨fun s o => ⟨?clz, ?ctz, .value_of_eq (by rw [ones_eq_countP]) rfl,
    _, .value rfl, fun i hi => getLsbD_reverseBits _ hi⟩, fun s o w => ?fields⟩
  case clz =>
    obtain ⟨hle, hbefore, hat⟩ := firstSet_spec (fun i => (s.getS o.a).getLsbD (63 - i)) 64
    exact ⟨leadingZeros (s.getS o.a), hle, .value rfl, hbefore, hat⟩
  case ctz =>
    obtain ⟨hle, hbefore, hat⟩ := firstSet_spec (fun i => (s.getS o.a).getLsbD i) 64
    exact ⟨trailingZeros (s.getS o.a), hle, .value rfl, hbefore, hat⟩
  case fields =>
    have hq := amount_lt (s.getS o.b)
    exact ⟨.value_of_eq (field_unsigned _ hq _) rfl, .value_of_eq (field_signed _ hq _) rfl,
      _, .value rfl, fun i hi => getLsbD_insert_field _ _ hq _ hi⟩

end Sys2Proof.Machine
end

section
/-! Distribution tables: the owner and the local element of coordinates as folds over the dimensions of a table (R224,
R225), and the statement of R225. -/

namespace Sys2Proof.Machine

/-! ### The fields of a table and of its coordinates -/

/-- The 16-bit field n of dimension d: the extent, the block, the owners and the local extent. -/
def tableField (t : List Word) (d n : Nat) : Nat := ((t.getD (1 + d) 0).extractLsb' (16 * n) 16).toNat

/-- The coordinate of dimension d. -/
def coordinate (x : Word) (d : Nat) : Nat := (x.extractLsb' (16 * d) 16).toNat

/-- The owner after dimension d, from the owner before it. -/
def ownerStep (t : List Word) (x : Word) (r d : Nat) : Nat :=
  r * tableField t d 2 + coordinate x d / tableField t d 1 % tableField t d 2

/-- The local element after dimension d, from the local element before it. -/
def localStep (t : List Word) (x : Word) (r d : Nat) : Nat :=
  r * tableField t d 3 + (coordinate x d / (tableField t d 1 * tableField t d 2) * tableField t d 1 +
    coordinate x d % tableField t d 1)

theorem tableDim_eq_tableField (t : List Word) (d : Nat) :
    tableDim t d = (tableField t d 0, tableField t d 1, tableField t d 2, tableField t d 3) := by
  simp only [tableDim, tableField, bits_eq_extractLsb']

theorem bits_eq_coordinate (x : Word) (d : Nat) : bits x (16 * d + 15) (16 * d) = coordinate x d := by
  have hwidth : 16 * d + 15 + 1 - 16 * d = 16 := by omega
  rw [bits_eq_extractLsb', hwidth, coordinate]

/-! ### Locating coordinates, one dimension at a time -/

/-- A coordinate at or beyond its extent has no place. -/
theorem locate_succ_of_le {t : List Word} {x : Word} {d : Nat} (h : tableField t d 0 ≤ coordinate x d) (n r l : Nat) :
    locate t x (n + 1) d r l = none := by
  simp only [locate, tableDim_eq_tableField, bits_eq_coordinate, if_pos h]

/-- A coordinate below its extent takes one step of the owner and of the local element. -/
theorem locate_succ_of_lt {t : List Word} {x : Word} {d : Nat} (h : coordinate x d < tableField t d 0) (n r l : Nat) :
    locate t x (n + 1) d r l = locate t x n (d + 1) (ownerStep t x r d) (localStep t x l d) := by
  simp only [locate, tableDim_eq_tableField, bits_eq_coordinate, if_neg (Nat.not_le.mpr h), ownerStep, localStep]

/-- Coordinates below their extents have the place that the steps of all dimensions give. -/
theorem locate_eq_foldl {t : List Word} {x : Word} {n d : Nat}
    (h : ∀ e ∈ List.range' d n, coordinate x e < tableField t e 0) (r l : Nat) :
    locate t x n d r l = some ((List.range' d n).foldl (ownerStep t x) r, (List.range' d n).foldl (localStep t x) l) := by
  induction n generalizing d r l with
  | zero => rfl
  | succ n ih =>
    rw [List.range'_succ, List.forall_mem_cons] at h
    obtain ⟨hfirst, hrest⟩ := h
    rw [locate_succ_of_lt hfirst, ih hrest, List.range'_succ, List.foldl_cons, List.foldl_cons]

/-- Where one coordinate is at or beyond its extent, there is no place. -/
theorem locate_eq_none {t : List Word} {x : Word} {n d : Nat}
    (h : ∃ e ∈ List.range' d n, tableField t e 0 ≤ coordinate x e) (r l : Nat) : locate t x n d r l = none := by
  induction n generalizing d r l with
  | zero => simp at h
  | succ n ih =>
    by_cases hd : tableField t d 0 ≤ coordinate x d
    case pos => exact locate_succ_of_le hd n r l
    case neg =>
      have hrest : ∃ e ∈ List.range' (d + 1) n, tableField t e 0 ≤ coordinate x e := by
        simpa [List.range'_succ, hd] using h
      rw [locate_succ_of_lt (Nat.not_le.mp hd), ih hrest]

/-! ### The place under a whole table -/

/-- The number of dimensions in use; an unused table has none. -/
def tableDims (t : List Word) : Nat := ((t.getD 0 0).extractLsb' 16 3).toNat

theorem bits_eq_tableDims (t : List Word) : bits (t.getD 0 0) 18 16 = tableDims t := bits_eq_extractLsb' _ 18 16

theorem tablePlace_eq_some {t : List Word} {x : Word} (hdims : tableDims t ≠ 0)
    (h : ∀ d, d < tableDims t → coordinate x d < tableField t d 0) :
    tablePlace t x = some
      (((t.getD 0 0).extractLsb' 0 16).toNat + (List.range (tableDims t)).foldl (ownerStep t x) 0,
       ((t.getD 0 0).extractLsb' 24 21).toNat +
        (List.range (tableDims t)).foldl (localStep t x) 0 * 2 ^ ((t.getD 0 0).extractLsb' 20 4).toNat) := by
  have hplace : locate t x (tableDims t) 0 0 0 = some
      ((List.range (tableDims t)).foldl (ownerStep t x) 0, (List.range (tableDims t)).foldl (localStep t x) 0) := by
    rw [List.range_eq_range']
    exact locate_eq_foldl (fun d hd => h d (by simpa using hd)) 0 0
  simp only [tablePlace, bits_eq_tableDims, if_neg hdims, hplace]
  simp only [bits_eq_extractLsb']

theorem tablePlace_eq_none {t : List Word} {x : Word}
    (h : tableDims t = 0 ∨ ∃ d, d < tableDims t ∧ tableField t d 0 ≤ coordinate x d) : tablePlace t x = none := by
  by_cases hdims : tableDims t = 0
  case pos => simp only [tablePlace, bits_eq_tableDims, if_pos hdims]
  case neg =>
    obtain ⟨d, hd, hext⟩ := h.resolve_left hdims
    have hplace : locate t x (tableDims t) 0 0 0 = none := locate_eq_none ⟨d, by simpa using hd, hext⟩ 0 0
    simp only [tablePlace, bits_eq_tableDims, if_neg hdims, hplace]

/-! ### Instructions that answer a place -/

/-- An instruction that answers from the place of its coordinates writes that answer. -/
theorem Writes.place {i : Instr} {s : State} {o : R2} {t : BitVec 5} {k : Nat → Nat → Word} {vt off : Nat}
    {w : Word} (hplace : tablePlace (KMap.getD s.image.dtabs t.toNat []) (s.getS o.a) = some (vt, off))
    (h : exec i s = (Eff.place s o t k).out) (e : k vt off = w) : Writes i s o.d w 0 :=
  Writes.value_of_eq e (by simp only [h, Eff.place, hplace, Eff.value])

/-- An instruction that answers from the place of its coordinates traps where they have none. -/
theorem Traps.place {i : Instr} {s : State} {o : R2} {t : BitVec 5} {k : Nat → Nat → Word}
    (hplace : tablePlace (KMap.getD s.image.dtabs t.toNat []) (s.getS o.a) = none)
    (h : exec i s = (Eff.place s o t k).out) : Traps i s cPROT 0 false := by
  simp only [Eff.place, hplace] at h
  exact h

/-! ### The statement -/

/-- Settles O19: the model's walk over the dimensions is a fold as long as every coordinate is below its extent, and ends
without a place at the first one that is not. -/
theorem tablePlaces : Obligations.TablePlaces := by
  unfold Obligations.TablePlaces
  intro s o k t h dims field coord owner loc vt off
  refine ⟨fun hdims hcoords => ?inside, fun houtside => ?outside⟩
  case inside =>
    have hplace : tablePlace t (s.getS o.a) = some (vt, off) := tablePlace_eq_some hdims hcoords
    exact ⟨.place hplace rfl rfl, .place hplace rfl rfl⟩
  case outside =>
    have hplace : tablePlace t (s.getS o.a) = none := tablePlace_eq_none houtside
    exact ⟨.place hplace rfl, .place hplace rfl⟩

end Sys2Proof.Machine
end
